-- ==== Sys2Proof/Word.lean ====
section
/-! DEFINITION. The word types of the model and their plainest arithmetic. -/
namespace Sys2Proof

/-- A 64-bit register value (spec 02 R61: a v or g register holds 64 bits). -/
abbrev Word := BitVec 64

/-- A byte, the location of the memory model (spec 04 R119). -/
abbrev Byte := BitVec 8

end Sys2Proof
end

