-- ==== Sys2Proof/Machine/Bits.lean ====
section
/-! DEFINITION. Bit fields, sign extension and byte order on natural numbers (spec 00 R3-R6). -/
namespace Sys2Proof.Machine

/-- Field [hi:lo] of x. -/
def bits (x hi lo : Nat) : Nat := (x / 2 ^ lo) % 2 ^ (hi + 1 - lo)

/-- Bit i of x. -/
def bit (x i : Nat) : Bool := (x / 2 ^ i) % 2 == 1

def b2n (b : Bool) : Nat := if b then 1 else 0

/-- The low n bits of x read in two's complement. -/
def sext (x n : Nat) : Int :=
  let y := x % 2 ^ n
  if 2 * y ≥ 2 ^ n then (y : Int) - (2 ^ n : Nat) else (y : Int)

/-- An integer reduced to n bits. -/
def ofInt (n : Nat) (i : Int) : Nat := (i % ((2 ^ n : Nat) : Int)).toNat

/-- Ones in bits n - 1 to 0. -/
def ones (n : Nat) : Nat := 2 ^ n - 1

/-- x with its field [hi:lo] replaced by the low bits of y. -/
def setBits (x hi lo y : Nat) : Nat :=
  x - bits x hi lo * 2 ^ lo + (y % 2 ^ (hi + 1 - lo)) * 2 ^ lo

/-- The n low bytes of x, least significant first (spec 00 R5). -/
def leBytes : Nat → Nat → List Byte
  | 0, _ => []
  | n + 1, x => BitVec.ofNat 8 x :: leBytes n (x / 256)

/-- The number that bytes in ascending address order hold. -/
def ofBytes : List Byte → Nat
  | [] => 0
  | b :: bs => b.toNat + 256 * ofBytes bs

/-- floor(log2 x) of a positive natural number; 0 for 0. -/
def log2Nat (x : Nat) : Nat := Nat.log2 x

/-- The number of ones among the low n bits of x. -/
def popCount : Nat → Nat → Nat
  | 0, _ => 0
  | n + 1, x => x % 2 + popCount n (x / 2)

/-- The low n bits of x in reverse order. -/
def revBits : Nat → Nat → Nat
  | 0, _ => 0
  | n + 1, x => (x % 2) * 2 ^ n + revBits n (x / 2)

/-- The low n bytes of x in reverse order. -/
def revBytes : Nat → Nat → Nat
  | 0, _ => 0
  | n + 1, x => (x % 256) * 256 ^ n + revBytes n (x / 256)

/-- a rounded up to a multiple of n. -/
def roundUp (a n : Nat) : Nat := (a + n - 1) / n * n

/-- Whether n is a power of two. -/
def isPow2 (n : Nat) : Bool := n != 0 && 2 ^ (Nat.log2 n) == n

/-- The first element that p accepts, with its position. -/
def findIdxVal {α : Type} (p : α → Bool) : List α → Nat → Option (Nat × α)
  | [], _ => none
  | x :: xs, k => if p x then some (k, x) else findIdxVal p xs (k + 1)

/-- Insertion of x into a list kept ascending under le, after the elements that do not follow it. -/
def insertBy {α : Type} (le : α → α → Bool) (x : α) : List α → List α
  | [] => [x]
  | y :: ys => if le y x then y :: insertBy le x ys else x :: y :: ys

/-- A stable insertion sort. -/
def sortBy {α : Type} (le : α → α → Bool) (xs : List α) : List α :=
  xs.foldl (fun acc x => insertBy le x acc) []

end Sys2Proof.Machine
end

