-- ==== Sys2Proof/Syntax.lean ====
section
/-! DEFINITION. The syntax of DV1: the fields of the 32-, 64- and 96-bit forms, and ONE inductive with a constructor for
every row of the opcode table, the rows for whole events of the part among them. -/
namespace Sys2Proof

/-- The three long forms (spec 05 R151-R153). The 16-bit forms have rows and constructors of their own (R161). -/
inductive Form | w32 | w64 | w96
  deriving DecidableEq, Repr

/-- The fields of an instruction in one of the long forms (spec 05 R151-R153). A form that has no bits for a field
holds it at 0; `WellFormed` says which values each form can hold. -/
structure Fld where
  form  : Form
  /-- guard sense and predicate (R154) -/
  sense : Bool
  guard : BitVec 3
  /-- the pace field (R155) -/
  pace  : BitVec 4
  d : BitVec 8
  a : BitVec 8
  b : BitVec 8
  c : BitVec 8
  /-- the slot field (R158) -/
  slot : BitVec 4
  /-- the modifier field (R159) -/
  m : BitVec 9
  /-- the literal of the 96-bit form (R153) -/
  lit : BitVec 32
  deriving DecidableEq, Repr

/-- What a telemetry refresh measures: the environment supplies it (spec 18 R445). `energy` is what the die has drawn since its
last refresh, `csram` counts the corrected SRAM errors since then that no event of the part has named. -/
structure Telemetry where
  temp : BitVec 16
  power : BitVec 32
  energy : Word
  csram : BitVec 32
  package : Word
  deriving DecidableEq, Repr

/-- The kinds of request that reach the package from a link (spec 16 R412-R416, R420): the PCIe AtomicOps, and the other
integer and floating-point atomics of a UALink peer. -/
inductive InKind
  | read | write | fetchAdd | swap | cas
  | min (signed : Bool)
  | max (signed : Bool)
  | and | or | xor | inc | dec | float
  deriving DecidableEq, Repr

/-- A request arriving at a PCIe port or, for `peer`, from a UALink accelerator (spec 16 R412-R415, R420). -/
structure InReq where
  kind : InKind
  port : Nat
  peer : Nat
  /-- offset in the device-memory aperture or physical address at the package -/
  addr : Nat
  len  : Nat
  data : List Byte
  relaxed : Bool
  idOrdered : Bool
  requester : Nat
  poisoned : Bool
  deriving DecidableEq, Repr

/-- One constructor per row of the opcode table. -/
inductive Instr
  /-- R161 16-bit mov vd, vs. -/
  | mov16 (rd rs : BitVec 4)
  /-- R161 16-bit iadd vd, vd, vs. -/
  | iadd16 (rd rs : BitVec 4)
  /-- R161 16-bit iadd vd, vd, imm. -/
  | iadd16Imm (rd imm : BitVec 4)
  /-- R161 16-bit isub vd, vd, vs. -/
  | isub16 (rd rs : BitVec 4)
  /-- R161 16-bit isub vd, vd, imm. -/
  | isub16Imm (rd imm : BitVec 4)
  /-- R161 16-bit and vd, vd, vs. -/
  | and16 (rd rs : BitVec 4)
  /-- R161 16-bit or vd, vd, vs. -/
  | or16 (rd rs : BitVec 4)
  /-- R161 16-bit xor vd, vd, vs. -/
  | xor16 (rd rs : BitVec 4)
  /-- R161 16-bit shl vd, vd, vs. -/
  | shl16 (rd rs : BitVec 4)
  /-- R161 16-bit shl vd, vd, 16·kk + imm. -/
  | shl16Imm (kk : BitVec 2) (rd imm : BitVec 4)
  /-- R161 16-bit logical shr vd, vd, vs. -/
  | shr16 (rd rs : BitVec 4)
  /-- R161 16-bit logical shr vd, vd, 16·kk + imm. -/
  | shr16Imm (kk : BitVec 2) (rd imm : BitVec 4)
  /-- R161 16-bit fadd.fd0 vd, vd, vs. -/
  | fadd16 (rd rs : BitVec 4)
  /-- R161 16-bit fmul.fd0 vd, vd, vs. -/
  | fmul16 (rd rs : BitVec 4)
  /-- R161 16-bit fmax.fd0 vd, vd, vs. -/
  | fmax16 (rd rs : BitVec 4)
  /-- R161 16-bit ld.n64 vd, [vs + 8·mod]. -/
  | ld64 (mod : BitVec 3) (rd rs : BitVec 4)
  /-- R161 16-bit st.n64 [vs + 8·mod], vd. -/
  | st64 (mod : BitVec 3) (rd rs : BitVec 4)
  /-- R161 16-bit branch by an 11-bit signed halfword offset. -/
  | bra16 (off : BitVec 11)
  /-- R161 16-bit setp into p1 with comparison and type chosen by mod. -/
  | setp16 (mod : BitVec 3) (rd rs : BitVec 4)
  /-- R161 16-bit nop. -/
  | nop16 
  /-- R194 Does nothing. -/
  | nop (f : Fld)
  /-- R195 Transfers to the trap handler with the trap number, or takes an unhandled-trap fault. -/
  | trap (f : Fld)
  /-- R183 Branches to a PC-relative target. -/
  | bra (f : Fld)
  /-- R183 Transfers to the code handle in a register. -/
  | brx (f : Fld)
  /-- R183 Writes the return handle and branches to a PC-relative target. -/
  | call (f : Fld)
  /-- R183 Writes the return handle and transfers to a handle in a register. -/
  | callx (f : Fld)
  /-- R187 Group-convergent windowed call that spills rows, slides the ring by n and branches. -/
  | callW (f : Fld)
  /-- R187 Group-convergent windowed call through a handle. -/
  | callxW (f : Fld)
  /-- R183 Transfers to the handle in a register. -/
  | ret (f : Fld)
  /-- R188 Group-convergent windowed return that fills rows, slides the ring back and transfers through v0. -/
  | retW (f : Fld)
  /-- R184 Ends the thread, leaving its barriers and faulting held cross-lane partners. -/
  | exit (f : Fld)
  /-- R189 Writes the n oldest resident ring rows to the backing store. -/
  | spill (f : Fld)
  /-- R189 Reads n rows from the backing store into the ring. -/
  | fill (f : Fld)
  /-- R183 Writes the code handle of a PC-relative target. -/
  | mkh (f : Fld)
  /-- R183 Writes the instruction's absolute address. -/
  | rdpc (f : Fld)
  /-- R199 Stops the thread watching its own encoding's bytes at their home. -/
  | park (f : Fld)
  /-- R198 Waits until a word's home holds a value passing the comparison, then writes it and acquires. -/
  | waitmem (f : Fld)
  /-- R193 Reads device information by selector. -/
  | sysq (f : Fld)
  /-- R191 Reads a special source into a register. -/
  | movsRead (f : Fld)
  /-- R191 Writes a special register. -/
  | movsWrite (f : Fld)
  /-- R200 Discards instruction-cache copies of a range on every core in scope. -/
  | icinv (f : Fld)
  /-- R200 Discards prefetched instructions after earlier ICINVs complete. -/
  | fbar (f : Fld)
  /-- R200 Performs at their homes the core's dirty bytes in a range. -/
  | cwb (f : Fld)
  /-- R196 Takes a breakpoint fault. -/
  | brk (f : Fld)
  /-- R183 Decrements a register and branches while it is not 0. -/
  | brdec (f : Fld)
  /-- R194 Elects the lowest guard-true lane into a predicate and writes its number. -/
  | elect (f : Fld)
  /-- R194 Stops issue for up to 65,535 clk. -/
  | idle (f : Fld)
  /-- R195 Returns from a trap handler to s.tpc. -/
  | tret (f : Fld)
  /-- R197 Reads a word of the group's fault record. -/
  | frec (f : Fld)
  /-- R194 Hints an instruction prefetch of a range. -/
  | icpf (f : Fld)
  /-- R176 Copies source b to the destination. -/
  | mov (f : Fld)
  /-- R176 Selects a or b by a predicate. -/
  | sel (f : Fld)
  /-- R176 Integer addition. -/
  | iadd (f : Fld)
  /-- R176 Integer subtraction. -/
  | isub (f : Fld)
  /-- R176 Integer multiplication, low half. -/
  | imul (f : Fld)
  /-- R176 High half of an integer product. -/
  | imulh (f : Fld)
  /-- R176 Integer multiply-add. -/
  | imad (f : Fld)
  /-- R176 Integer division truncated toward zero. -/
  | idiv (f : Fld)
  /-- R176 Integer remainder. -/
  | irem (f : Fld)
  /-- R176 Integer negation. -/
  | ineg (f : Fld)
  /-- R176 Integer absolute value. -/
  | iabs (f : Fld)
  /-- R176 Integer minimum. -/
  | imin (f : Fld)
  /-- R176 Integer maximum. -/
  | imax (f : Fld)
  /-- R176 Integer addition with carry in and carry out predicates. -/
  | iadc (f : Fld)
  /-- R176 Saturating integer addition. -/
  | iadds (f : Fld)
  /-- R176 Saturating integer subtraction. -/
  | isubs (f : Fld)
  /-- R176 Computes a + b × 2^s in 64 bits. -/
  | lea (f : Fld)
  /-- R176 Computes the instruction's address plus b. -/
  | lear (f : Fld)
  /-- R177 Bitwise and. -/
  | and (f : Fld)
  /-- R177 Bitwise or. -/
  | or (f : Fld)
  /-- R177 Bitwise exclusive or. -/
  | xor (f : Fld)
  /-- R177 Bitwise not. -/
  | not (f : Fld)
  /-- R177 a and not b. -/
  | andn (f : Fld)
  /-- R177 Three-input bitwise function by truth table. -/
  | logic3 (f : Fld)
  /-- R177 Shift left. -/
  | shl (f : Fld)
  /-- R177 Logical shift right. -/
  | shr (f : Fld)
  /-- R177 Arithmetic shift right. -/
  | sar (f : Fld)
  /-- R177 Rotate left. -/
  | rol (f : Fld)
  /-- R177 Rotate right. -/
  | ror (f : Fld)
  /-- R177 Double-width shift right. -/
  | dshr (f : Fld)
  /-- R178 Extracts a bit field, zero-extended. -/
  | bfx (f : Fld)
  /-- R178 Extracts a bit field, sign-extended. -/
  | bfxs (f : Fld)
  /-- R178 Inserts a bit field. -/
  | bfi (f : Fld)
  /-- R178 Counts one bits. -/
  | popc (f : Fld)
  /-- R178 Counts leading zeros. -/
  | clz (f : Fld)
  /-- R178 Counts trailing zeros. -/
  | ctz (f : Fld)
  /-- R178 Reverses bit order. -/
  | brev (f : Fld)
  /-- R178 Reverses byte order. -/
  | bswap (f : Fld)
  /-- R179 Sets a predicate from an integer comparison. -/
  | setp (f : Fld)
  /-- R179 Predicate function by truth table. -/
  | plogic (f : Fld)
  /-- R179 Moves predicates to or from a register. -/
  | pmov (f : Fld)
  /-- R179 Sets a predicate from a bit of a register. -/
  | pset (f : Fld)
  /-- R179 Sets a register from a predicate. -/
  | setv (f : Fld)
  /-- R178 Sign-extends from bit q. -/
  | sext (f : Fld)
  /-- R178 Zero-extends from bit q. -/
  | zext (f : Fld)
  /-- R178 Forms a bit mask. -/
  | bmsk (f : Fld)
  /-- R208 Writes a format definition register after the checks of R58. -/
  | fdset (f : Fld)
  /-- R208 Reads a format definition register. -/
  | fdget (f : Fld)
  /-- R210 Format-slot addition. -/
  | fadd (f : Fld)
  /-- R210 Format-slot subtraction. -/
  | fsub (f : Fld)
  /-- R210 Format-slot multiplication. -/
  | fmul (f : Fld)
  /-- R210 Fused multiply-add. -/
  | ffma (f : Fld)
  /-- R210 Fused multiply-subtract. -/
  | ffms (f : Fld)
  /-- R210 Fused negated multiply-add, c − a × b. -/
  | fnma (f : Fld)
  /-- R211 Minimum, ignoring one NaN. -/
  | fmin (f : Fld)
  /-- R211 Maximum, ignoring one NaN. -/
  | fmax (f : Fld)
  /-- R211 Minimum, propagating NaN. -/
  | fminp (f : Fld)
  /-- R211 Maximum, propagating NaN. -/
  | fmaxp (f : Fld)
  /-- R211 Absolute value. -/
  | fabs (f : Fld)
  /-- R211 Negation. -/
  | fneg (f : Fld)
  /-- R211 Copies the sign of b onto |a|. -/
  | fcpys (f : Fld)
  /-- R211 Clamps a between lo and hi. -/
  | fclamp (f : Fld)
  /-- R210 Division. -/
  | fdiv (f : Fld)
  /-- R210 Square root. -/
  | fsqrt (f : Fld)
  /-- R210 Reciprocal. -/
  | frcp (f : Fld)
  /-- R210 Reciprocal square root. -/
  | frsq (f : Fld)
  /-- R210 Base-2 exponential. -/
  | fexp2 (f : Fld)
  /-- R210 Base-2 logarithm. -/
  | flog2 (f : Fld)
  /-- R210 Sine. -/
  | fsin (f : Fld)
  /-- R210 Cosine. -/
  | fcos (f : Fld)
  /-- R212 Writes a comparison mask per element. -/
  | fcmp (f : Fld)
  /-- R212 Sets a predicate from element comparisons. -/
  | fsetp (f : Fld)
  /-- R213 Writes a mask of elements whose class is selected. -/
  | fclass (f : Fld)
  /-- R213 Selects elements of a or b by c. -/
  | fsel (f : Fld)
  /-- R215 Converts part p of elements between two slots. -/
  | cvt (f : Fld)
  /-- R210 Rounds to an integral value. -/
  | frnd (f : Fld)
  /-- R210 Multiplies by a power of two. -/
  | fscl (f : Fld)
  /-- R210 Extracts floor(log2 |b|). -/
  | fxexp (f : Fld)
  /-- R214 Converts dividing by an E8M0 scale. -/
  | scale (f : Fld)
  /-- R214 Converts multiplying by an E8M0 scale. -/
  | unscale (f : Fld)
  /-- R216 Pairwise-tree sum of a register's elements. -/
  | fhsum (f : Fld)
  /-- R216 Greatest element of a register. -/
  | fhmax (f : Fld)
  /-- R216 Exact dot product plus c0, rounded once. -/
  | fdot (f : Fld)
  /-- R217 Computes SOW-128 into two registers. -/
  | sowg (f : Fld)
  /-- R217 Computes SOW-128 uniform values in [0, 1). -/
  | sowgf (f : Fld)
  /-- R221 Masks of participants holding equal values. -/
  | lpeers (f : Fld)
  /-- R220 Reads another lane's register. -/
  | lget (f : Fld)
  /-- R220 Slides values across lanes without wrap. -/
  | lslide (f : Fld)
  /-- R220 Slides values across lanes with wrap. -/
  | lslideW (f : Fld)
  /-- R220 Exchanges with lane ℓ xor b. -/
  | lpair (f : Fld)
  /-- R220 Rotates values among participants. -/
  | lcycle (f : Fld)
  /-- R220 Broadcasts lane j's register. -/
  | lcast (f : Fld)
  /-- R221 Vote: predicate true in every participant. -/
  | lall (f : Fld)
  /-- R221 Vote: predicate true in some participant. -/
  | lany (f : Fld)
  /-- R221 Vote: predicate equal in every participant. -/
  | lsame (f : Fld)
  /-- R221 Mask of participants whose predicate is true. -/
  | lbits (f : Fld)
  /-- R221 Count of participants whose predicate is true. -/
  | lcount (f : Fld)
  /-- R223 Fixed-tree sum across lanes. -/
  | redLane (f : Fld)
  /-- R223 Minimum across lanes. -/
  | redLaneMin (f : Fld)
  /-- R223 Maximum across lanes. -/
  | redLaneMax (f : Fld)
  /-- R223 Integer sum across lanes. -/
  | redLaneI (f : Fld)
  /-- R223 Bitwise and, or or xor across lanes. -/
  | redLaneLog (f : Fld)
  /-- R223 Fixed-tree prefix sum across lanes. -/
  | scan (f : Fld)
  /-- R223 Prefix minimum across lanes. -/
  | scanMin (f : Fld)
  /-- R223 Prefix maximum across lanes. -/
  | scanMax (f : Fld)
  /-- R223 Integer prefix sum across lanes. -/
  | scanI (f : Fld)
  /-- R227 Global load. -/
  | ld (f : Fld)
  /-- R227 Global store. -/
  | st (f : Fld)
  /-- R227 Local load, filling stash sectors as needed. -/
  | ldl (f : Fld)
  /-- R227 Local store. -/
  | stl (f : Fld)
  /-- R229 Loads elements of a packed stream. -/
  | ldp (f : Fld)
  /-- R229 Stores elements of a packed stream. -/
  | stp (f : Fld)
  /-- R231 Loads an MX block and scale indivisibly. -/
  | ldmx (f : Fld)
  /-- R231 Stores an MX block and scale indivisibly. -/
  | stmx (f : Fld)
  /-- R232 Non-temporal store outside release sets until drained. -/
  | stnt (f : Fld)
  /-- R232 Waits until earlier STNT stores are performed at their homes. -/
  | ntdrain (f : Fld)
  /-- R232 Load followed by an acquire. -/
  | ldacq (f : Fld)
  /-- R232 Store that is a release. -/
  | strel (f : Fld)
  /-- R227 Indivisible 16-byte load into two registers. -/
  | ldw (f : Fld)
  /-- R227 Indivisible 16-byte store from two registers. -/
  | stw (f : Fld)
  /-- R228 Prefetch hint into L1. -/
  | pref (f : Fld)
  /-- R228 Drops the core's dirty bytes and clean copies of a range. -/
  | cdisc (f : Fld)
  /-- R234 Atomic add returning the old value. -/
  | atomAdd (f : Fld)
  /-- R234 Atomic minimum. -/
  | atomMin (f : Fld)
  /-- R234 Atomic maximum. -/
  | atomMax (f : Fld)
  /-- R234 Atomic and. -/
  | atomAnd (f : Fld)
  /-- R234 Atomic or. -/
  | atomOr (f : Fld)
  /-- R234 Atomic exclusive or. -/
  | atomXor (f : Fld)
  /-- R234 Atomic exchange. -/
  | atomXchg (f : Fld)
  /-- R234 Atomic compare-and-swap. -/
  | atomCas (f : Fld)
  /-- R234 Atomic wrapping increment. -/
  | atomInc (f : Fld)
  /-- R234 Atomic wrapping decrement. -/
  | atomDec (f : Fld)
  /-- R235 Atomic format-slot add. -/
  | atomFadd (f : Fld)
  /-- R235 Atomic format-slot minimum. -/
  | atomFmin (f : Fld)
  /-- R235 Atomic format-slot maximum. -/
  | atomFmax (f : Fld)
  /-- R236 Non-returning integer reduction. -/
  | red (f : Fld)
  /-- R236 Non-returning format-slot reduction. -/
  | redF (f : Fld)
  /-- R237 Reduction whose old value is redirected to a team's scratchpad with a barrier arrival. -/
  | atomrd (f : Fld)
  /-- R239 Initialises a deque header. -/
  | dqinit (f : Fld)
  /-- R239 Pushes an entry at the deque's bottom. -/
  | dqpush (f : Fld)
  /-- R239 Pops an entry from the owner end. -/
  | dqpop (f : Fld)
  /-- R239 Steals an entry from the thief end. -/
  | dqsteal (f : Fld)
  /-- R240 Publishes at a scope. -/
  | pub (f : Fld)
  /-- R240 Acquires at a scope. -/
  | acq (f : Fld)
  /-- R240 Publishes then acquires at a scope. -/
  | phase (f : Fld)
  /-- R240 Orders the thread's accesses at a scope. -/
  | fence (f : Fld)
  /-- R241 Arrives at a barrier, ORing flags. -/
  | arrive (f : Fld)
  /-- R241 Waits for a barrier phase and returns its result field. -/
  | bwait (f : Fld)
  /-- R241 Arrives and waits on the same phase. -/
  | bsync (f : Fld)
  /-- R244 Waits until the group's counters fall to limits. -/
  | wait (f : Fld)
  /-- R265 Small-matrix product D := A·B. -/
  | smmul (f : Fld)
  /-- R265 Small-matrix D := D + A·B. -/
  | smmad (f : Fld)
  /-- R265 Small-matrix D := D − A·B. -/
  | smmsb (f : Fld)
  /-- R266 Small-matrix sum or difference. -/
  | smadd (f : Fld)
  /-- R266 Small-matrix scaling by a scalar. -/
  | smscl (f : Fld)
  /-- R266 Small-matrix transpose. -/
  | smtrn (f : Fld)
  /-- R266 Small-matrix row permutation. -/
  | smperm (f : Fld)
  /-- R266 Small-matrix norm. -/
  | smnrm (f : Fld)
  /-- R268 In-place Cholesky factorisation with threshold. -/
  | chol (f : Fld)
  /-- R269 In-place LU factorisation with partial pivoting and pivot replacement. -/
  | lup (f : Fld)
  /-- R270 Solves A·X = B from a Cholesky or LU factor. -/
  | solv (f : Fld)
  /-- R270 Triangular solve. -/
  | solvt (f : Fld)
  /-- R273 Reserves MOB ranges all or nothing. -/
  | resv (f : Fld)
  /-- R274 Releases the team's MOB reservation set. -/
  | relv (f : Fld)
  /-- R275 Reads a range record or the free MOB rows. -/
  | resq (f : Fld)
  /-- R276 Completes when the thread's MOB stores are performed in the core. -/
  | oprdy (f : Fld)
  /-- R284 Dense tile matrix product accumulated from a parameter block. -/
  | mma (f : Fld)
  /-- R285 Structured-sparse tile matrix product. -/
  | mmas (f : Fld)
  /-- R287 Writes a tile into a MOB range as B blocks. -/
  | tlmov (f : Fld)
  /-- R287 Zeroes or unbinds a tile. -/
  | acz (f : Fld)
  /-- R287 Copies a tile and its flags. -/
  | acmov (f : Fld)
  /-- R287 Adds two tiles. -/
  | acadd (f : Fld)
  /-- R287 Scales a tile. -/
  | acscl (f : Fld)
  /-- R287 Converts a tile between slots. -/
  | accvt (f : Fld)
  /-- R288 Reads tile rows into registers. -/
  | acrd (f : Fld)
  /-- R288 Writes registers into tile rows. -/
  | acwr (f : Fld)
  /-- R289 Loads a tile from memory. -/
  | acld (f : Fld)
  /-- R289 Stores a tile to memory. -/
  | acst (f : Fld)
  /-- R245 Starts a copy channel transfer. -/
  | copy (f : Fld)
  /-- R250 Starts a converting copy from a descriptor. -/
  | copyq (f : Fld)
  /-- R246 Starts a row-pitched copy from a descriptor. -/
  | copys (f : Fld)
  /-- R246 Starts a row-pitched copy with a completion signal. -/
  | copyx (f : Fld)
  /-- R253 Reads a write pointer with an acquire of the bytes below it. -/
  | wpld (f : Fld)
  /-- R253 Sets and unbinds a write pointer. -/
  | wpset (f : Fld)
  /-- R251 Checks a tile's CRC against its trailer and returns maxmag. -/
  | ldchk (f : Fld)
  /-- R254 Appends a 64-byte entry to a core queue. -/
  | qpush (f : Fld)
  /-- R254 Removes a core queue's head entry. -/
  | qpop (f : Fld)
  /-- R254 Reads a core queue's head entry. -/
  | qpeek (f : Fld)
  /-- R254 Reads a core queue's entry count. -/
  | qstat (f : Fld)
  /-- R255 Writes a Furrow window descriptor after checks. -/
  | winset (f : Fld)
  /-- R255 Stores a window descriptor to memory. -/
  | winget (f : Fld)
  /-- R256 Launches a child grid from a descriptor. -/
  | launch (f : Fld)
  /-- R256 Launches a child grid with counts read from memory. -/
  | launchi (f : Fld)
  /-- R259 Deposits a thread with Harrow for regrouping by key. -/
  | regrp (f : Fld)
  /-- R8 Package reset puts every register field at its Reset value, clears queue state and leaves no patch image loaded. -/
  | packageReset 
  /-- R409 A PCIe port's link passes through Detect, and a pending change of IO1's mode takes effect. -/
  | linkReset (port : Nat)
  /-- R406 A write to a control-aperture register with no behaviour of its own stores its RW fields; a misaligned or wrong-size request gets Unsupported Request. -/
  | registerWrite (off len : Nat) (value : Word)
  /-- R333 Writing run = 1 in a stopped or ended queue record flushes the headland core's code copies, acquires at system scope and starts the queue, or faults it when ctx names no live context. -/
  | queueRun (q : Nat)
  /-- R333 Writing run = 0 stops a running, parked or waiting queue at its next instruction boundary. -/
  | queueStop (q : Nat)
  /-- R332 Writing 1 to flt clears it and moves a faulted queue to state 0. -/
  | queueFaultClear (q : Nat)
  /-- R337 Writing a byte of a headland core's membership register sets the members of headland barrier N and restarts it with count and flags 0. -/
  | headlandMembershipWrite (core n : Nat) (value : Byte)
  /-- R345 Writing go in a die's swap register exchanges the phys fields of two core-map entries, or refuses. -/
  | siteSwap (die : Nat) (word : Word)
  /-- R349 A write of the token pool size stores it clamped to 320-2,560; it takes effect at the arbiter and records a kind-7 event. -/
  | poolWrite (value : Word)
  /-- R357 Writing go in the shootdown register starts discarding the kept translations of a context over a 2^lg range, or refuses. -/
  | shootdown (word : Word)
  /-- R358 A shootdown completes after in-progress walks finish; later accesses use the new entries and covered parked accesses replay. -/
  | shootdownComplete 
  /-- R360 Writing go in the commit register applies the region table's interleaves after writing back the changed regions' lines, or refuses. -/
  | regionCommit (word : Word)
  /-- R362 Context command op 0 reads the descriptor, sets the preset FDRs and zeroes srk, srw, s.thand and the window descriptors, making the context live. -/
  | contextCreate (word : Word)
  /-- R362 Context command op 1 ends every team, launch and queue of the context, releases its deque lines and claims, and completes when no unit holds its state. -/
  | contextDestroy (word : Word)
  /-- R367 Action act 0 replays the faulting instruction of a stopped group and resumes its paused copies, ACLDs and ACSTs. -/
  | actionReplay (word : Word)
  /-- R367 Action act 1 makes the faulting threads of a stopped group continue after the faulting instruction. -/
  | actionSkip (word : Word)
  /-- R367 Action act 2 ends the faulting threads of a stopped group as by EXIT. -/
  | actionEnd (word : Word)
  /-- R367 Action act 3 destroys the group's context. -/
  | actionDestroy (word : Word)
  /-- R370 Pre-emption with scope 0 saves the teams on one logical site, widened to their clusters or grids, into an image. -/
  | saveTeams (word : Word)
  /-- R371 Pre-emption with scope 1 saves the whole context, stops its queues and takes its unplaced launches into an image. -/
  | saveContext (word : Word)
  /-- R370 A core that does not answer a save within 2^20 clk ends the save with status 4, its teams lost and stopped. -/
  | saveTimeout (word : Word) (die site : Nat)
  /-- R376 Writing go in the resume register restores an image's context section, queues, launches and grid records and queues its clusters for placement. -/
  | restore (word : Word)
  /-- R386 Patch op 0 copies the mailbox image, checks it in the order of R385 and, if accepted, replaces the loaded image and enables its slots. -/
  | patchLoad (word : Word)
  /-- R386 Patch op 1 leaves no image loaded and no slot enabled. -/
  | patchUnload (word : Word)
  /-- R386 Patch op 2 stores the slot-enable mask masked to the image's slots, or refuses when no image is loaded. -/
  | patchSetEnables (word : Word)
  /-- R387 A core takes an accepted patch change between two decodes, pausing decode and discarding its decoded instructions. -/
  | patchSwitch (core : Nat)
  /-- R409 A write of IO1's port mode takes effect at once for mode 0 or from mode 0, and otherwise at the port's next link reset. -/
  | io1ModeWrite (value : Word)
  /-- R440 Writing go in the repair register copies a failing HBM row or column to spares and remaps it, or refuses. -/
  | hbmRepair (word : Word)
  /-- R440 A repair completes and accesses to the affected granules proceed. -/
  | hbmRepairComplete 
  /-- R441 Firmware act 0 copies the mailbox image, verifies it and stages it for its target. -/
  | firmwareStage (word : Word)
  /-- R442 Firmware act 1 activates the staged image for its target and unit, or refuses with status 7. -/
  | firmwareActivate (word : Word)
  /-- R444 Owner op 0 sets the owner key, authorised by the current owner's signature once a key is set. -/
  | ownerKeySet (word : Word)
  /-- R444 Owner op 1 clears the owner key under the current owner's signature. -/
  | ownerKeyClear (word : Word)
  /-- R445 A read of the telemetry word holding tpeak returns it and resets it. -/
  | tpeakRead (die : Nat)
  /-- R445 Every 65,536 clk each die refreshes its telemetry block and the thermal governor checks its conditions. -/
  | telemetryRefresh (die : Nat) (t : Telemetry)
  /-- R368 A grid accepted for wdog × 2^24 clk without completing writes a fault-queue entry with code 0x20, again at each further interval. -/
  | watchdog (ctx acc : Nat)
  /-- R346 A cluster standing first on a die for 65,536 clk blocks later clusters from being placed there. -/
  | placerHold (die : Nat)
  /-- R396 Emulation code running 65,536 clk without EXIT makes the requesting threads take an illegal-instruction trap. -/
  | emulationTimeout (iod : Nat)
  /-- R403 An outbound PCIe non-posted request receives no completion within the completion timeout and fails. -/
  | completionTimeout (req : Nat)
  /-- R403 An outbound UALink request receives no response within 16 ms and fails. -/
  | ualinkResponseTimeout (req : Nat)
  /-- R403 An Unsupported Request, Completer Abort or UALink error response fails an outbound request, faulting as the request kind decides and counting in the port's error count. -/
  | outboundFailure (req : Nat)
  /-- R402 A peer's response reports a UALink store performed at its home, completing it for releases and copies. -/
  | ualinkResponse (req : Nat)
  /-- R413 A write arriving at a PCIe port is split per home and forwarded once earlier ordered writes are acknowledged; EP writes are discarded. -/
  | inboundWrite (r : InReq)
  /-- R413 A home acknowledges a performed inbound piece, which may release held ordered writes for forwarding. -/
  | pieceAck (piece : Nat)
  /-- R414 An inbound read piece reads each byte's latest store at its home, returning EP for poisoned words. -/
  | inboundRead (r : InReq)
  /-- R414 An inbound AtomicOp executes at the home die's sync engine. -/
  | inboundAtomic (r : InReq)
  /-- R420 An inbound UALink or peer-link request is performed only if an inbound window entry admits it, else it gets an error response. -/
  | ualinkInboundRequest (r : InReq)
  /-- R443 An SPDM request over DOE is answered with certificates or signed measurements of the active state. -/
  | spdmRequest (index : Nat)
  /-- R439 A Worron lane failure brings in a spare lane within 10 µs while routes pause and keep their order. -/
  | laneFailure (die : Nat)
  /-- R419 A UALink port loses training, so requests routed to it fail and deterministic routes fault until rebuilt. -/
  | ualinkPortDown (port : Nat)
  /-- R340 The launch arbiter takes an arriving launch, checks it under R43, numbers it if accepted and returns the status. -/
  | launchArrival 
  /-- R341 A launch's gate passes once each named completion word has shown its value; LAUNCHI reads its counts and its clusters join the waiting set. -/
  | gatePass (ctx acc : Nat)
  /-- R346 A die's placer places a waiting cluster on a free rectangle of available sites. -/
  | clusterPlace (die : Nat)
  /-- R348 A cluster whose teams have all ended retires, freeing its cores, with its event held in curve order in deterministic mode. -/
  | clusterRetire (ctx acc cix : Nat)
  /-- R258 A grid whose teams have ended and whose operations are published completes and its completion word is written as a system-scope release. -/
  | gridComplete (ctx acc : Nat)
  /-- R352 IO0's event arbiter numbers an event in pseq and writes its record to the event ring, or drops it. -/
  | eventRecord 
  /-- R366 A fault's record is written to the context's fault queue when there is room, fqwr advances and the host interrupt is raised. -/
  | faultQueueWrite (ctx : Nat)
  /-- R46 A power token is granted to the group that has waited longest for one. -/
  | tokenGrant 
  /-- R284 The matrix engine runs one accumulation step of a chosen instruction and writes its rounded results into the tile. -/
  | matrixStep (core : Nat)
  /-- R264 A small-matrix instruction finishes in its quadrant's unit, writes its destinations and frees the unit. -/
  | smallMatrixComplete (core quadrant : Nat)
  /-- R97 An outstanding load's data returns and is written to its register bytes, completing it for the loads counter. -/
  | loadDataReturn (uid group op : Nat)
  /-- R124 A store or written-back line is performed at its home, merged per byte, taking its place in coherence and device order. -/
  | storePerform (core line : Nat)
  /-- R132 A sync engine executes an atomic, reduction or deque operation indivisibly at the home. -/
  | syncEngineExecute (die : Nat)
  /-- R237 An ATOMRD's old value is deposited in the target scratchpad and an external arrival counted once the target is resident. -/
  | atomrdDelivery (n : Nat)
  /-- R139 A copy channel performs destination bytes in ascending address and advances its write pointer. -/
  | copyWrite (copy : Nat)
  /-- R243 A copy completes with every destination byte, trailer and signal performed. -/
  | copyComplete (copy : Nat)
  /-- R252 A copy meeting a non-translation fault stops at that byte and counts as complete, the fault pending for the issuer's WAIT. -/
  | copyStop (copy : Nat)
  /-- R357 A page-table walk completes, giving a translation or a translation fault that parks the group. -/
  | pageWalk (ctx va : Nat)
  /-- R198 A watched word's home first holds a value passing the comparison, so the waiting thread writes it and acquires. -/
  | waitmemSatisfied (uid group lane : Nat)
  /-- R199 A store to a parked thread's PARK bytes wakes it with an acquire, a cache discard and a fresh fetch. -/
  | parkWake (uid group lane : Nat)
  /-- R37 Harrow starts the new groups at the continuation with payload and key in v0 and v1. -/
  | harrowGroupsStart (uid : Nat)
  /-- R395 An I/O die's patch core takes the next emulation request and starts one thread at the slot's entry. -/
  | emulationStart (iod : Nat)
  /-- R394 At the emulation thread's EXIT the requesting threads take its result with an acquire, or fault. -/
  | emulationResult (iod : Nat)
  /-- R164 An instruction word with a reserved opcode or bad field raises an illegal-instruction trap unless a Coulter slot claims it. -/
  | illegalInstruction 
  /-- R147 A halfword with length code 0b11, or a transfer to an odd address, raises an illegal-length trap. -/
  | illegalLength 
  /-- R149 An instruction whose bytes cannot be fetched takes an instruction-fetch fault. -/
  | instructionFetchFault (detail : Nat)
  /-- R418 A UALink port finishes training with dis = 0, so its up bit becomes 1 and requests routed by pmask or dport may use it again. -/
  | ualinkPortUp (port : Nat)
  deriving DecidableEq, Repr

end Sys2Proof
end

