-- ==== Sys2Proof/Machine/Encoding.lean ====
section
/-! DEFINITION. The opcode map (spec 05 R163) and the field rules of every opcode (R157-R160 with the field columns of
spec 06-09): what each register field, the slot field and the modifier bits may hold. `WellFormed` and `Decode` read
these tables. -/
namespace Sys2Proof.Machine

/-- What a register field holds (R157). -/
inductive FieldRole
  /-- unused: must be 0 -/
  | zero
  /-- a v register -/
  | v
  /-- a v register, or a g register (0-63) when modifier bit `b` is 1 -/
  | vg (b : Nat)
  /-- the index register of the addressed class: a v register when m[5] = 1, else 0 (R224) -/
  | index
  /-- a predicate, barrier, tile, queue number or immediate below `n` -/
  | below (n : Nat)
  /-- any of the 256 values -/
  | any
  deriving DecidableEq, Repr

/-- What the slot field holds (R158). -/
inductive SlotUse
  | zero
  | format
  /-- an integer type; bit t of the mask is 1 when type code t is accepted -/
  | types (mask : Nat)
  deriving DecidableEq, Repr

/-- What m[2:0] holds. -/
inductive Low
  | none
  /-- a rounding override, 7 reserved (R204) -/
  | rounding
  /-- a scope code, 7 reserved (R120) -/
  | scope
  /-- a scope code up to 5 (R200 ICINV) -/
  | scopeToDevice
  /-- 5 or 6 (R198 WAITMEM) -/
  | waitScope
  deriving DecidableEq, Repr

/-- The field rules of one opcode: roles of d, a, b, c; the slot field; the modifier bits of m[8:3] that the description
assigns; m[2:0]; and whether operand b may be the literal. -/
structure Sig where
  d : FieldRole
  a : FieldRole
  b : FieldRole
  c : FieldRole
  slot : SlotUse
  mods : Nat
  low : Low
  lit : Bool
  deriving DecidableEq, Repr

/-- Row 0x0_ of the opcode map (R163). -/
def opRow0 : List (Fld → Instr) :=
  [.nop, .trap, .bra, .brx, .call, .callx, .callW, .callxW, .ret, .retW, .exit, .spill, .fill, .mkh, .rdpc, .park]

/-- Row 0x1_ of the opcode map (R163). -/
def opRow1 : List (Fld → Instr) :=
  [.waitmem, .sysq, .movsRead, .movsWrite, .icinv, .fbar, .cwb, .brk, .brdec, .elect, .idle, .tret, .frec, .icpf]

/-- Row 0x2_ of the opcode map (R163). -/
def opRow2 : List (Fld → Instr) :=
  [.mov, .sel, .iadd, .isub, .imul, .imulh, .imad, .idiv, .irem, .ineg, .iabs, .imin, .imax, .iadc, .iadds, .isubs]

/-- Row 0x3_ of the opcode map (R163). -/
def opRow3 : List (Fld → Instr) :=
  [.lea, .lear, .and, .or, .xor, .not, .andn, .logic3, .shl, .shr, .sar, .rol, .ror, .dshr, .bfx, .bfxs]

/-- Row 0x4_ of the opcode map (R163). -/
def opRow4 : List (Fld → Instr) :=
  [.bfi, .popc, .clz, .ctz, .brev, .bswap, .setp, .plogic, .pmov, .pset, .setv, .sext, .zext, .bmsk]

/-- Row 0x5_ of the opcode map (R163). -/
def opRow5 : List (Fld → Instr) :=
  [.fdset, .fdget, .fadd, .fsub, .fmul, .ffma, .ffms, .fnma, .fmin, .fmax, .fminp, .fmaxp, .fabs, .fneg, .fcpys, .fclamp]

/-- Row 0x6_ of the opcode map (R163). -/
def opRow6 : List (Fld → Instr) :=
  [.fdiv, .fsqrt, .frcp, .frsq, .fexp2, .flog2, .fsin, .fcos, .fcmp, .fsetp, .fclass, .fsel, .cvt, .frnd, .fscl, .fxexp]

/-- Row 0x7_ of the opcode map (R163). -/
def opRow7 : List (Fld → Instr) :=
  [.scale, .unscale, .fhsum, .fhmax, .fdot, .sowg, .sowgf, .lpeers, .lget, .lslide, .lslideW, .lpair, .lcycle, .lcast, .lall, .lany]

/-- Row 0x8_ of the opcode map (R163). -/
def opRow8 : List (Fld → Instr) :=
  [.lsame, .lbits, .lcount, .redLane, .redLaneMin, .redLaneMax, .redLaneI, .redLaneLog, .scan, .scanMin, .scanMax, .scanI]

/-- Row 0x9_ of the opcode map (R163). -/
def opRow9 : List (Fld → Instr) :=
  [.ld, .st, .ldl, .stl, .ldp, .stp, .ldmx, .stmx, .stnt, .ntdrain, .ldacq, .strel, .ldw, .stw, .pref, .cdisc]

/-- Row 0xA_ of the opcode map (R163). -/
def opRowA : List (Fld → Instr) :=
  [.atomAdd, .atomMin, .atomMax, .atomAnd, .atomOr, .atomXor, .atomXchg, .atomCas, .atomInc, .atomDec, .atomFadd, .atomFmin, .atomFmax, .red, .redF, .atomrd]

/-- Row 0xB_ of the opcode map (R163). -/
def opRowB : List (Fld → Instr) :=
  [.dqinit, .dqpush, .dqpop, .dqsteal, .pub, .acq, .phase, .fence, .arrive, .bwait, .bsync, .wait]

/-- Row 0xC_ of the opcode map (R163). -/
def opRowC : List (Fld → Instr) :=
  [.smmul, .smmad, .smmsb, .smadd, .smscl, .smtrn, .smperm, .smnrm, .chol, .lup, .solv, .solvt, .resv, .relv, .resq, .oprdy]

/-- Row 0xD_ of the opcode map (R163). -/
def opRowD : List (Fld → Instr) :=
  [.mma, .mmas, .tlmov, .acz, .acmov, .acadd, .acscl, .accvt, .acrd, .acwr, .acld, .acst]

/-- Row 0xE_ of the opcode map (R163). -/
def opRowE : List (Fld → Instr) :=
  [.copy, .copyq, .copys, .copyx, .wpld, .wpset, .ldchk, .qpush, .qpop, .qpeek, .qstat, .winset, .winget, .launch, .launchi, .regrp]

/-- Row 0xF_ of the opcode map (R163). -/
def opRowF : List (Fld → Instr) :=
  []

/-- The opcode map of R163: the instruction that an opcode number names. -/
def ofOpcode (op : Nat) : Option (Fld → Instr) :=
  (([opRow0, opRow1, opRow2, opRow3, opRow4, opRow5, opRow6, opRow7, opRow8, opRow9, opRowA, opRowB, opRowC, opRowD, opRowE, opRowF] : List (List (Fld → Instr)))[op / 16]?).bind (fun r => r[op % 16]?)

/-- The primary opcode and the fields of an instruction in one of the long forms. -/
def opFld : Instr → Option (Nat × Fld)
  | .mov16 _ _ => none
  | .iadd16 _ _ => none
  | .iadd16Imm _ _ => none
  | .isub16 _ _ => none
  | .isub16Imm _ _ => none
  | .and16 _ _ => none
  | .or16 _ _ => none
  | .xor16 _ _ => none
  | .shl16 _ _ => none
  | .shl16Imm _ _ _ => none
  | .shr16 _ _ => none
  | .shr16Imm _ _ _ => none
  | .fadd16 _ _ => none
  | .fmul16 _ _ => none
  | .fmax16 _ _ => none
  | .ld64 _ _ _ => none
  | .st64 _ _ _ => none
  | .bra16 _ => none
  | .setp16 _ _ _ => none
  | .nop16 => none
  | .nop f => some (0x00, f)
  | .trap f => some (0x01, f)
  | .bra f => some (0x02, f)
  | .brx f => some (0x03, f)
  | .call f => some (0x04, f)
  | .callx f => some (0x05, f)
  | .callW f => some (0x06, f)
  | .callxW f => some (0x07, f)
  | .ret f => some (0x08, f)
  | .retW f => some (0x09, f)
  | .exit f => some (0x0A, f)
  | .spill f => some (0x0B, f)
  | .fill f => some (0x0C, f)
  | .mkh f => some (0x0D, f)
  | .rdpc f => some (0x0E, f)
  | .park f => some (0x0F, f)
  | .waitmem f => some (0x10, f)
  | .sysq f => some (0x11, f)
  | .movsRead f => some (0x12, f)
  | .movsWrite f => some (0x13, f)
  | .icinv f => some (0x14, f)
  | .fbar f => some (0x15, f)
  | .cwb f => some (0x16, f)
  | .brk f => some (0x17, f)
  | .brdec f => some (0x18, f)
  | .elect f => some (0x19, f)
  | .idle f => some (0x1A, f)
  | .tret f => some (0x1B, f)
  | .frec f => some (0x1C, f)
  | .icpf f => some (0x1D, f)
  | .mov f => some (0x20, f)
  | .sel f => some (0x21, f)
  | .iadd f => some (0x22, f)
  | .isub f => some (0x23, f)
  | .imul f => some (0x24, f)
  | .imulh f => some (0x25, f)
  | .imad f => some (0x26, f)
  | .idiv f => some (0x27, f)
  | .irem f => some (0x28, f)
  | .ineg f => some (0x29, f)
  | .iabs f => some (0x2A, f)
  | .imin f => some (0x2B, f)
  | .imax f => some (0x2C, f)
  | .iadc f => some (0x2D, f)
  | .iadds f => some (0x2E, f)
  | .isubs f => some (0x2F, f)
  | .lea f => some (0x30, f)
  | .lear f => some (0x31, f)
  | .and f => some (0x32, f)
  | .or f => some (0x33, f)
  | .xor f => some (0x34, f)
  | .not f => some (0x35, f)
  | .andn f => some (0x36, f)
  | .logic3 f => some (0x37, f)
  | .shl f => some (0x38, f)
  | .shr f => some (0x39, f)
  | .sar f => some (0x3A, f)
  | .rol f => some (0x3B, f)
  | .ror f => some (0x3C, f)
  | .dshr f => some (0x3D, f)
  | .bfx f => some (0x3E, f)
  | .bfxs f => some (0x3F, f)
  | .bfi f => some (0x40, f)
  | .popc f => some (0x41, f)
  | .clz f => some (0x42, f)
  | .ctz f => some (0x43, f)
  | .brev f => some (0x44, f)
  | .bswap f => some (0x45, f)
  | .setp f => some (0x46, f)
  | .plogic f => some (0x47, f)
  | .pmov f => some (0x48, f)
  | .pset f => some (0x49, f)
  | .setv f => some (0x4A, f)
  | .sext f => some (0x4B, f)
  | .zext f => some (0x4C, f)
  | .bmsk f => some (0x4D, f)
  | .fdset f => some (0x50, f)
  | .fdget f => some (0x51, f)
  | .fadd f => some (0x52, f)
  | .fsub f => some (0x53, f)
  | .fmul f => some (0x54, f)
  | .ffma f => some (0x55, f)
  | .ffms f => some (0x56, f)
  | .fnma f => some (0x57, f)
  | .fmin f => some (0x58, f)
  | .fmax f => some (0x59, f)
  | .fminp f => some (0x5A, f)
  | .fmaxp f => some (0x5B, f)
  | .fabs f => some (0x5C, f)
  | .fneg f => some (0x5D, f)
  | .fcpys f => some (0x5E, f)
  | .fclamp f => some (0x5F, f)
  | .fdiv f => some (0x60, f)
  | .fsqrt f => some (0x61, f)
  | .frcp f => some (0x62, f)
  | .frsq f => some (0x63, f)
  | .fexp2 f => some (0x64, f)
  | .flog2 f => some (0x65, f)
  | .fsin f => some (0x66, f)
  | .fcos f => some (0x67, f)
  | .fcmp f => some (0x68, f)
  | .fsetp f => some (0x69, f)
  | .fclass f => some (0x6A, f)
  | .fsel f => some (0x6B, f)
  | .cvt f => some (0x6C, f)
  | .frnd f => some (0x6D, f)
  | .fscl f => some (0x6E, f)
  | .fxexp f => some (0x6F, f)
  | .scale f => some (0x70, f)
  | .unscale f => some (0x71, f)
  | .fhsum f => some (0x72, f)
  | .fhmax f => some (0x73, f)
  | .fdot f => some (0x74, f)
  | .sowg f => some (0x75, f)
  | .sowgf f => some (0x76, f)
  | .lpeers f => some (0x77, f)
  | .lget f => some (0x78, f)
  | .lslide f => some (0x79, f)
  | .lslideW f => some (0x7A, f)
  | .lpair f => some (0x7B, f)
  | .lcycle f => some (0x7C, f)
  | .lcast f => some (0x7D, f)
  | .lall f => some (0x7E, f)
  | .lany f => some (0x7F, f)
  | .lsame f => some (0x80, f)
  | .lbits f => some (0x81, f)
  | .lcount f => some (0x82, f)
  | .redLane f => some (0x83, f)
  | .redLaneMin f => some (0x84, f)
  | .redLaneMax f => some (0x85, f)
  | .redLaneI f => some (0x86, f)
  | .redLaneLog f => some (0x87, f)
  | .scan f => some (0x88, f)
  | .scanMin f => some (0x89, f)
  | .scanMax f => some (0x8A, f)
  | .scanI f => some (0x8B, f)
  | .ld f => some (0x90, f)
  | .st f => some (0x91, f)
  | .ldl f => some (0x92, f)
  | .stl f => some (0x93, f)
  | .ldp f => some (0x94, f)
  | .stp f => some (0x95, f)
  | .ldmx f => some (0x96, f)
  | .stmx f => some (0x97, f)
  | .stnt f => some (0x98, f)
  | .ntdrain f => some (0x99, f)
  | .ldacq f => some (0x9A, f)
  | .strel f => some (0x9B, f)
  | .ldw f => some (0x9C, f)
  | .stw f => some (0x9D, f)
  | .pref f => some (0x9E, f)
  | .cdisc f => some (0x9F, f)
  | .atomAdd f => some (0xA0, f)
  | .atomMin f => some (0xA1, f)
  | .atomMax f => some (0xA2, f)
  | .atomAnd f => some (0xA3, f)
  | .atomOr f => some (0xA4, f)
  | .atomXor f => some (0xA5, f)
  | .atomXchg f => some (0xA6, f)
  | .atomCas f => some (0xA7, f)
  | .atomInc f => some (0xA8, f)
  | .atomDec f => some (0xA9, f)
  | .atomFadd f => some (0xAA, f)
  | .atomFmin f => some (0xAB, f)
  | .atomFmax f => some (0xAC, f)
  | .red f => some (0xAD, f)
  | .redF f => some (0xAE, f)
  | .atomrd f => some (0xAF, f)
  | .dqinit f => some (0xB0, f)
  | .dqpush f => some (0xB1, f)
  | .dqpop f => some (0xB2, f)
  | .dqsteal f => some (0xB3, f)
  | .pub f => some (0xB4, f)
  | .acq f => some (0xB5, f)
  | .phase f => some (0xB6, f)
  | .fence f => some (0xB7, f)
  | .arrive f => some (0xB8, f)
  | .bwait f => some (0xB9, f)
  | .bsync f => some (0xBA, f)
  | .wait f => some (0xBB, f)
  | .smmul f => some (0xC0, f)
  | .smmad f => some (0xC1, f)
  | .smmsb f => some (0xC2, f)
  | .smadd f => some (0xC3, f)
  | .smscl f => some (0xC4, f)
  | .smtrn f => some (0xC5, f)
  | .smperm f => some (0xC6, f)
  | .smnrm f => some (0xC7, f)
  | .chol f => some (0xC8, f)
  | .lup f => some (0xC9, f)
  | .solv f => some (0xCA, f)
  | .solvt f => some (0xCB, f)
  | .resv f => some (0xCC, f)
  | .relv f => some (0xCD, f)
  | .resq f => some (0xCE, f)
  | .oprdy f => some (0xCF, f)
  | .mma f => some (0xD0, f)
  | .mmas f => some (0xD1, f)
  | .tlmov f => some (0xD2, f)
  | .acz f => some (0xD3, f)
  | .acmov f => some (0xD4, f)
  | .acadd f => some (0xD5, f)
  | .acscl f => some (0xD6, f)
  | .accvt f => some (0xD7, f)
  | .acrd f => some (0xD8, f)
  | .acwr f => some (0xD9, f)
  | .acld f => some (0xDA, f)
  | .acst f => some (0xDB, f)
  | .copy f => some (0xE0, f)
  | .copyq f => some (0xE1, f)
  | .copys f => some (0xE2, f)
  | .copyx f => some (0xE3, f)
  | .wpld f => some (0xE4, f)
  | .wpset f => some (0xE5, f)
  | .ldchk f => some (0xE6, f)
  | .qpush f => some (0xE7, f)
  | .qpop f => some (0xE8, f)
  | .qpeek f => some (0xE9, f)
  | .qstat f => some (0xEA, f)
  | .winset f => some (0xEB, f)
  | .winget f => some (0xEC, f)
  | .launch f => some (0xED, f)
  | .launchi f => some (0xEE, f)
  | .regrp f => some (0xEF, f)
  | .packageReset => none
  | .linkReset _ => none
  | .registerWrite _ _ _ => none
  | .queueRun _ => none
  | .queueStop _ => none
  | .queueFaultClear _ => none
  | .headlandMembershipWrite _ _ _ => none
  | .siteSwap _ _ => none
  | .poolWrite _ => none
  | .shootdown _ => none
  | .shootdownComplete => none
  | .regionCommit _ => none
  | .contextCreate _ => none
  | .contextDestroy _ => none
  | .actionReplay _ => none
  | .actionSkip _ => none
  | .actionEnd _ => none
  | .actionDestroy _ => none
  | .saveTeams _ => none
  | .saveContext _ => none
  | .saveTimeout _ _ _ => none
  | .restore _ => none
  | .patchLoad _ => none
  | .patchUnload _ => none
  | .patchSetEnables _ => none
  | .patchSwitch _ => none
  | .io1ModeWrite _ => none
  | .hbmRepair _ => none
  | .hbmRepairComplete => none
  | .firmwareStage _ => none
  | .firmwareActivate _ => none
  | .ownerKeySet _ => none
  | .ownerKeyClear _ => none
  | .tpeakRead _ => none
  | .telemetryRefresh _ _ => none
  | .watchdog _ _ => none
  | .placerHold _ => none
  | .emulationTimeout _ => none
  | .completionTimeout _ => none
  | .ualinkResponseTimeout _ => none
  | .outboundFailure _ => none
  | .ualinkResponse _ => none
  | .inboundWrite _ => none
  | .pieceAck _ => none
  | .inboundRead _ => none
  | .inboundAtomic _ => none
  | .ualinkInboundRequest _ => none
  | .spdmRequest _ => none
  | .laneFailure _ => none
  | .ualinkPortDown _ => none
  | .launchArrival => none
  | .gatePass _ _ => none
  | .clusterPlace _ => none
  | .clusterRetire _ _ _ => none
  | .gridComplete _ _ => none
  | .eventRecord => none
  | .faultQueueWrite _ => none
  | .tokenGrant => none
  | .matrixStep _ => none
  | .smallMatrixComplete _ _ => none
  | .loadDataReturn _ _ _ => none
  | .storePerform _ _ => none
  | .syncEngineExecute _ => none
  | .atomrdDelivery _ => none
  | .copyWrite _ => none
  | .copyComplete _ => none
  | .copyStop _ => none
  | .pageWalk _ _ => none
  | .waitmemSatisfied _ _ _ => none
  | .parkWake _ _ _ => none
  | .harrowGroupsStart _ => none
  | .emulationStart _ => none
  | .emulationResult _ => none
  | .illegalInstruction => none
  | .illegalLength => none
  | .instructionFetchFault _ => none
  | .ualinkPortUp _ => none

/-- Field rules of row 0x0_. -/
def sigRow0 : List Sig := [/- nop -/ ⟨.zero, .zero, .zero, .zero, .zero, 0, .none, false⟩,
  /- trap -/ ⟨.zero, .zero, .zero, .any, .zero, 0, .none, false⟩,
  /- bra -/ ⟨.any, .any, .any, .any, .zero, 0, .none, false⟩,
  /- brx -/ ⟨.zero, (.vg 6), .zero, .zero, .zero, 64, .none, false⟩,
  /- call -/ ⟨.v, .any, .any, .any, .zero, 0, .none, false⟩,
  /- callx -/ ⟨.v, (.vg 6), .zero, .zero, .zero, 64, .none, false⟩,
  /- callW -/ ⟨.any, .any, .any, .any, .zero, 0, .none, false⟩,
  /- callxW -/ ⟨.any, (.vg 6), .zero, .zero, .zero, 64, .none, false⟩,
  /- ret -/ ⟨.zero, (.vg 6), .zero, .zero, .zero, 64, .none, false⟩,
  /- retW -/ ⟨.any, .zero, .zero, .zero, .zero, 0, .none, false⟩,
  /- exit -/ ⟨.zero, .zero, .zero, .zero, .zero, 0, .none, false⟩,
  /- spill -/ ⟨.any, .zero, .zero, .zero, .zero, 0, .none, false⟩,
  /- fill -/ ⟨.any, .zero, .zero, .zero, .zero, 0, .none, false⟩,
  /- mkh -/ ⟨.v, .any, .any, .any, .zero, 0, .none, false⟩,
  /- rdpc -/ ⟨(.vg 4), .zero, .zero, .zero, .zero, 16, .none, false⟩,
  /- park -/ ⟨.zero, .zero, .zero, .zero, .zero, 0, .none, false⟩]

/-- Field rules of row 0x1_. -/
def sigRow1 : List Sig := [/- waitmem -/ ⟨(.vg 4), (.vg 6), (.vg 5), (.below 6), (.types 51), 112, .waitScope, true⟩,
  /- sysq -/ ⟨(.vg 4), .zero, .zero, .any, .zero, 16, .none, false⟩,
  /- movsRead -/ ⟨(.vg 4), .zero, .zero, (.below 27), .zero, 16, .none, false⟩,
  /- movsWrite -/ ⟨.zero, (.vg 6), .zero, (.below 23), .zero, 64, .none, false⟩,
  /- icinv -/ ⟨.zero, (.vg 6), (.vg 5), .zero, .zero, 96, .scopeToDevice, true⟩,
  /- fbar -/ ⟨.zero, .zero, .zero, .zero, .zero, 0, .none, false⟩,
  /- cwb -/ ⟨.zero, (.vg 6), (.vg 5), .zero, .zero, 96, .none, true⟩,
  /- brk -/ ⟨.zero, .zero, .zero, .any, .zero, 0, .none, false⟩,
  /- brdec -/ ⟨(.vg 4), .any, .any, .any, (.types 255), 16, .none, false⟩,
  /- elect -/ ⟨.v, (.below 8), .zero, .zero, .zero, 0, .none, false⟩,
  /- idle -/ ⟨.zero, .zero, .v, .zero, .zero, 0, .none, true⟩,
  /- tret -/ ⟨.zero, .zero, .zero, .zero, .zero, 0, .none, false⟩,
  /- frec -/ ⟨(.vg 4), .zero, .v, .zero, .zero, 16, .none, true⟩,
  /- icpf -/ ⟨.zero, .v, .v, .zero, .zero, 0, .none, false⟩]

/-- Field rules of row 0x2_. -/
def sigRow2 : List Sig := [/- mov -/ ⟨(.vg 4), .zero, (.vg 5), .zero, (.types 255), 48, .none, true⟩,
  /- sel -/ ⟨(.vg 4), (.vg 6), (.vg 5), (.below 8), (.types 255), 112, .none, true⟩,
  /- iadd -/ ⟨(.vg 4), (.vg 6), (.vg 5), .zero, (.types 255), 112, .none, true⟩,
  /- isub -/ ⟨(.vg 4), (.vg 6), (.vg 5), .zero, (.types 255), 112, .none, true⟩,
  /- imul -/ ⟨(.vg 4), (.vg 6), (.vg 5), .zero, (.types 255), 112, .none, true⟩,
  /- imulh -/ ⟨(.vg 4), (.vg 6), (.vg 5), .zero, (.types 255), 112, .none, true⟩,
  /- imad -/ ⟨(.vg 4), (.vg 6), (.vg 5), (.vg 3), (.types 255), 120, .none, true⟩,
  /- idiv -/ ⟨(.vg 4), (.vg 6), (.vg 5), .zero, (.types 255), 112, .none, true⟩,
  /- irem -/ ⟨(.vg 4), (.vg 6), (.vg 5), .zero, (.types 255), 112, .none, true⟩,
  /- ineg -/ ⟨(.vg 4), .zero, (.vg 5), .zero, (.types 255), 48, .none, true⟩,
  /- iabs -/ ⟨(.vg 4), .zero, (.vg 5), .zero, (.types 255), 48, .none, true⟩,
  /- imin -/ ⟨(.vg 4), (.vg 6), (.vg 5), .zero, (.types 255), 112, .none, true⟩,
  /- imax -/ ⟨(.vg 4), (.vg 6), (.vg 5), .zero, (.types 255), 112, .none, true⟩,
  /- iadc -/ ⟨(.vg 4), (.vg 6), (.vg 5), (.below 64), (.types 255), 112, .none, true⟩,
  /- iadds -/ ⟨(.vg 4), (.vg 6), (.vg 5), .zero, (.types 255), 112, .none, true⟩,
  /- isubs -/ ⟨(.vg 4), (.vg 6), (.vg 5), .zero, (.types 255), 112, .none, true⟩]

/-- Field rules of row 0x3_. -/
def sigRow3 : List Sig := [/- lea -/ ⟨(.vg 4), (.vg 6), (.vg 5), (.below 8), (.types 255), 112, .none, true⟩,
  /- lear -/ ⟨(.vg 4), .zero, (.vg 5), .zero, (.types 255), 48, .none, true⟩,
  /- and -/ ⟨(.vg 4), (.vg 6), (.vg 5), .zero, (.types 255), 112, .none, true⟩,
  /- or -/ ⟨(.vg 4), (.vg 6), (.vg 5), .zero, (.types 255), 112, .none, true⟩,
  /- xor -/ ⟨(.vg 4), (.vg 6), (.vg 5), .zero, (.types 255), 112, .none, true⟩,
  /- not -/ ⟨(.vg 4), .zero, (.vg 5), .zero, (.types 255), 48, .none, true⟩,
  /- andn -/ ⟨(.vg 4), (.vg 6), (.vg 5), .zero, (.types 255), 112, .none, true⟩,
  /- logic3 -/ ⟨(.vg 4), (.vg 6), (.vg 5), .any, (.types 255), 112, .none, true⟩,
  /- shl -/ ⟨(.vg 4), (.vg 6), (.vg 5), .zero, (.types 255), 112, .none, true⟩,
  /- shr -/ ⟨(.vg 4), (.vg 6), (.vg 5), .zero, (.types 255), 112, .none, true⟩,
  /- sar -/ ⟨(.vg 4), (.vg 6), (.vg 5), .zero, (.types 255), 112, .none, true⟩,
  /- rol -/ ⟨(.vg 4), (.vg 6), (.vg 5), .zero, (.types 255), 112, .none, true⟩,
  /- ror -/ ⟨(.vg 4), (.vg 6), (.vg 5), .zero, (.types 255), 112, .none, true⟩,
  /- dshr -/ ⟨(.vg 4), (.vg 6), (.vg 5), (.vg 3), (.types 255), 120, .none, true⟩,
  /- bfx -/ ⟨(.vg 4), (.vg 6), (.vg 5), .zero, (.types 1), 112, .none, true⟩,
  /- bfxs -/ ⟨(.vg 4), (.vg 6), (.vg 5), .zero, (.types 1), 112, .none, true⟩]

/-- Field rules of row 0x4_. -/
def sigRow4 : List Sig := [/- bfi -/ ⟨(.vg 4), (.vg 6), (.vg 5), .zero, (.types 1), 112, .none, true⟩,
  /- popc -/ ⟨(.vg 4), .zero, (.vg 5), .zero, (.types 255), 48, .none, true⟩,
  /- clz -/ ⟨(.vg 4), .zero, (.vg 5), .zero, (.types 255), 48, .none, true⟩,
  /- ctz -/ ⟨(.vg 4), .zero, (.vg 5), .zero, (.types 255), 48, .none, true⟩,
  /- brev -/ ⟨(.vg 4), .zero, (.vg 5), .zero, (.types 255), 48, .none, true⟩,
  /- bswap -/ ⟨(.vg 4), .zero, (.vg 5), .zero, (.types 255), 48, .none, true⟩,
  /- setp -/ ⟨(.below 8), (.vg 6), (.vg 5), (.below 6), (.types 255), 96, .none, true⟩,
  /- plogic -/ ⟨(.below 8), (.below 8), (.below 8), .any, (.types 1), 0, .none, false⟩,
  /- pmov -/ ⟨.v, .v, .zero, .zero, (.types 1), 64, .none, false⟩,
  /- pset -/ ⟨(.below 8), (.vg 6), (.vg 5), .zero, (.types 1), 96, .none, true⟩,
  /- setv -/ ⟨(.vg 4), (.below 8), .zero, .zero, (.types 255), 16, .none, false⟩,
  /- sext -/ ⟨(.vg 4), (.vg 6), (.vg 5), .zero, (.types 1), 112, .none, true⟩,
  /- zext -/ ⟨(.vg 4), (.vg 6), (.vg 5), .zero, (.types 1), 112, .none, true⟩,
  /- bmsk -/ ⟨(.vg 4), .zero, (.vg 5), .zero, (.types 1), 48, .none, true⟩]

/-- Field rules of row 0x5_. -/
def sigRow5 : List Sig := [/- fdset -/ ⟨.zero, (.vg 6), .zero, .zero, .format, 64, .none, false⟩,
  /- fdget -/ ⟨(.vg 4), .zero, .zero, .zero, .format, 16, .none, false⟩,
  /- fadd -/ ⟨(.vg 4), (.vg 6), (.vg 5), .zero, .format, 496, .rounding, true⟩,
  /- fsub -/ ⟨(.vg 4), (.vg 6), (.vg 5), .zero, .format, 496, .rounding, true⟩,
  /- fmul -/ ⟨(.vg 4), (.vg 6), (.vg 5), .zero, .format, 496, .rounding, true⟩,
  /- ffma -/ ⟨(.vg 4), (.vg 6), (.vg 5), (.vg 3), .format, 504, .rounding, true⟩,
  /- ffms -/ ⟨(.vg 4), (.vg 6), (.vg 5), (.vg 3), .format, 504, .rounding, true⟩,
  /- fnma -/ ⟨(.vg 4), (.vg 6), (.vg 5), (.vg 3), .format, 504, .rounding, true⟩,
  /- fmin -/ ⟨(.vg 4), (.vg 6), (.vg 5), .zero, .format, 496, .none, true⟩,
  /- fmax -/ ⟨(.vg 4), (.vg 6), (.vg 5), .zero, .format, 496, .none, true⟩,
  /- fminp -/ ⟨(.vg 4), (.vg 6), (.vg 5), .zero, .format, 496, .none, true⟩,
  /- fmaxp -/ ⟨(.vg 4), (.vg 6), (.vg 5), .zero, .format, 496, .none, true⟩,
  /- fabs -/ ⟨(.vg 4), .zero, (.vg 5), .zero, .format, 432, .none, true⟩,
  /- fneg -/ ⟨(.vg 4), .zero, (.vg 5), .zero, .format, 432, .none, true⟩,
  /- fcpys -/ ⟨(.vg 4), (.vg 6), (.vg 5), .zero, .format, 496, .none, true⟩,
  /- fclamp -/ ⟨(.vg 4), (.vg 6), (.vg 5), (.vg 3), .format, 504, .none, true⟩]

/-- Field rules of row 0x6_. -/
def sigRow6 : List Sig := [/- fdiv -/ ⟨(.vg 4), (.vg 6), (.vg 5), .zero, .format, 496, .rounding, true⟩,
  /- fsqrt -/ ⟨(.vg 4), .zero, (.vg 5), .zero, .format, 432, .rounding, true⟩,
  /- frcp -/ ⟨(.vg 4), .zero, (.vg 5), .zero, .format, 432, .rounding, true⟩,
  /- frsq -/ ⟨(.vg 4), .zero, (.vg 5), .zero, .format, 432, .rounding, true⟩,
  /- fexp2 -/ ⟨(.vg 4), .zero, (.vg 5), .zero, .format, 432, .rounding, true⟩,
  /- flog2 -/ ⟨(.vg 4), .zero, (.vg 5), .zero, .format, 432, .rounding, true⟩,
  /- fsin -/ ⟨(.vg 4), .zero, (.vg 5), .zero, .format, 432, .rounding, true⟩,
  /- fcos -/ ⟨(.vg 4), .zero, (.vg 5), .zero, .format, 432, .rounding, true⟩,
  /- fcmp -/ ⟨(.vg 4), (.vg 6), (.vg 5), (.below 8), .format, 368, .none, true⟩,
  /- fsetp -/ ⟨(.below 8), (.vg 6), (.vg 5), (.below 24), .format, 352, .none, true⟩,
  /- fclass -/ ⟨(.vg 4), (.vg 6), (.vg 5), .zero, .format, 368, .none, true⟩,
  /- fsel -/ ⟨(.vg 4), (.vg 6), (.vg 5), (.vg 3), .format, 504, .none, true⟩,
  /- cvt -/ ⟨(.vg 4), (.vg 6), (.below 64), (.below 16), .format, 464, .rounding, false⟩,
  /- frnd -/ ⟨(.vg 4), .zero, (.vg 5), .zero, .format, 432, .rounding, true⟩,
  /- fscl -/ ⟨(.vg 4), (.vg 6), (.vg 5), .zero, .format, 496, .rounding, true⟩,
  /- fxexp -/ ⟨(.vg 4), .zero, (.vg 5), .zero, .format, 432, .rounding, true⟩]

/-- Field rules of row 0x7_. -/
def sigRow7 : List Sig := [/- scale -/ ⟨(.vg 4), (.vg 6), (.vg 5), (.below 16), .format, 496, .rounding, true⟩,
  /- unscale -/ ⟨(.vg 4), (.vg 6), (.vg 5), (.below 16), .format, 496, .rounding, true⟩,
  /- fhsum -/ ⟨(.vg 4), .zero, (.vg 5), .zero, .format, 432, .rounding, true⟩,
  /- fhmax -/ ⟨(.vg 4), .zero, (.vg 5), .zero, .format, 432, .none, true⟩,
  /- fdot -/ ⟨(.vg 4), (.vg 6), (.vg 5), (.vg 3), .format, 504, .rounding, true⟩,
  /- sowg -/ ⟨.v, (.vg 6), (.vg 5), (.vg 3), .zero, 104, .none, true⟩,
  /- sowgf -/ ⟨.v, (.vg 6), (.vg 5), (.vg 3), .format, 104, .none, true⟩,
  /- lpeers -/ ⟨.v, .v, .zero, (.below 64), .zero, 0, .none, false⟩,
  /- lget -/ ⟨.v, .v, (.vg 5), (.below 64), .zero, 96, .none, true⟩,
  /- lslide -/ ⟨.v, .v, (.vg 5), (.below 64), .zero, 96, .none, true⟩,
  /- lslideW -/ ⟨.v, .v, (.vg 5), (.below 64), .zero, 96, .none, true⟩,
  /- lpair -/ ⟨.v, .v, (.vg 5), (.below 64), .zero, 96, .none, true⟩,
  /- lcycle -/ ⟨.v, .v, (.vg 5), (.below 64), .zero, 96, .none, true⟩,
  /- lcast -/ ⟨.v, .v, (.below 32), (.below 64), .zero, 64, .none, false⟩,
  /- lall -/ ⟨(.below 8), (.below 8), .zero, (.below 64), .zero, 0, .none, false⟩,
  /- lany -/ ⟨(.below 8), (.below 8), .zero, (.below 64), .zero, 0, .none, false⟩]

/-- Field rules of row 0x8_. -/
def sigRow8 : List Sig := [/- lsame -/ ⟨(.below 8), (.below 8), .zero, (.below 64), .zero, 0, .none, false⟩,
  /- lbits -/ ⟨.v, (.below 8), .zero, (.below 64), .zero, 0, .none, false⟩,
  /- lcount -/ ⟨.v, (.below 8), .zero, (.below 64), .zero, 0, .none, false⟩,
  /- redLane -/ ⟨.v, .v, .zero, (.below 64), .format, 384, .rounding, false⟩,
  /- redLaneMin -/ ⟨.v, .v, .zero, (.below 64), .format, 416, .none, false⟩,
  /- redLaneMax -/ ⟨.v, .v, .zero, (.below 64), .format, 416, .none, false⟩,
  /- redLaneI -/ ⟨.v, .v, .zero, (.below 64), (.types 255), 0, .none, false⟩,
  /- redLaneLog -/ ⟨.v, .v, .zero, (.below 64), .zero, 96, .none, false⟩,
  /- scan -/ ⟨.v, .v, .zero, (.below 64), .format, 448, .rounding, false⟩,
  /- scanMin -/ ⟨.v, .v, .zero, (.below 64), .format, 480, .none, false⟩,
  /- scanMax -/ ⟨.v, .v, .zero, (.below 64), .format, 480, .none, false⟩,
  /- scanI -/ ⟨.v, .v, .zero, (.below 64), (.types 255), 64, .none, false⟩]

/-- Field rules of row 0x9_. PREF with m[4] = 1, and LDMX and STMX with fi or fo, are illegal: their rules give those bits no
meaning for them (the model's choice, log 35). -/
def sigRow9 : List Sig := [/- ld -/ ⟨(.vg 4), (.vg 6), .index, .any, (.types 255), 120, .none, true⟩,
  /- st -/ ⟨(.vg 4), (.vg 6), .index, .any, (.types 255), 120, .none, true⟩,
  /- ldl -/ ⟨(.vg 4), (.vg 6), .index, .any, (.types 255), 120, .none, true⟩,
  /- stl -/ ⟨(.vg 4), (.vg 6), .index, .any, (.types 255), 120, .none, true⟩,
  /- ldp -/ ⟨(.vg 4), (.vg 6), (.vg 5), .any, .format, 120, .none, true⟩,
  /- stp -/ ⟨(.vg 4), (.vg 6), (.vg 5), .any, .format, 120, .none, true⟩,
  /- ldmx -/ ⟨.v, (.vg 6), (.vg 5), .zero, .format, 96, .none, false⟩,
  /- stmx -/ ⟨.v, (.vg 6), (.vg 5), .zero, .format, 96, .none, false⟩,
  /- stnt -/ ⟨(.vg 4), (.vg 6), .index, .any, (.types 255), 120, .none, true⟩,
  /- ntdrain -/ ⟨.zero, .zero, .zero, .zero, .zero, 0, .none, false⟩,
  /- ldacq -/ ⟨(.vg 4), (.vg 6), .index, .any, (.types 255), 120, .scope, true⟩,
  /- strel -/ ⟨(.vg 4), (.vg 6), .index, .any, (.types 255), 120, .scope, true⟩,
  /- ldw -/ ⟨(.vg 4), (.vg 6), .index, .any, .zero, 120, .none, true⟩,
  /- stw -/ ⟨(.vg 4), (.vg 6), .index, .any, .zero, 120, .none, true⟩,
  /- pref -/ ⟨.zero, (.vg 6), .index, .any, .zero, 104, .none, true⟩,
  /- cdisc -/ ⟨.zero, (.vg 6), (.vg 5), .zero, .zero, 96, .none, true⟩]

/-- Field rules of row 0xA_. -/
def sigRowA : List Sig := [/- atomAdd -/ ⟨.v, (.vg 6), .v, .zero, (.types 51), 120, .scope, true⟩,
  /- atomMin -/ ⟨.v, (.vg 6), .v, .zero, (.types 51), 120, .scope, true⟩,
  /- atomMax -/ ⟨.v, (.vg 6), .v, .zero, (.types 51), 120, .scope, true⟩,
  /- atomAnd -/ ⟨.v, (.vg 6), .v, .zero, (.types 51), 120, .scope, true⟩,
  /- atomOr -/ ⟨.v, (.vg 6), .v, .zero, (.types 51), 120, .scope, true⟩,
  /- atomXor -/ ⟨.v, (.vg 6), .v, .zero, (.types 51), 120, .scope, true⟩,
  /- atomXchg -/ ⟨.v, (.vg 6), .v, .zero, (.types 51), 120, .scope, true⟩,
  /- atomCas -/ ⟨.v, (.vg 6), .v, .v, (.types 51), 120, .scope, true⟩,
  /- atomInc -/ ⟨.v, (.vg 6), .v, .zero, (.types 48), 120, .scope, true⟩,
  /- atomDec -/ ⟨.v, (.vg 6), .v, .zero, (.types 48), 120, .scope, true⟩,
  /- atomFadd -/ ⟨.v, (.vg 6), .v, .zero, .format, 504, .scope, true⟩,
  /- atomFmin -/ ⟨.v, (.vg 6), .v, .zero, .format, 504, .scope, true⟩,
  /- atomFmax -/ ⟨.v, (.vg 6), .v, .zero, .format, 504, .scope, true⟩,
  /- red -/ ⟨(.below 8), (.vg 6), .v, .zero, (.types 51), 120, .scope, true⟩,
  /- redF -/ ⟨(.below 3), (.vg 6), .v, .zero, .format, 504, .scope, true⟩,
  /- atomrd -/ ⟨(.below 8), (.vg 6), .v, .v, (.types 51), 120, .scope, true⟩]

/-- Field rules of row 0xB_. -/
def sigRowB : List Sig := [/- dqinit -/ ⟨.v, (.vg 6), .v, .v, .zero, 64, .none, false⟩,
  /- dqpush -/ ⟨.v, (.vg 6), .v, .zero, .zero, 64, .none, false⟩,
  /- dqpop -/ ⟨.v, (.vg 6), .zero, (.below 8), .zero, 64, .none, false⟩,
  /- dqsteal -/ ⟨.v, (.vg 6), .zero, (.below 8), .zero, 64, .none, false⟩,
  /- pub -/ ⟨.zero, .zero, .zero, .zero, .zero, 0, .scope, false⟩,
  /- acq -/ ⟨.zero, .zero, .zero, .zero, .zero, 0, .scope, false⟩,
  /- phase -/ ⟨.zero, .zero, .zero, .zero, .zero, 0, .scope, false⟩,
  /- fence -/ ⟨.zero, .zero, .zero, .zero, .zero, 0, .scope, false⟩,
  /- arrive -/ ⟨(.below 28), .zero, (.vg 5), .zero, .zero, 96, .none, true⟩,
  /- bwait -/ ⟨(.vg 4), (.below 28), .zero, .zero, .zero, 16, .none, false⟩,
  /- bsync -/ ⟨.v, (.below 28), (.vg 5), .zero, .zero, 96, .none, true⟩,
  /- wait -/ ⟨(.below 16), (.below 16), (.below 16), (.below 16), .zero, 0, .none, false⟩]

/-- Field rules of row 0xC_. -/
def sigRowC : List Sig := [/- smmul -/ ⟨.v, .v, .v, .any, .format, 496, .rounding, false⟩,
  /- smmad -/ ⟨.v, .v, .v, .any, .format, 496, .rounding, false⟩,
  /- smmsb -/ ⟨.v, .v, .v, .any, .format, 496, .rounding, false⟩,
  /- smadd -/ ⟨.v, .v, .v, .any, .format, 496, .rounding, false⟩,
  /- smscl -/ ⟨.v, .v, .v, .any, .format, 496, .rounding, true⟩,
  /- smtrn -/ ⟨.v, .v, .zero, .any, .format, 496, .none, false⟩,
  /- smperm -/ ⟨.v, .v, .v, .any, .format, 496, .none, false⟩,
  /- smnrm -/ ⟨.v, .v, .zero, .any, .format, 496, .rounding, false⟩,
  /- chol -/ ⟨.v, .zero, .zero, .any, .format, 496, .rounding, false⟩,
  /- lup -/ ⟨.v, .zero, .v, .any, .format, 496, .rounding, false⟩,
  /- solv -/ ⟨.v, .v, .v, .any, .format, 496, .rounding, false⟩,
  /- solvt -/ ⟨.v, .v, .zero, .any, .format, 496, .rounding, false⟩,
  /- resv -/ ⟨(.vg 4), (.vg 6), .zero, .zero, .zero, 80, .none, false⟩,
  /- relv -/ ⟨(.vg 4), .zero, .zero, .zero, .zero, 16, .none, false⟩,
  /- resq -/ ⟨.v, .zero, .zero, (.below 8), .zero, 64, .none, false⟩,
  /- oprdy -/ ⟨.zero, .zero, .zero, .zero, .zero, 0, .none, false⟩]

/-- Field rules of row 0xD_. -/
def sigRowD : List Sig := [/- mma -/ ⟨.zero, (.vg 6), .zero, .zero, .zero, 64, .none, false⟩,
  /- mmas -/ ⟨.zero, (.vg 6), .zero, .zero, .zero, 64, .none, false⟩,
  /- tlmov -/ ⟨(.below 8), (.below 16), (.vg 5), (.below 2), .zero, 32, .none, true⟩,
  /- acz -/ ⟨(.below 16), .zero, .zero, .zero, .zero, 64, .none, false⟩,
  /- acmov -/ ⟨(.below 16), (.below 16), .zero, .zero, .zero, 0, .none, false⟩,
  /- acadd -/ ⟨(.below 16), (.below 16), (.below 16), .zero, .format, 384, .rounding, false⟩,
  /- acscl -/ ⟨(.below 16), (.below 16), (.vg 5), .zero, .format, 416, .rounding, true⟩,
  /- accvt -/ ⟨(.below 16), (.below 16), .zero, (.below 16), .format, 384, .rounding, false⟩,
  /- acrd -/ ⟨.v, (.below 16), (.vg 5), (.below 64), .zero, 96, .none, true⟩,
  /- acwr -/ ⟨.v, (.below 16), (.vg 5), (.below 64), .zero, 32, .none, true⟩,
  /- acld -/ ⟨(.below 16), (.vg 6), (.vg 5), .zero, .format, 104, .none, true⟩,
  /- acst -/ ⟨(.below 16), (.vg 6), (.vg 5), .zero, .format, 104, .none, true⟩]

/-- Field rules of row 0xE_. -/
def sigRowE : List Sig := [/- copy -/ ⟨(.below 8), (.vg 6), (.vg 5), (.vg 3), .zero, 104, .none, false⟩,
  /- copyq -/ ⟨(.below 8), (.vg 6), .zero, .zero, .zero, 64, .none, false⟩,
  /- copys -/ ⟨(.below 8), (.vg 6), .zero, .zero, .zero, 64, .none, false⟩,
  /- copyx -/ ⟨(.below 8), (.vg 6), .zero, .zero, .zero, 64, .none, false⟩,
  /- wpld -/ ⟨(.vg 4), (.below 4), .zero, .zero, .zero, 16, .none, false⟩,
  /- wpset -/ ⟨(.below 4), (.vg 6), .zero, .zero, .zero, 64, .none, false⟩,
  /- ldchk -/ ⟨.v, (.vg 6), .v, .zero, .zero, 64, .none, true⟩,
  /- qpush -/ ⟨.v, (.below 8), (.vg 5), .zero, .zero, 32, .none, false⟩,
  /- qpop -/ ⟨.v, (.below 8), (.vg 5), .zero, .zero, 32, .none, false⟩,
  /- qpeek -/ ⟨.v, (.below 8), (.vg 5), .zero, .zero, 32, .none, false⟩,
  /- qstat -/ ⟨(.vg 4), (.below 8), .zero, .zero, .zero, 16, .none, false⟩,
  /- winset -/ ⟨(.below 16), (.vg 6), .zero, .zero, .zero, 64, .none, false⟩,
  /- winget -/ ⟨(.below 16), (.vg 6), .zero, .zero, .zero, 64, .none, false⟩,
  /- launch -/ ⟨.v, (.vg 6), .zero, .zero, .zero, 64, .none, false⟩,
  /- launchi -/ ⟨.v, (.vg 6), .zero, .zero, .zero, 64, .none, false⟩,
  /- regrp -/ ⟨.zero, (.vg 6), (.vg 5), (.vg 3), .zero, 104, .none, true⟩]

/-- Field rules of row 0xF_. -/
def sigRowF : List Sig := []

/-- The field rules of an opcode, where it is assigned (R163). -/
def sigOf (op : Nat) : Option Sig :=
  (([sigRow0, sigRow1, sigRow2, sigRow3, sigRow4, sigRow5, sigRow6, sigRow7, sigRow8, sigRow9, sigRowA, sigRowB, sigRowC, sigRowD, sigRowE, sigRowF] : List (List Sig))[op / 16]?).bind (fun r => r[op % 16]?)

/-- Bit k of the modifier field. -/
def fldBit (f : Fld) (k : Nat) : Bool := bit f.m.toNat k

/-- A register field agrees with its role (R157). -/
def roleOk (r : FieldRole) (f : Fld) (x : Nat) : Bool :=
  match r with
  | .zero => x == 0
  | .v => true
  | .vg b => !fldBit f b || decide (x < 64)
  | .index => fldBit f 5 || x == 0
  | .below n => decide (x < n)
  | .any => true

/-- The slot field agrees with its use (R158). -/
def slotOk (u : SlotUse) (x : Nat) : Bool :=
  match u with
  | .zero => x == 0
  | .format => true
  | .types k => decide (x < 8) && bit k x

/-- m[2:0] agrees with its use. -/
def lowOk (u : Low) (x : Nat) : Bool :=
  match u with
  | .none => x == 0
  | .rounding => x != 7
  | .scope => x != 7
  | .scopeToDevice => decide (x ≤ 5)
  | .waitScope => x == 5 || x == 6

/-- The literal form holds a literal operand b: field b is 0 and a file or index bit of b is 0 (R153, R160). -/
def litOk (g : Sig) (f : Fld) : Bool :=
  g.lit && f.b == 0 && (match g.b with | .vg k => !fldBit f k | .index => !fldBit f 5 | _ => true)

/-- The register fields of the small-matrix class: shapes r, q and n (R260). -/
def smR (f : Fld) : Nat := bits f.c.toNat 2 0
def smQ (f : Fld) : Nat := bits f.c.toNat 5 3
def smN (f : Fld) : Nat := bits f.m.toNat 6 4
def smOpt (f : Fld) : Nat := bits f.c.toNat 7 6

/-- Small-matrix opcodes: which shapes are used and which option bits exist (R261). -/
def smRule (op : Nat) : Bool × Bool × Bool × Nat :=
  match op with
  | 0xC0 => (true, true, true, 3)
  | 0xC1 => (true, true, true, 3)
  | 0xC2 => (true, true, true, 3)
  | 0xC3 => (true, true, false, 1)
  | 0xC4 => (true, true, false, 0)
  | 0xC5 => (true, true, false, 0)
  | 0xC6 => (true, true, false, 1)
  | 0xC7 => (true, true, false, 3)
  | 0xC8 => (true, false, false, 0)
  | 0xC9 => (true, false, false, 0)
  | 0xCA => (true, false, true, 1)
  | _ => (true, false, true, 3)

/-- The v registers that a small-matrix instruction names: first register and count (R98, R261). -/
def smSpans (op : Nat) (f : Fld) : List (Nat × Nat) :=
  let d := f.d.toNat
  let a := f.a.toNat
  let b := f.b.toNat
  let r := smR f
  let q := smQ f
  let n := smN f
  match op with
  | 0xC0 => [(d, r * n), (a, r * q), (b, q * n)]
  | 0xC1 => [(d, r * n), (a, r * q), (b, q * n)]
  | 0xC2 => [(d, r * n), (a, r * q), (b, q * n)]
  | 0xC3 => [(d, r * q), (a, r * q), (b, r * q)]
  | 0xC4 => [(d, r * q), (a, r * q)] ++ (if f.form == .w96 then [] else [(b, 1)])
  | 0xC5 => [(d, r * q), (a, r * q)]
  | 0xC6 => [(d, r * q), (a, r * q), (b, 1)]
  | 0xC7 => [(d, 1), (a, r * q)]
  | 0xC8 => [(d, r * r)]
  | 0xC9 => [(d, r * r), (b, 1)]
  | 0xCA => [(d, r * n), (a, r * r)] ++ (if smOpt f == 1 then [(b, 1)] else [])
  | _ => [(d, r * n), (a, r * r)]

def smShapeOk (used : Bool) (x : Nat) : Bool :=
  if used then decide (1 ≤ x) && decide (x ≤ 6) else x == 0

/-- The small-matrix rules of R261 and the span rule of R98. -/
def smOk (op : Nat) (f : Fld) : Bool :=
  let (ur, uq, un, opts) := smRule op
  smShapeOk ur (smR f) && smShapeOk uq (smQ f) && smShapeOk un (smN f)
  && (smOpt f &&& opts) == smOpt f
  && (op != 0xCA || smOpt f == 1 || f.b == 0)
  && (smSpans op f).all (fun p => decide (p.1 + p.2 ≤ 256))

/-- Rules of single opcodes that the tables cannot say. -/
def extraOk (op : Nat) (f : Fld) : Bool :=
  if 0xC0 ≤ op && op ≤ 0xCB then smOk op f
  else match op with
  | 0x13 => decide (16 ≤ f.c.toNat)                               -- MOVS writes RW entries only (R191)
  | 0x48 => if fldBit f 6 then f.d == 0 else f.a == 0                -- PMOV .wr, .rd (R179)
  | 0x75 => f.d.toNat != 255                                       -- SOWG writes v(d+1) (R217)
  | 0x87 => bits f.m.toNat 6 5 != 3                                -- RED.LANE.LOG op (R223)
  | 0x9C => if fldBit f 4 then f.d.toNat != 63 else f.d.toNat != 255 -- LDW (R227); log 15
  | 0x9D => if fldBit f 4 then f.d.toNat != 63 else f.d.toNat != 255
  | 0xAD => f.d.toNat < 6 || decide (4 ≤ f.slot.toNat)             -- RED inc, dec: .n types (R234, R236)
  | 0xAF => (f.d.toNat < 6 || decide (4 ≤ f.slot.toNat)) && f.c.toNat != 255   -- ATOMRD (R237)
  | 0xCE => f.d.toNat != 255 && (!fldBit f 6 || f.c == 0)            -- RESQ (R271)
  | 0xD8 => if fldBit f 6 then f.b == 0 && f.c == 0 && !fldBit f 5 && f.form != .w96
            else decide (f.d.toNat + f.c.toNat ≤ 255)              -- ACRD (R288)
  | 0xD9 => decide (f.d.toNat + f.c.toNat ≤ 255)                   -- ACWR
  | _ => true

/-- The values that each form can hold (R151-R153). -/
def formOk (f : Fld) : Bool :=
  match f.form with
  | .w32 => decide (f.d.toNat < 64) && decide (f.a.toNat < 64) && decide (f.b.toNat < 64) && f.c == 0 && f.slot == 0
      && f.m == 0 && f.pace == 0 && !f.sense && f.lit == 0
  | .w64 => f.lit == 0
  | .w96 => true

/-- The checks of R164 step 6 for the long forms. -/
def fieldsOk (op : Nat) (f : Fld) : Bool :=
  match sigOf op with
  | none => false
  | some g =>
    formOk f && !(f.sense && f.guard == 0)
    && roleOk g.d f f.d.toNat && roleOk g.a f f.a.toNat && roleOk g.c f f.c.toNat
    && (if f.form == .w96 then litOk g f else roleOk g.b f f.b.toNat)
    && slotOk g.slot f.slot.toNat
    && lowOk g.low (bits f.m.toNat 2 0)
    && ((f.m.toNat &&& 0x1F8) &&& g.mods) == (f.m.toNat &&& 0x1F8)
    && extraOk op f

/-- The v registers that an instruction names, as first number and count, for the check of R94. LDMX and STMX add
theirs at execution, since their number depends on the slot (R231). -/
def vSpans (op : Nat) (f : Fld) : List (Nat × Nat) :=
  if 0xC0 ≤ op && op ≤ 0xCB then smSpans op f
  else match sigOf op with
  | none => []
  | some g =>
    let one (r : FieldRole) (x n : Nat) : List (Nat × Nat) :=
      match r with
      | .v => [(x, n)]
      | .vg b => if fldBit f b then [] else [(x, n)]
      | .index => if fldBit f 5 then [(x, n)] else []
      | _ => []
    let nd := if op == 0x9C || op == 0x9D || op == 0x75 || op == 0xCE then 2
              else if (op == 0xD8 && !fldBit f 6) || op == 0xD9 then f.c.toNat + 1 else 1
    let nc := if op == 0xAF then 2 else 1
    if op == 0x48 then (if fldBit f 6 then [(f.a.toNat, 1)] else [(f.d.toNat, 1)])
    else if op == 0xD8 && fldBit f 6 then [(f.d.toNat, 1)]
    else one g.d f.d.toNat nd ++ one g.a f.a.toNat 1
      ++ (if f.form == .w96 then [] else one g.b f.b.toNat 1) ++ one g.c f.c.toNat nc

/-- Largest v register number named, plus 1; 0 when none is. -/
def vNeed (op : Nat) (f : Fld) : Nat :=
  (vSpans op f).foldl (fun m p => max m (p.1 + p.2)) 0

end Sys2Proof.Machine
end

