-- ==== Sys2Proof/WellFormed.lean ====
section
/-! DEFINITION. Which instructions the encodings of spec 05 can hold: exactly those that pass the checks of steps 5
and 6 of R164. The rows for whole events have no encoding and are always well formed. -/
namespace Sys2Proof

/-- The checks of R164 steps 5 and 6 hold of an instruction. -/
def Instr.wf (i : Instr) : Bool :=
  match Machine.opFld i with
  | some (op, f) => Machine.fieldsOk op f
  | none =>
    match i with
    | .mov16 rd rs => rd != 0 || rs != 0          -- R161, R162
    | .setp16 mod _ _ => decide (mod.toNat < 6)   -- R161
    | _ => true

end Sys2Proof
end

