-- ==== Sys2Proof/Decode.lean ====
section
/-! DEFINITION. Decoding of the bytes of an instruction (spec 05 R147-R164), total and rejecting by name, and after it
the encoder, written from the same layouts. -/
namespace Sys2Proof

/-- Why a row of bytes is not an instruction. -/
inductive Reject
  /-- fewer bytes than the length code asks for -/
  | tooShort
  /-- length code 0b11 (R147): an illegal-length trap -/
  | illegalLength
  /-- a primary opcode that R163 reserves: an illegal-instruction trap (R164 step 5) -/
  | reservedOpcode
  /-- a field rule of R164 step 6 is broken: an illegal-instruction trap -/
  | reservedField
  /-- a halfword that R161 does not list: an illegal-instruction trap -/
  | unlistedHalfword
  deriving DecidableEq, Repr

/-- Length in bytes from the first halfword (R147); none for length code 0b11. -/
def lengthOf (h : Nat) : Option Nat :=
  if h % 2 = 0 then some 2
  else match (h / 2) % 4 with
    | 0 => some 4
    | 1 => some 8
    | 2 => some 12
    | _ => none

/-- The 16-bit forms (R150, R161, R162). -/
def decode16 (h : Nat) : Option Instr :=
  let op := (h / 2) % 16
  let rd : BitVec 4 := BitVec.ofNat 4 (h / 2 ^ 5)
  let rs : BitVec 4 := BitVec.ofNat 4 (h / 2 ^ 9)
  let mod := (h / 2 ^ 13) % 8
  let m3 : BitVec 3 := BitVec.ofNat 3 mod
  let kk : BitVec 2 := BitVec.ofNat 2 mod
  match op with
  | 0 => if mod = 0 ∧ ¬ (rd = 0 ∧ rs = 0) then some (.mov16 rd rs) else none
  | 1 => if mod = 0 then some (.iadd16 rd rs) else if mod = 1 then some (.iadd16Imm rd rs) else none
  | 2 => if mod = 0 then some (.isub16 rd rs) else if mod = 1 then some (.isub16Imm rd rs) else none
  | 3 => if mod = 0 then some (.and16 rd rs) else none
  | 4 => if mod = 0 then some (.or16 rd rs) else none
  | 5 => if mod = 0 then some (.xor16 rd rs) else none
  | 6 => if mod = 0 then some (.shl16 rd rs) else if 4 ≤ mod then some (.shl16Imm kk rd rs) else none
  | 7 => if mod = 0 then some (.shr16 rd rs) else if 4 ≤ mod then some (.shr16Imm kk rd rs) else none
  | 8 => if mod = 0 then some (.fadd16 rd rs) else none
  | 9 => if mod = 0 then some (.fmul16 rd rs) else none
  | 10 => if mod = 0 then some (.fmax16 rd rs) else none
  | 11 => some (.ld64 m3 rd rs)
  | 12 => some (.st64 m3 rd rs)
  | 13 => some (.bra16 (BitVec.ofNat 11 (h / 2 ^ 5)))
  | 14 => if mod < 6 then some (.setp16 m3 rd rs) else none
  | _ => if mod = 0 ∧ rd = 0 ∧ rs = 0 then some .nop16 else none

/-- The fields of the 32-bit form (R151). -/
def fields32 (w : Nat) : Fld :=
  { form := .w32, sense := false, guard := BitVec.ofNat 3 (w / 2 ^ 11), pace := 0
    d := BitVec.ofNat 8 ((w / 2 ^ 14) % 64), a := BitVec.ofNat 8 ((w / 2 ^ 20) % 64)
    b := BitVec.ofNat 8 ((w / 2 ^ 26) % 64), c := 0, slot := 0, m := 0, lit := 0 }

/-- The fields of the 64-bit form (R152). -/
def fields64 (w : Nat) : Fld :=
  { form := .w64, sense := (w / 2 ^ 14) % 2 == 1, guard := BitVec.ofNat 3 (w / 2 ^ 11), pace := BitVec.ofNat 4 (w / 2 ^ 15)
    d := BitVec.ofNat 8 (w / 2 ^ 19), a := BitVec.ofNat 8 (w / 2 ^ 27), b := BitVec.ofNat 8 (w / 2 ^ 35)
    c := BitVec.ofNat 8 (w / 2 ^ 43), slot := BitVec.ofNat 4 (w / 2 ^ 51), m := BitVec.ofNat 9 (w / 2 ^ 55), lit := 0 }

/-- The fields of the 96-bit form (R153). -/
def fields96 (w : Nat) : Fld :=
  { fields64 w with form := .w96, lit := BitVec.ofNat 32 (w / 2 ^ 64) }

/-- An opcode and its fields, checked in the order of R164 steps 5 and 6. -/
def decodeFields (op : Nat) (f : Fld) : Except Reject Instr :=
  match Machine.ofOpcode op with
  | none => .error .reservedOpcode
  | some mk => if Machine.fieldsOk op f then .ok (mk f) else .error .reservedField

/-- An instruction of the given length in bytes, whose bits are w. -/
def decodeBits (len w : Nat) : Except Reject Instr :=
  if len = 2 then
    match decode16 (w % 2 ^ 16) with
    | some i => .ok i
    | none => .error .unlistedHalfword
  else if len = 4 then decodeFields ((w / 8) % 256) (fields32 w)
  else if len = 8 then decodeFields ((w / 8) % 256) (fields64 w)
  else decodeFields ((w / 8) % 256) (fields96 w)

/-- The instruction that a row of bytes begins with, and its length in bytes. -/
def decode (bs : List Byte) : Except Reject (Instr × Nat) :=
  if bs.length < 2 then .error .tooShort
  else
    let h := Machine.ofBytes (bs.take 2)
    match lengthOf h with
    | none => .error .illegalLength
    | some n =>
      if bs.length < n then .error .tooShort
      else match decodeBits n (Machine.ofBytes (bs.take n)) with
        | .ok i => .ok (i, n)
        | .error r => .error r

/-- The instruction read from the bits of a row of the opcode table; bits above nbits are 0. -/
def decodeTableWord (nbits w : Nat) : Option Instr :=
  match decode (Machine.leBytes 12 (w % 2 ^ nbits)) with
  | .ok (i, _) => some i
  | .error _ => none

/-- The bits of a 16-bit form (R150). -/
def word16 (op : Nat) (rd rs : BitVec 4) (mod : Nat) : Nat :=
  2 * op + 2 ^ 5 * rd.toNat + 2 ^ 9 * rs.toNat + 2 ^ 13 * mod

/-- The bits of a long form (R151-R153). -/
def wordLong (op : Nat) (f : Fld) : Nat :=
  match f.form with
  | .w32 => 1 + 2 ^ 3 * op + 2 ^ 11 * f.guard.toNat + 2 ^ 14 * f.d.toNat + 2 ^ 20 * f.a.toNat + 2 ^ 26 * f.b.toNat
  | .w64 => 3 + 2 ^ 3 * op + long f
  | .w96 => 5 + 2 ^ 3 * op + long f + 2 ^ 64 * f.lit.toNat
where
  /-- the fields above the opcode, common to the 64- and 96-bit forms -/
  long (f : Fld) : Nat :=
    2 ^ 11 * f.guard.toNat + 2 ^ 14 * (if f.sense then 1 else 0) + 2 ^ 15 * f.pace.toNat + 2 ^ 19 * f.d.toNat
    + 2 ^ 27 * f.a.toNat + 2 ^ 35 * f.b.toNat + 2 ^ 43 * f.c.toNat + 2 ^ 51 * f.slot.toNat + 2 ^ 55 * f.m.toNat

/-- Length in bytes and bits of an instruction; length 0 for the rows that are events. -/
def encodeBits (i : Instr) : Nat × Nat :=
  match Machine.opFld i with
  | some (op, f) => (match f.form with | .w32 => 4 | .w64 => 8 | .w96 => 12, wordLong op f)
  | none =>
    match i with
    | .mov16 rd rs => (2, word16 0 rd rs 0)
    | .iadd16 rd rs => (2, word16 1 rd rs 0)
    | .iadd16Imm rd imm => (2, word16 1 rd imm 1)
    | .isub16 rd rs => (2, word16 2 rd rs 0)
    | .isub16Imm rd imm => (2, word16 2 rd imm 1)
    | .and16 rd rs => (2, word16 3 rd rs 0)
    | .or16 rd rs => (2, word16 4 rd rs 0)
    | .xor16 rd rs => (2, word16 5 rd rs 0)
    | .shl16 rd rs => (2, word16 6 rd rs 0)
    | .shl16Imm kk rd imm => (2, word16 6 rd imm (4 + kk.toNat))
    | .shr16 rd rs => (2, word16 7 rd rs 0)
    | .shr16Imm kk rd imm => (2, word16 7 rd imm (4 + kk.toNat))
    | .fadd16 rd rs => (2, word16 8 rd rs 0)
    | .fmul16 rd rs => (2, word16 9 rd rs 0)
    | .fmax16 rd rs => (2, word16 10 rd rs 0)
    | .ld64 mod rd rs => (2, word16 11 rd rs mod.toNat)
    | .st64 mod rd rs => (2, word16 12 rd rs mod.toNat)
    | .bra16 off => (2, 2 * 13 + 2 ^ 5 * off.toNat)
    | .setp16 mod rd rs => (2, word16 14 rd rs mod.toNat)
    | .nop16 => (2, word16 15 0 0 0)
    | _ => (0, 0)

/-- The bytes of an instruction, lowest address first (R147). -/
def encode (i : Instr) : List Byte :=
  Machine.leBytes (encodeBits i).1 (encodeBits i).2

end Sys2Proof
end

