-- ==== Sys2Proof/Config.lean ====
section
/-! DEFINITION. What an implementation fixes and the free values: constants with no body, of which no proof can see a value. -/
namespace Sys2Proof

/-- Free values in the order in which the machine draws them (`State.fresh` numbers them): cycle counts, nonces and
every other value the manual leaves open. Log 7. -/
opaque Config.freeWord : Nat → Word

/-- The clk count of a core at a moment of the run, numbered by `State.fresh` (spec 06 R191 s.cyc, 13 R352). Log 7. -/
opaque Config.cycles : Nat → Word

/-- The value an exact real operation rounds to when the model's enclosures do not decide it, by the operation's
number and its operand code. No operand is known that reaches it. Log 14. -/
opaque Config.undecidedRounding : Nat → Nat → Nat → Nat

/-- The Birrad public key held in the secure controller: the x and y coordinates (spec 15 R385). Log 12. -/
opaque Config.birradKey : Nat × Nat

/-- The 16-byte serial of the device, as a number (spec 18 R444). Log 12. -/
opaque Config.deviceSerial : Nat

/-- What the secure controller answers an SPDM request with that asks for no measurement of R443: the certificate chain
(spec 18). Log 12. -/
opaque Config.spdmAnswer : Nat → List Byte

/-- The firmware image that a unit of a target is made with, active until another is activated (spec 18 R441, R443). Log 12. -/
opaque Config.factoryImage : Nat → Nat → List Byte

/-- The signature that the secure controller makes of some bytes under its identity key, which never leaves it (spec 18 R443);
the number counts the signatures. Log 12. -/
opaque Config.identitySign : Nat → List Byte → List Byte

/-- SYSQ selector 2 on the patch core of an I/O die, whose position R193 and R334 do not state (log 7). -/
opaque Config.patchCorePosition : Nat → Word

/-- Which of its home die's two HBM stacks serves a physical address, by its last bit: fixed by the address, and not given by
the manual (spec 03 R91). Log 7. -/
opaque Config.hbmStack : Nat → Nat

end Sys2Proof
end

