-- ==== Sys2Proof/Machine/Mem.lean ====
section
/-! DEFINITION. Bytes by address: a list of cells in ONE canonical form (addresses strictly rising, no cell equal to what
an unlisted address reads as). Every memory of the machine has this form: HBM and the link targets, a team's local
space, accumulator tiles, the mailbox. -/
namespace Sys2Proof.Machine

/-- A memory: addresses with their bytes. -/
abbrev Mem := List Host.Cell

/-- What an unlisted address reads as (logs 1 and 2 for HBM and the link targets; R25 for a team's local space). -/
def memDefault : Byte := 0

/-- The byte at an address. -/
def Mem.get : Mem → Nat → Byte
  | [], _ => memDefault
  | (a, b) :: rest, x => if a = x then b else if x < a then memDefault else Mem.get rest x

/-- The memory after a byte is written; the canonical form is kept. -/
def Mem.set : Mem → Nat → Byte → Mem
  | [], x, v => if v = memDefault then [] else [(x, v)]
  | (a, b) :: rest, x, v =>
    if x < a then (if v = memDefault then (a, b) :: rest else (x, v) :: (a, b) :: rest)
    else if a = x then (if v = memDefault then rest else (x, v) :: rest)
    else (a, b) :: Mem.set rest x v

/-- Every address of a memory is above lo (or there is none). -/
def Mem.above (lo : Nat) : Mem → Bool
  | [] => true
  | (a, b) :: rest => decide (lo ≤ a) && b != memDefault && Mem.above (a + 1) rest

/-- The canonical form: addresses strictly rising, no cell at the default. -/
def Mem.wf (m : Mem) : Bool := Mem.above 0 m

/-- n bytes from an address upward. -/
def Mem.readList (m : Mem) : Nat → Nat → List Byte
  | _, 0 => []
  | x, n + 1 => Mem.get m x :: Mem.readList m (x + 1) n

/-- Bytes written from an address upward. -/
def Mem.writeList (m : Mem) : Nat → List Byte → Mem
  | _, [] => m
  | x, b :: bs => Mem.writeList (Mem.set m x b) (x + 1) bs

/-- The n-byte number at an address, least significant byte first (R5). -/
def Mem.readN (m : Mem) (x n : Nat) : Nat := ofBytes (m.readList x n)

/-- The memory after the n low bytes of v are written at an address. -/
def Mem.writeN (m : Mem) (x n v : Nat) : Mem := m.writeList x (leBytes n v)

/-- The memory without the cells of a range. -/
def Mem.clearRange (m : Mem) (x n : Nat) : Mem := m.filter (fun c => !(decide (x ≤ c.1) && decide (c.1 < x + n)))

end Sys2Proof.Machine
end

