-- ==== Sys2Proof/Machine/State.lean ====
section
/-! DEFINITION. The state of the package as plain data: every register, memory, queue and operation in progress that the
spec gives the machine, and the machine right after package reset. The model's own fields are `inputs`, `cur`, `fresh`
and the order counters (logs 3, 4 and 7). -/
namespace Sys2Proof.Machine

/-- Why a step stops with a fault of the MODEL. The faults of the manual (R365) are next states. -/
inductive Fault
  /-- raised by the meaning of a code instruction that is called while no issue group stands at it; `step` never calls
  one so. Safe: the manual gives such a call no meaning. -/
  | noIssueGroup
  deriving DecidableEq, Repr

/-- Why a step is refused. -/
inductive Refusal
  /-- raised by an arm of `exec` whose instruction has no meaning yet. Safe: nothing is claimed of it. -/
  | notModelled (mnemonic : String)
  deriving DecidableEq, Repr

/-- The fault codes of R365. -/
inductive FaultCode
  | translation | instructionFetch | illegalLength | illegalInstruction | registerRange | format | address
  | localRange | alignment | memoryType | windowStore | windowSet | poison | codeHandle | frameLimit
  | windowDivergence | crossLaneMember | regroupContinuation | barrierScope | barrierOverrun | unhandledTrap
  | trapState | breakpoint | copyDescriptor | copy | tileCheck | deque | crossTeamAtomic | determinismGuard
  | matrixParameter | headlandSubset | watchdog
  deriving DecidableEq, Repr

/-- A fault with the parts of its record that the instruction decides (R364): the detail field, word 3 and word 4. -/
structure FaultInfo where
  code : FaultCode
  detail : Nat := 0
  data : Nat := 0
  datum2 : Nat := 0
  /-- the port whose error count rises with the fault (R403) -/
  port : Option Nat := none
  /-- data addresses of the other threads that take the fault with this one (R359) -/
  also : List Nat := []
  deriving DecidableEq, Repr

/-- A group of a team, of a queue program or of an emulation thread. -/
structure Where where
  uid : Nat
  group : Nat
  deriving DecidableEq, Repr

/-- The thread that made a store, with the identity keys of R142. -/
structure Writer where
  uid : Nat
  group : Nat
  lane : Nat
  ctx : Nat
  acc : Nat
  cix : Nat
  k : Nat
  /-- the store carries an identity of its grid (R143) -/
  graded : Bool
  deriving DecidableEq, Repr

/-- What a waiting thread waits for (R31, R374). -/
inductive Wait
  /-- BWAIT or the second half of BSYNC on a barrier number (R157) -/
  | barrier (n : Nat)
  /-- WAIT on the four counters (R244) -/
  | counters (nl ns nc nt : Nat)
  /-- WAITMEM (R198) -/
  | monitor
  /-- PARK (R199) -/
  | park
  /-- a Coulter emulation request (R394) -/
  | emulation
  /-- a small-matrix unit, a power token, a free tile or room in a counter: the instruction issues when it can -/
  | resource
  /-- saved waiting (R374): the instruction issues again where it waited -/
  | resumed
  deriving DecidableEq, Repr

/-- The state of a thread (R374; a deposit of an open Harrow round, R36). -/
inductive Status
  | running
  /-- held at a cross-lane instruction with the mask read at arrival (R33); the instruction, the address after it and
  its decode word (R388) -/
  | heldLane (mask : Nat) (f : Fld) (next dword : Nat)
  /-- held at a window operation (R186) -/
  | heldWindow (op : Nat) (f : Fld) (next dword : Nat)
  | waiting (w : Wait)
  /-- took the fault that stopped or parked its group (R363, R359) -/
  | faulted
  | ended
  | deposited
  deriving DecidableEq, Repr

/-- The word that a WAITMEM watches, or the bytes that a PARK watches, at their home (R198, R199). -/
inductive Watch
  /-- the word, its comparison, the register that the value goes to (none for a g register that a lower lane writes), the
  address of the next instruction and the value that passed -/
  | word (pa size ty cc comparand : Nat) (dst : Option (Bool × Nat)) (next : Nat) (got : Option Nat)
  | parked (pas : List Nat) (woken : Bool)
  deriving DecidableEq, Repr

/-- When a recorded fault is taken (R252, R289, R379, R403). -/
inductive LateKind
  /-- a copy that stopped: at a WAIT that releases its operation, or at EXIT; with no number the group no longer counts it -/
  | copy (op : Option Nat)
  /-- a matrix-engine instruction that stopped: at a WAIT on the tile counter, or at EXIT -/
  | engine
  /-- a reduction that met poison: at a WAIT on the stores counter, or at EXIT -/
  | reduction
  deriving DecidableEq, Repr

/-- A patch slot record (R384). -/
structure SlotRec where
  value : Nat
  mask : Nat
  pclo : Nat
  pchi : Nat
  ctx : Nat
  entry : Nat
  fcode : Nat
  tnum : Nat
  pid : Nat
  prio : Nat
  act : Nat
  fp : Bool
  pcen : Bool
  ctxen : Bool
  forms : Nat
  nsub : Nat
  subs : List Nat
  deriving DecidableEq, Repr

/-- A register or predicate that an instruction of the latency table has written a short time ago (R324, R326): a local
byte address or a predicate number, the value before, and the issue distance that is still missing. -/
structure Recent where
  pred : Bool
  place : Nat
  old : Nat
  left : Nat
  deriving DecidableEq, Repr

/-- One thread (R26). -/
structure Thread where
  pc : Word
  p : BitVec 8
  nf : BitVec 9
  smst : Word
  sx : Word
  tpc : Word
  tcause : BitVec 8
  intrap : Bool
  cid : BitVec 24
  status : Status
  /-- clk that IDLE still keeps the thread from issuing (R194) -/
  idle : Nat
  /-- arrived in the current phase, by barrier number 0-27 (R49, R373) -/
  arr : BitVec 28
  /-- arrived and not waited since (R241, R373) -/
  anw : BitVec 28
  /-- of a headland slot: the arrival's phase was started afresh before it completed, so the slot waits for the next (R337) -/
  voided : BitVec 28
  /-- order number of the last issue (R27) -/
  last : Nat
  late : List (LateKind × FaultInfo)
  /-- failed stores not yet reported, and the address and request number of the earliest (R403) -/
  linkFails : Nat
  linkVa : Nat
  linkReq : Nat
  watch : Option Watch
  /-- registers whose value before their last writer a short pace may still read (R326) -/
  recent : List Recent
  /-- the patch slot whose action has begun at the instruction and must wait, with the number of its configuration (R387) -/
  slot : Option (Nat × SlotRec)
  /-- the fault that the thread took is a translation fault, which a shootdown replays (R359) -/
  parked : Bool
  /-- of a queue program: order number from which on it has been ready without issuing (R336) -/
  ready : Nat
  /-- number of the patch configuration under which the instruction that holds the thread was decoded (R387) -/
  gen : Nat
  deriving DecidableEq, Repr

/-- How the bytes that an operation brings back become register values. -/
inductive RForm
  /-- a datum extended under R174 into v or g -/
  | typed (g : Bool) (n ty : Nat)
  /-- LDW: two registers -/
  | pair (g : Bool) (n : Nat)
  /-- LDP: elements of width w from bit `off` of the bytes -/
  | packed (g : Bool) (n w count off : Nat)
  /-- LDMX: a block of width w and a scale byte -/
  | mx (n w : Nat)
  /-- element 0 of a slot of width w -/
  | elem (n w : Nat)
  /-- a 64-bit value -/
  | word (n : Nat)
  /-- DQPOP, DQSTEAL: a 64-bit value and then a byte for the predicate -/
  | wordPred (n pc : Nat)
  /-- nothing is written -/
  | none
  deriving DecidableEq, Repr

/-- One lane's part of an operation: the bytes read, those still to come from a link window (index and address), and
where they go. `o` is the ring offset under which the instruction named its registers (R97). -/
structure Part where
  lane : Nat
  bytes : List Byte
  links : List (Nat × Nat)
  form : RForm
  ready : Bool
  /-- nf bits that come back with an atomic (R235) -/
  nf : Nat
  /-- scope code of the acquire that follows the load of a link (R232) -/
  acq : Nat
  o : Nat
  deriving DecidableEq, Repr

/-- The wait counters (R243); `none` for operations that no counter counts. -/
inductive Ctr | loads | stores | copies | tiles | none
  deriving DecidableEq, Repr

inductive OpKind
  /-- waits for its parts -/
  | parts
  /-- STNT: waits until these stores, by number, are performed at home -/
  | nt (sids : List Nat)
  | copy (ids : List Nat)
  | tile (seqs : List Nat)
  /-- stores on UALink windows (R402) or reductions at a sync engine, by number -/
  | pending (ids : List Nat)
  /-- results of a small-matrix instruction (R264) -/
  | smu
  deriving DecidableEq, Repr

/-- An issued operation that has not completed (R243). -/
structure Op where
  id : Nat
  ctr : Ctr
  kind : OpKind
  parts : List Part
  done : Bool
  deriving DecidableEq, Repr

structure Group where
  idx : Nat
  threads : List Thread
  /-- ring offset and resident caller rows (R185) -/
  o : Nat
  res : Nat
  bsb : Word
  bsl : Word
  bsp : Word
  /-- fault record (R364) -/
  frec : List Word
  stopped : Bool
  /-- parked on a translation fault at this address (R359) -/
  parked : Option Nat
  /-- the addresses at which other threads of the group were parked with that one -/
  also : List Nat
  ops : List Op
  nextOp : Nat
  /-- the threads stand at the kernel's first instruction (R25, R258) -/
  started : Bool
  /-- the argument words of R172 have been read (R25) -/
  argsRead : Bool
  /-- order number at which the group first waited for power tokens, and how many it needs (R46, R277) -/
  tokenWait : Option (Nat × Nat)
  /-- tokens granted to the group's next matrix-engine instruction -/
  tokenHeld : Nat
  deriving DecidableEq, Repr

/-- A barrier: phase, arrival count, flag fields (R49) and external counts (R242). -/
structure Barrier where
  phase : Bool
  count : Nat
  flags : BitVec 16
  result : BitVec 16
  x : BitVec 32
  y : BitVec 32
  deriving DecidableEq, Repr

/-- A kernel record (R318). -/
structure Kern where
  f : Nat
  w : Nat
  ngroups : Nat
  s : Nat
  t : Nat
  cw : Nat
  ch : Nat
  gmap : List Nat
  stash : List (Nat × Nat × Nat)
  bars : Nat
  raw : List Byte
  deriving DecidableEq, Repr

/-- A reservation record (R105). -/
structure Resv where
  valid : Bool
  glen : Nat
  fslot : Nat
  eofs : Nat
  sofs : Nat
  nrows : Nat
  base : Nat
  deriving DecidableEq, Repr

/-- An accumulator tile (R279): bound to a physical tile or not, its tile flags, its 4,096 cells as bytes. -/
structure Tile where
  bound : Bool
  tf : BitVec 9
  cells : Mem
  /-- 16-byte sectors that are poisoned (R380) -/
  poison : List Nat
  deriving DecidableEq, Repr

/-- An issued sequenced matrix-engine instruction (R277, R286). -/
structure MInstr where
  seq : Nat
  group : Nat
  lane : Nat
  opId : Nat
  opcode : Nat
  addr : Nat
  handle : Nat
  /-- opcode-specific operands: fields d, a, m, and the parameter block or address, pitch, scalar -/
  d : Nat
  a : Nat
  b : Nat
  m : Nat
  block : Nat
  /-- definitions of the slots read at issue (R280), and the context's srw and srk at issue -/
  fds : List Word
  srk : Word
  srw : Nat
  /-- the range records at issue -/
  resv : List Resv
  lanes : Nat
  step : Nat
  started : Bool
  token : Bool
  /-- steps of other instructions run while this one waited (R45) -/
  waited : Nat
  /-- MOB bytes as read by the engine, and cells being accumulated (R276, R290) -/
  snap : Mem
  /-- poisoned 8-byte words of the MOB as read (R380) -/
  snapPoison : List Nat
  /-- number of the released reservation set that the instruction still uses; 0 for the set that is held (R274) -/
  mobGen : Nat
  work : Mem
  tf : BitVec 9
  /-- paused at a translation fault at this address (R289) -/
  paused : Option Nat
  poisoned : Bool
  deriving DecidableEq, Repr

/-- A Harrow deposit (R36). -/
structure Deposit where
  payload : Word
  key : BitVec 16
  nf : BitVec 9
  cont : Word
  index : Nat
  deriving DecidableEq, Repr

/-- A stash entry (R100). -/
structure StashEntry where
  valid : Bool
  gva : Nat
  nsec : Nat
  loff : Nat
  deriving DecidableEq, Repr

inductive Role
  | compute
  | queue (q : Nat)
  /-- the emulation thread of the patch core of an I/O die (R395) -/
  | patch (iod : Nat)
  deriving DecidableEq, Repr

/-- A team, or the one-thread container of a queue program or of an emulation thread. -/
structure Team where
  uid : Nat
  role : Role
  ctx : Nat
  acc : Nat
  cix : Nat
  k : Nat
  cls : Nat
  kind : Nat
  rank : Nat
  cluster : Nat × Nat × Nat
  gdim : Nat × Nat × Nat
  die : Nat
  site : Nat
  kern : Kern
  args : Nat
  bsa : Nat
  bsz : Nat
  /-- the team's local space: scratchpad, stash, register region, MOB rows -/
  lmem : Mem
  /-- 8-byte words of the local space that are poisoned (R380) -/
  lpoison : List Nat
  stash : List StashEntry
  stashValid : List Nat
  stashDirty : List (Nat × Writer)
  tbs : List Barrier
  cbs : List Barrier
  resv : List Resv
  tiles : List Tile
  mq : List MInstr
  harrow : List Deposit
  /-- clusters and continuation of the open round (R36) -/
  harrowCont : Option Word
  harrowClosed : Bool
  groups : List Group
  /-- a core that did not answer a save held the team: it stays stopped (R370) -/
  lost : Bool
  deriving DecidableEq, Repr

/-- A byte stored in a core and not yet performed at its home (R124, R136, R137). `mask` says which of its bits the
store covers (R230); bytes of one store share `sid`; `raw` says that the page's compressible bit is 0 (R90). -/
structure Dirty where
  pa : Nat
  byte : Byte
  mask : Byte
  sid : Nat
  w : Writer
  nt : Bool
  comb : Bool
  raw : Bool
  deriving DecidableEq, Repr

/-- A copy of a 128-byte line in a core's L1 (R123, R128): its 128 bytes as one moment had them at the home, and the
sectors that came poisoned, by address / 16, each with whether an SRAM error is the cause (R364, R377). -/
structure CacheLine where
  line : Nat
  bytes : List Byte
  bad : List (Nat × Bool)
  deriving DecidableEq, Repr

/-- A 32-byte word of HBM with poison (R377, R378): the bytes readable because they have been stored since, as a mask; a
sector is poisoned unless its half of the mask is full. `sram`: an SRAM error is the cause (R364). `writer`: a store
has changed the word and the home has not written it back; the context that stored, or the device (none). -/
structure PoisonWord where
  word : Nat
  stored : Nat
  sram : Bool
  writer : Option (Option Nat)
  deriving DecidableEq, Repr

/-- A physical MOB area that RELV has released and that earlier instructions still use (R274). -/
structure Lingering where
  uid : Nat
  base : Nat
  nrows : Nat
  upto : Nat
  deriving DecidableEq, Repr

/-- Results of a small-matrix instruction still in its unit (R264): the values to write, lane by lane. -/
structure SmuOp where
  quadrant : Nat
  uid : Nat
  group : Nat
  opId : Nat
  /-- lane, register values, nf bits, smst, sx -/
  lanes : List (Nat × List (Nat × Word) × Nat × Option Word × Option Word)
  deriving DecidableEq, Repr

/-- A code-object entry that a core keeps (R181). -/
structure CodeEntry where
  ctx : Nat
  id : Nat
  base : Nat
  len : Nat
  deriving DecidableEq, Repr

/-- A 16-byte sector in a core's instruction cache: its context, sector numbers of its virtual and physical address, and
the bytes that the fetch returned (R166). -/
structure FetchedSector where
  ctx : Nat
  va : Nat
  pa : Nat
  bytes : List Byte
  deriving DecidableEq, Repr

/-- A core: compute cores on dies 0-7 by logical site; headland core h of IO i at (8 + i, h); patch core at (8 + i, 16). -/
structure Core where
  die : Nat
  site : Nat
  dirty : List Dirty
  /-- cached copies of lines by physical address (R123, R128) -/
  clean : List CacheLine
  icache : List FetchedSector
  codes : List CodeEntry
  queues : List (List (List Byte))
  /-- wp0-wp3 with the copy they are bound to (R253) -/
  wp : List (Word × Option Nat)
  smu : List SmuOp
  lingering : List Lingering
  /-- the matrix-engine instruction that ran the last step and has not completed: team and sequence number (R45) -/
  running : Option (Nat × Nat)
  /-- number of the patch configuration in force in the core (R387) -/
  patchGen : Nat
  deriving DecidableEq, Repr

/-- The issue group whose instruction is being executed. -/
structure Cur where
  w : Where
  lanes : List Nat
  pc : Nat
  next : Nat
  /-- the decode word of R388 and the literal, for the patch fabric -/
  dword : Nat
  lit : Nat
  form : Nat
  /-- the fault path of the patch fabric does not act (inside substitutes, R397) -/
  noPatch : Bool
  /-- changes made once for the issue group are discarded: some thread faults in the sequence (R393) -/
  noG : Bool
  /-- number of the patch configuration under which the instruction is matched (R387) -/
  gen : Nat := 0
  deriving DecidableEq, Repr

/-- A launch on its way to the arbiter (R340). -/
structure LaunchReq where
  w : Where
  lane : Nat
  opId : Nat
  ctx : Nat
  /-- class of the launching team or queue (R42) -/
  cls : Nat
  desc : List Byte
  indirect : Bool
  die : Nat
  /-- the instruction, for a fault in the read of a LAUNCHI's counts at acceptance (R40, R43) -/
  cur : Option Cur
  deriving DecidableEq, Repr

/-- An accepted launch at its gate (R341). -/
structure Launch where
  acc : Nat
  order : Nat
  cls : Nat
  desc : List Byte
  indirect : Bool
  kern : Kern
  pass0 : Bool
  pass1 : Bool
  counts : Option (Nat × Nat × Nat)
  /-- the physical words that the gate watches at their homes, with the awaited values (R198, R258, R341) -/
  watch0 : Option (Nat × Nat)
  watch1 : Option (Nat × Nat)
  /-- a word that faulted: parked until a shootdown covers the address, or held for good (R258) -/
  parked : Option Nat
  heldForGood : Bool
  deriving DecidableEq, Repr

/-- A restored cluster that waits to be placed (R376): its saved teams, and by cluster core the queues and write pointers
that go with a team (R371). -/
structure Pending where
  cix : Nat
  teams : List Team
  queues : List (Nat × List (List (List Byte)) × List (Word × Option Nat))
  deriving DecidableEq, Repr

/-- A grid in flight (R24). -/
structure Grid where
  acc : Nat
  /-- place in the package-wide order of acceptance (R346) -/
  order : Nat
  cls : Nat
  kind : Nat
  kern : Kern
  /-- the launch descriptor (R257) -/
  desc : List Byte
  gdim : Nat × Nat × Nat
  gbs : List Barrier
  /-- clusters with a lower index have been placed; restored clusters that wait are listed (R346, R376) -/
  next : Nat
  waiting : List Pending
  /-- clusters placed and not retired -/
  live : List Nat
  /-- clusters that a save has taken and no restore has brought back (R370, R376); the number of clusters stands for those
  that a save of the context has taken before their placement -/
  away : List Nat
  /-- clusters retired whose event is held, with logical site of cluster core 0 and die, and the lowest index whose
  event has not been emitted (R348) -/
  retired : List (Nat × Nat × Nat)
  nextRetire : Nat
  deriving DecidableEq, Repr

/-- What a lane keeps beside its image: s.tcause, the recorded faults, the failures on links. -/
structure AsideLane where
  group : Nat
  lane : Nat
  tcause : BitVec 8
  late : List (LateKind × FaultInfo)
  linkFails : Nat
  linkVa : Nat
  linkReq : Nat
  parked : Bool
  /-- the thread's status where it is held, with the mask that it read, or waits on a barrier after its arrival -/
  held : Option Status
  deriving DecidableEq, Repr

/-- What a team keeps beside its image, for which the layout of R373 and R374 has no place (R54; log 24): its stash entries,
its matrix-engine instructions with what they have read, released MOB rows, its threads' own. -/
structure Aside where
  acc : Nat
  cix : Nat
  k : Nat
  stash : List StashEntry
  mq : List MInstr
  lmem : Mem
  lpoison : List Nat
  lanes : List AsideLane
  /-- the further addresses at which a group is parked -/
  also : List (Nat × List Nat)
  /-- the threads that wrote the dirty stash bytes (R102) -/
  dirty : List (Nat × Writer)
  /-- the copies to which the write pointers of its core are bound, where its block holds the core's queues (R139) -/
  wp : List (Option Nat)
  deriving DecidableEq, Repr

/-- A context (R361) with everything that is per context. -/
structure Ctx where
  id : Nat
  det : Bool
  ptroot : Nat
  part : BitVec 8
  cotbase : Nat
  cotn : Nat
  wdog : Nat
  fqbase : Nat
  fqlen : Nat
  fqwr : BitVec 32
  elbase : Nat
  ellen : Nat
  elwr : BitVec 32
  fd : List Word
  wd : List (BitVec 512)
  srk : Word
  srw : BitVec 32
  thand : Word
  nextAcc : Nat
  /-- kernel records of loaded code objects, by kernel handle (R257, R318; log 4) -/
  kernels : List (Nat × List Byte)
  /-- stepping of each loaded code object, by id (R317, R327; log 4) -/
  steppings : List (Nat × Nat)
  launches : List Launch
  grids : List Grid
  /-- last writer of a byte while a grid runs: address, grid, identity keys (R143) -/
  tags : List (Nat × Writer)
  /-- lines claimed by a team: line, acc, cix, k (R145) -/
  claims : List (Nat × Nat × Nat × Nat)
  /-- fault-queue entries waiting to be written (R366) -/
  fqPend : List (List Word)
  prevDie : Nat
  /-- what saved teams keep beside their images (log 24) -/
  aside : List Aside
  deriving DecidableEq, Repr

/-- What an atomic does to its element (R234, R235). -/
inductive AtomKind
  | add | min | max | and | or | xor | xchg | cas | inc | dec | fadd | fmin | fmax
  deriving DecidableEq, Repr

/-- What a sync engine is asked to execute. -/
inductive SyncOp
  | atomic (k : AtomKind) (b c : Nat)
  | dqinit (arr cap : Nat)
  | dqpush (value arrPa : Nat)
  | dqpop
  | dqsteal
  deriving DecidableEq, Repr

/-- An operation at a sync engine (R132), one thread's part of it. -/
structure SyncItem where
  id : Nat
  /-- the instruction, for a fault at the execution -/
  cur : Cur
  die : Nat
  w : Where
  lane : Nat
  opId : Nat
  writer : Writer
  op : SyncOp
  pa : Nat
  va : Nat
  size : Nat
  /-- integer type, or slot definition with fi and fo for the format atomics -/
  ty : Nat
  fd : Word
  fi : Bool
  fo : Bool
  acquire : Bool
  scope : Nat
  /-- ATOMRD: the target descriptor (R237) -/
  redirect : Option (Nat × Nat)
  instr : Nat
  /-- its execution is a release point: the thread's later stores come after it (R126) -/
  rel : Bool := false
  deriving DecidableEq, Repr

/-- A deposit and arrival on its way to a team (R134, R237). -/
structure Delivery where
  id : Nat
  ctx : Nat
  acc : Nat
  bar : Nat
  off : Nat
  size : Nat
  old : Nat
  rank : Nat
  word1 : Nat
  /-- die of the engine that executed it -/
  die : Nat
  deriving DecidableEq, Repr

inductive CopyState
  | running
  /-- paused at a translation fault at this address (R252, R359) -/
  | paused (va : Nat)
  /-- every byte performed; the signal of a COPYX has been sent -/
  | signalled
  deriving DecidableEq, Repr

/-- A copy in progress (R245-R252). -/
structure Copy where
  id : Nat
  /-- opcode: 0xE0 COPY, 0xE1 COPYQ, 0xE2 COPYS, 0xE3 COPYX -/
  opcode : Nat
  w : Where
  lane : Nat
  /-- the operation of the group that counts the copy -/
  opId : Nat
  writer : Writer
  die : Nat
  site : Nat
  addr : Nat
  handle : Nat
  descAddr : Nat
  src : Nat
  dst : Nat
  rows : Nat
  /-- destination and source bytes of a row -/
  rbytes : Nat
  sbytes : Nat
  spitch : Int
  dpitch : Nat
  sadr : Nat
  sval : Nat
  /-- COPYQ: the descriptor, slot definitions and srk at issue -/
  desc : Nat
  fdS : Word
  fdD : Word
  srk : Word
  /-- window descriptors in force at issue (R115) -/
  wd : List (BitVec 512)
  /-- next destination byte: row and offset in the row -/
  row : Nat
  pos : Nat
  /-- a source read on a link that is awaited, and the bytes that came back (R402) -/
  wait : Option Nat
  got : Option (List Byte)
  /-- COPYQ: source reads of this row made so far, their element bytes and group bytes, the row's destination bytes -/
  fetched : Nat
  srcRow : List Byte
  aux : List Byte
  dstRow : List Byte
  rowReady : Bool
  /-- COPYQ: scales, side lists and trailers to write next, address and bytes -/
  extras : List (Nat × List Byte)
  /-- COPYQ: CRC register, ST count and largest element of the tile so far (R85, R251) -/
  crc : Nat
  satn : Nat
  maxmag : Nat
  state : CopyState
  /-- its team has been saved: it goes on when the team is placed again (R53) -/
  held : Bool
  deriving DecidableEq, Repr

/-- A request on a link that has not been answered (R402, R403). -/
structure OutReq where
  id : Nat
  /-- the instruction, for the fault of a load or returning atomic -/
  cur : Option Cur
  w : Where
  lane : Nat
  opId : Nat
  writer : Writer
  va : Nat
  pa : Nat
  /-- bytes that the request covers from pa on -/
  len : Nat
  /-- page type (R138) -/
  ty : Nat
  /-- bytes to store with their masks; empty for other requests -/
  data : List (Nat × Byte × Byte)
  /-- a posted store or a reduction: its failure is reported later -/
  posted : Bool
  atomic : Option SyncItem
  copy : Option Nat
  /-- port of the request: UALink ports 0-15, PCIe ports 16 and 17 -/
  port : Nat
  /-- the store is a release point: the thread's later stores come after it (R126) -/
  rel : Bool := false
  deriving DecidableEq, Repr

/-- A queue record (R332); registers and scratchpad are in the queue's container. -/
structure QueueRec where
  q : Nat
  prio : BitVec 3
  flt : Bool
  run : Bool
  state : Nat
  ctx : BitVec 16
  pc : BitVec 56
  fpc : BitVec 56
  fcode : BitVec 8
  deriving DecidableEq, Repr

/-- An event on its way to the event ring (R351, R352). -/
structure Ev where
  die : Nat
  kind : Nat
  ctx : Nat
  cyc : Word
  acc : Nat
  cix : Nat
  info : Nat
  dseq : Nat
  deriving DecidableEq, Repr

/-- A loaded patch image (R382, R383). -/
structure Patch where
  id : Nat
  ver : Nat
  rp : Bool
  lvl : Nat
  slots : List SlotRec
  code : List Byte
  data : List Byte
  bytes : List Byte
  deriving DecidableEq, Repr

/-- A patch configuration that some core still runs under (R387). -/
structure PatchCfg where
  gen : Nat
  image : Option Patch
  en : BitVec 16
  deriving DecidableEq, Repr

/-- A request for emulation (R394, R395). -/
structure EmuReq where
  w : Where
  lanes : List Nat
  iod : Nat
  d : Nat
  lit : Nat
  pc : Nat
  next : Nat
  ctx : Nat
  pid : Nat
  entry : Nat
  gen : Nat
  die : Nat
  site : Nat
  f : Nat
  /-- the thread of this request runs on the patch core -/
  running : Bool
  deriving DecidableEq, Repr

/-- A piece of an inbound request of a PCIe port that has not been performed at its home (R412-R414). -/
structure Piece where
  id : Nat
  port : Nat
  /-- the request's place in the order of arrival -/
  wr : Nat
  kind : InKind
  home : Nat
  pa : Nat
  len : Nat
  data : List Byte
  relaxed : Bool
  idOrdered : Bool
  requester : Nat
  deriving DecidableEq, Repr

/-- A response that the package sends to the outside: kind, data, error or poison. -/
structure Response where
  port : Nat
  kind : Nat
  data : List Byte
  status : Nat
  deriving DecidableEq, Repr

/-- A translation that the device keeps (R357). -/
structure Kept where
  ctx : Nat
  va : Nat
  size : Nat
  leaf : Nat
  deriving DecidableEq, Repr

/-- A firmware image that has been staged or is active: target, unit, image bytes (R441). -/
structure Firmware where
  target : Nat
  unit : Nat
  image : List Byte
  deriving DecidableEq, Repr

/-- The port and identity state of UALink (R417-R419) that has behaviour of its own. -/
structure PortSt where
  up : Bool
  dis : Bool
  /-- the link is trained, apart from dis -/
  trained : Bool
  nerr : BitVec 32
  deriving DecidableEq, Repr

/-- What the outside world and the arbiters do next (log 3). -/
inductive Input
  /-- a row of the opcode table that is an event of the part -/
  | event (i : Instr)
  /-- the issue group of this group that R27 chooses issues -/
  | issue (w : Where)
  /-- an agent behind a link window writes a byte of its own memory (log 2) -/
  | targetWrite (pa : Nat) (b : Byte)
  /-- an uncorrectable HBM error in the 32-byte word at pa, or in a stored unit of its granule if the controller keeps it
  compressed (R377) -/
  | hbmError (pa : Nat) (compressed : Bool)
  /-- the home writes the granule of pa back to HBM (R377, R378) -/
  | writeBack (pa : Nat)
  /-- the target of a link answers reads of the sector at pa with data again, with a failure, or with poison (R403) -/
  | targetFault (pa : Nat) (how : Option Bool)
  /-- a corrected HBM error (R377) -/
  | hbmCorrected (pa : Nat)
  /-- an uncorrectable error in an 8-byte word of the unified store, or in a MOB row, at a local address (R380) -/
  | localError (uid addr : Nat)
  /-- a link answers an outbound load, atomic or copy with poison (R403) -/
  | linkPoison (req : Nat)
  /-- an uncorrectable error in a sector of an accumulator tile (R380) -/
  | tileError (uid tile sector : Nat)
  /-- an uncorrectable error in a dirty L2 sector (R380) -/
  | l2Error (pa : Nat)
  /-- a corrected SRAM error on a die (R380) -/
  | sramCorrected (die : Nat)
  /-- an error in a sync-engine line: the second bank is used, or both fail (R380) -/
  | syncError (pa : Nat) (both : Bool)
  /-- a kept translation is discarded (R357, R380) -/
  | keptDrop (ctx va : Nat)
  /-- an instruction-cache sector of a core is discarded (R380) -/
  | fetchDrop (die site pa : Nat)
  /-- the loader gives a context the kernel record of a kernel handle (R318, R319; log 4) -/
  | kernelRecord (ctx handle : Nat) (record : List Byte)
  /-- the loader gives a context the stepping of a code object (R317, R319; log 4) -/
  | objectStepping (ctx id stepping : Nat)
  /-- a request to the control aperture of a PCIe port (R405, R406, R409) -/
  | controlRequest (r : InReq)
  /-- a request to the mailbox of a PCIe port (R405, R408, R409) -/
  | mailboxRequest (r : InReq)
  /-- the host masks or unmasks an MSI-X vector of a function: 0 the physical one, v + 1 virtual function v (R411) -/
  | msixMask (fn vec : Nat) (masked : Bool)
  /-- a request to a virtual function's BAR0 (R410) -/
  | vfControl (v : Nat) (r : InReq)
  /-- a request to a virtual function's BAR2 (R410) -/
  | vfRequest (v : Nat) (r : InReq)
  deriving DecidableEq, Repr

/-- Registers of the package that no other part holds. -/
structure Regs where
  /-- control-aperture registers with no behaviour of their own, by offset of their 8-byte word (R406) -/
  ctl : List (Nat × Word)
  /-- logical-to-physical site map of each die: entries that differ from phys = l (R344) -/
  phys : List (Nat × Nat × Nat)
  /-- sites whose avail bit is 0, by die and logical site -/
  unavail : List (Nat × Nat)
  pool : Nat
  cap : Nat
  drop : BitVec 32
  evwr : BitVec 32
  devwr : BitVec 32
  devdrop : BitVec 32
  /-- gran and die of each GiB under the region commit in force (R360); entries that differ from 0 -/
  regions : List (Nat × Nat)
  io1mode : Nat
  io1pending : Option Nat
  pcieErr0 : Nat
  pcieErr1 : Nat
  ports : List PortSt
  mailbox : Mem
  nonce : Word
  ownerKey : Option (List Byte)
  patchEn : BitVec 16
  /-- version floors by image id (R385) -/
  floors : List (Nat × Nat)
  /-- masked MSI-X vectors, and those with a pending bit: function (0 the physical one, v + 1 virtual function v) and
  vector (R411) -/
  msixMask : List (Nat × Nat)
  msixPend : List (Nat × Nat)
  deriving DecidableEq, Repr

/-- The package. -/
structure State where
  inputs : List Input
  cur : Option Cur
  /-- lanes that took the last fault, for the substitutes of the patch fabric (R393) -/
  lastFault : Option (List Nat × FaultInfo)
  /-- REWRITEs that fault-path slots start, in order: the issue group, the slot, the lanes, the fault (R397) -/
  rewrite : List (Cur × SlotRec × List Nat × FaultInfo)
  fresh : Nat
  /-- order numbers: issues, uids, requests -/
  tick : Nat
  nextUid : Nat
  nextReq : Nat
  home : Mem
  /-- words of HBM with poison (R377) -/
  poison : List PoisonWord
  /-- 512-byte granules that the last store through a page stored raw (R90) -/
  rawGranules : List Nat
  /-- 16-byte sectors of link targets that answer a read with a failure, or with poison (true) (R403) -/
  linkFaults : List (Nat × Bool)
  teams : List Team
  /-- retired teams whose copies or reductions still run, for the faults that these meet (R252, R379) -/
  departed : List Team
  cores : List Core
  ctxs : List Ctx
  kept : List Kept
  syncQ : List SyncItem
  deliveries : List Delivery
  copies : List Copy
  launchQ : List LaunchReq
  outReqs : List OutReq
  /-- lines that a DQINIT has marked (R238), with the context of the marker -/
  deques : List (Nat × Nat)
  queues : List QueueRec
  hlbars : List (Nat × Barrier)
  accOrder : Nat
  /-- events held for their grid's retirement order, and events on their way to the ring -/
  evQ : List Ev
  dseq : List Nat
  pseq : Nat
  regs : Regs
  /-- the loaded image (R382), the number of the configuration in force, and earlier ones that cores have not left -/
  patch : Option Patch
  patchGen : Nat
  patchCfgs : List PatchCfg
  emuQ : List EmuReq
  staged : Option Firmware
  firmware : List Firmware
  /-- PCIe PHY images that take effect at their port's next link reset (R442) -/
  portFirmware : List Firmware
  pieces : List Piece
  responses : List Response
  /-- MSI-X messages sent: function and vector (R411) -/
  msix : List (Nat × Nat)
  /-- die measurements of the last refresh (R445) -/
  telemetry : List (Nat × Telemetry)
  tpeak : List (Nat × Nat)
  /-- corrected SRAM errors of a die since its last refresh (R380, R445) -/
  csram : List (Nat × Nat)
  /-- the thermal governor has shut the package down: it needs a package reset (R446) -/
  shut : Bool
  /-- die, context, grid and cluster that nothing behind may pass there (R346) -/
  placerHold : List (Nat × Nat × Nat × Nat)
  /-- context, start and length of the shootdown in progress (R357) -/
  shootdown : Option (Nat × Nat × Nat)
  deriving DecidableEq, Repr

/-- UALink port p after reset: not trained (R418). -/
def portReset : PortSt := { up := false, dis := false, trained := false, nerr := 0 }

/-- The registers after package reset (INVENTORY; logs 6, 8, 9). -/
def regsReset : Regs :=
  { ctl := [], phys := [], unavail := (List.range 8).flatMap (fun n => (List.range 8).map (fun i => (n, 160 + i))),
    pool := 1280, cap := 2560, drop := 0, evwr := 0, devwr := 0, devdrop := 0, regions := [], io1mode := 0,
    io1pending := none, pcieErr0 := 0, pcieErr1 := 0, ports := List.replicate 16 portReset, mailbox := [], nonce := 0,
    ownerKey := none, patchEn := 0, floors := [], msixMask := [], msixPend := [] }

/-- The package after reset (spec 00 R8 with the Reset columns of spec 13-18): no context is live, every queue is
stopped, memory lists nothing. -/
def State.reset : State :=
  { inputs := [], cur := none, lastFault := none, rewrite := [], fresh := 0, tick := 0, nextUid := 1000, nextReq := 0,
    home := [], poison := [], rawGranules := [], linkFaults := [],
    teams := [], departed := [], cores := [], ctxs := [], kept := [], syncQ := [], deliveries := [], copies := [], launchQ := [],
    outReqs := [], deques := [], queues := [], hlbars := [], accOrder := 0, evQ := [], dseq := List.replicate 10 0,
    pseq := 0, regs := regsReset, patch := none, patchGen := 0, patchCfgs := [], emuQ := [], staged := none, firmware := [], portFirmware := [], pieces := [],
    responses := [], msix := [], telemetry := [], tpeak := [], csram := [], shut := false, placerHold := [], shootdown := none }

end Sys2Proof.Machine
end

