-- ==== Sys2Proof/Machine/Numbers.lean ====
section
/-! DEFINITION. Software-defined number formats (spec 02): exact values, format definitions and their codes, `round_to`
with its flags, and the exact operations of the format class (spec 07 R206, R211). -/
namespace Sys2Proof.Machine

/-- An exact rational, kept in lowest terms by its operations; den is not 0. -/
structure Q where
  num : Int
  den : Nat
  deriving DecidableEq, Repr

def qMk (n : Int) (d : Nat) : Q :=
  let g := Nat.gcd n.natAbs d
  if g ≤ 1 then ⟨n, d⟩ else ⟨n / (g : Int), d / g⟩
def qOf (n : Int) : Q := ⟨n, 1⟩
def qAdd (a b : Q) : Q :=
  if a.den = b.den then qMk (a.num + b.num) a.den else qMk (a.num * b.den + b.num * a.den) (a.den * b.den)
def qNeg (a : Q) : Q := ⟨-a.num, a.den⟩
def qSub (a b : Q) : Q := qAdd a (qNeg b)
def qMul (a b : Q) : Q := qMk (a.num * b.num) (a.den * b.den)
def qAbs (a : Q) : Q := ⟨a.num.natAbs, a.den⟩
def qIsZero (a : Q) : Bool := a.num == 0
def qNegative (a : Q) : Bool := decide (a.num < 0)
/-- a / b for b not 0. -/
def qDiv (a b : Q) : Q :=
  if b.num < 0 then qMk (-(a.num * b.den)) (a.den * b.num.natAbs) else qMk (a.num * b.den) (a.den * b.num.natAbs)
def qCmp (a b : Q) : Ordering := compare (a.num * b.den) (b.num * a.den)
def qLt (a b : Q) : Bool := qCmp a b == .lt
def qLe (a b : Q) : Bool := qCmp a b != .gt
/-- 2^e for an integer e. -/
def qPow2 (e : Int) : Q := if e ≥ 0 then ⟨((2 ^ e.toNat : Nat) : Int), 1⟩ else ⟨1, 2 ^ (-e).toNat⟩
def qPow10 (e : Int) : Q := if e ≥ 0 then ⟨((10 ^ e.toNat : Nat) : Int), 1⟩ else ⟨1, 10 ^ (-e).toNat⟩
/-- floor of a rational. -/
def qFloor (a : Q) : Int := a.num / (a.den : Int)

/-- floor(log2 |a|) of a rational that is not 0. -/
def qLog2 (a : Q) : Int :=
  let e : Int := (Nat.log2 a.num.natAbs : Int) - (Nat.log2 a.den : Int)
  if qLe (qPow2 e) (qAbs a) then (if qLe (qPow2 (e + 1)) (qAbs a) then e + 1 else e) else e - 1

/-- A value of a code: a finite real with the sign a zero carries, an infinity, or NaN (R63-R67). -/
inductive Val
  | fin (neg : Bool) (q : Q)
  | inf (neg : Bool)
  | nan
  deriving DecidableEq, Repr

def valOf (q : Q) : Val := .fin (qNegative q) q
def Val.isNan : Val → Bool | .nan => true | _ => false
def Val.isInf : Val → Bool | .inf _ => true | _ => false
def Val.isZero : Val → Bool | .fin _ q => qIsZero q | _ => false
def Val.neg : Val → Bool | .fin n _ => n | .inf n => n | .nan => false
def Val.negate : Val → Val | .fin n q => .fin (!n) (qNeg q) | .inf n => .inf (!n) | .nan => .nan
def Val.abs : Val → Val | .fin _ q => .fin false (qAbs q) | .inf _ => .inf false | .nan => .nan

/-- The nf bits of R84. -/
def nfIV : Nat := 1
def nfDZ : Nat := 2
def nfOF : Nat := 4
def nfUF : Nat := 8
def nfIX : Nat := 16
def nfST : Nat := 32
def nfSP : Nat := 64
def nfNP : Nat := 128
def nfES : Nat := 256

/-- The fields of a format definition register (R57). -/
structure Fdr where
  kind : Nat
  w : Nat
  sgn : Bool
  /-- exponent width, or taper run limit h -/
  ew : Nat
  /-- mantissa width, or fraction width f -/
  mw : Nat
  bias : Int
  sub : Bool
  inf : Nat
  nan : Nat
  rnd : Nat
  ovf : Nat
  esc : Bool
  deriving DecidableEq, Repr

def fdrOf (x : Nat) : Fdr :=
  { kind := bits x 3 0, w := (if bits x 9 4 == 0 then 64 else bits x 9 4), sgn := bit x 10, ew := bits x 15 11,
    mw := bits x 21 16, bias := sext (bits x 37 22) 16, sub := bit x 38, inf := bits x 40 39, nan := bits x 43 41,
    rnd := bits x 46 44, ovf := bits x 48 47, esc := bit x 49 }

/-- The magnitude bits of a code. -/
def magBits (f : Fdr) : Nat := if f.sgn then f.w - 1 else f.w

/-- Largest finite magnitude code of kinds 0 and 1 (R63, R64). -/
def maxMag (f : Fdr) : Nat :=
  if f.kind == 1 then 2 ^ (f.w - 1) - 2
  else if f.nan == 1 || f.inf == 1 then (2 ^ f.ew - 1) * 2 ^ f.mw - 1
  else if f.nan == 2 || f.inf == 2 then 2 ^ (f.ew + f.mw) - 2
  else 2 ^ (f.ew + f.mw) - 1

/-- The run of equal leading bits of a taper magnitude (R64): the count, at most h. -/
def taperRun (v : Bool) (mag : Nat) : Nat → Nat → Nat → Nat
  | _, _, 0 => 0
  | m, n, h + 1 => match m with
    | 0 => n
    | m' + 1 => if bit mag m' == v then 1 + taperRun v mag m' n h else 0

/-- The decade exponent q and the fraction width t of a taper magnitude that is neither 0 nor all ones (R64). -/
def taperQT (f : Fdr) (mag : Nat) : Int × Nat :=
  let m := f.w - 1
  let h := f.ew
  let v := bit mag (m - 1)
  let n := taperRun v mag m 0 h
  let t := if n < h then m - 1 - n else m - h
  (if v then (n : Int) - 1 else -(n : Int), t)

/-- The value of a magnitude code of kind 0 or 1, special codes read as if the scale of codes went on. -/
def magVal (f : Fdr) (mag : Nat) : Q :=
  if f.kind == 1 then
    if mag == 0 then qOf 0
    else
      let (q, t) := taperQT f mag
      qMul (qMk ((2 ^ t + 9 * (mag % 2 ^ t) : Nat) : Int) (2 ^ t)) (qPow10 q)
  else
    let e := mag / 2 ^ f.mw
    let m := mag % 2 ^ f.mw
    if e == 0 then (if f.sub then qMul (qOf (m : Int)) (qPow2 (1 - f.bias - f.mw)) else qOf 0)
    else qMul (qOf ((2 ^ f.mw + m : Nat) : Int)) (qPow2 ((e : Int) - f.bias - f.mw))

/-- Largest finite value of kinds 0 and 1. -/
def vmax (f : Fdr) : Q := magVal f (maxMag f)

/-- The top ulp (R70): the distance to the next larger value. Where the largest value of a kind-0 slot has Etop = 0, the table's
power is half the distance that the sentence names; the model takes the distance (the model's choice, log 35). -/
def topUlp (f : Fdr) : Q :=
  if f.kind == 1 then
    let (q, t) := taperQT f (maxMag f)
    qMul (qMk 9 (2 ^ t)) (qPow10 q)
  else if f.kind == 0 then qSub (magVal f (maxMag f + 1)) (vmax f)
  else if f.kind == 4 then qPow2 (-(f.mw : Int)) else qOf 1

/-- Every finite non-zero value of a kind-0 slot is a binary64 value (R58): each is a multiple of the values looked at, the first
codes and the first with an odd last place. -/
def inBinary64 (f : Fdr) : Bool :=
  [1, 2 ^ f.mw, 2 ^ f.mw + 1].all (fun c => decide (maxMag f < c) || decide ((magVal f c).den ≤ 2 ^ 1074)) && qLt (vmax f) (qPow2 1024)

/-- The consistency rules of R58 on the 64 bits of a definition. -/
def fdrValid (x : Nat) : Bool :=
  let f := fdrOf x
  decide (f.rnd ≤ 5) && decide (f.ovf ≤ 2) && decide (f.inf ≤ 2) && decide (f.nan ≤ 3) && bits x 63 50 == 0
  && (!f.esc || ((f.kind == 0 || f.kind == 1) && f.sgn && f.nan != 3))
  && (if f.kind == 0 then
        f.w == b2n f.sgn + f.ew + f.mw && decide (2 ≤ f.w) && decide (1 ≤ f.ew) && decide (f.ew ≤ 11)
        && decide (f.mw ≤ 52)
        && ((f.inf == 1) == (f.nan == 1)) && (f.nan != 1 || decide (1 ≤ f.mw)) && (f.nan != 3 || f.sgn)
        && !(f.inf == 2 && f.nan == 2)
        && inBinary64 f
      else if f.kind == 1 then
        f.sgn && decide (3 ≤ f.w) && decide (f.w ≤ 32) && decide (2 ≤ f.ew) && decide (f.ew ≤ f.w - 1) && f.mw == 0
        && f.bias == 0 && !f.sub && f.inf == 2 && (f.nan == 0 || f.nan == 3)
      else if f.kind == 2 then
        f.sgn && decide (2 ≤ f.w) && f.ew == 0 && f.mw == 0 && f.bias == 0 && !f.sub && f.inf == 0 && f.nan == 0
      else if f.kind == 3 then
        !f.sgn && f.ew == 0 && f.mw == 0 && f.bias == 0 && !f.sub && f.inf == 0 && f.nan == 0
      else if f.kind == 4 then
        f.sgn && decide (2 ≤ f.w) && f.ew == 0 && f.bias == 0 && !f.sub && f.inf == 0 && f.nan == 0
      else false)

/-- The presets of R60. -/
def fdPresets : List Word :=
  [0x000002C01FD74600, 0x000002C003CA2D00, 0x000002C01FC74500, 0x0000044001C32480, 0x000002C003C22C80,
   0x0000070000003C81, 0x000002C0FFF45C00, 0x0000004000411440] ++ List.replicate 8 0

/-- Elements per register (R61). -/
def elems (f : Fdr) : Nat := 64 / f.w

/-- Element i of a register (R61). -/
def elemAt (w x i : Nat) : Nat := (x / 2 ^ (w * i)) % 2 ^ w

/-- A register made of elements, the bits above them 0 (R61). -/
def packElems (w : Nat) : List Nat → Nat
  | [] => 0
  | e :: es => e % 2 ^ w + 2 ^ w * packElems w es

/-- The smallest positive value below which an inexact result underflows (R73). A kind-0 slot with ew = 1 and nan = 1 has no
normal value: the model takes 2^(1 − bias) there too, and `roundMag` sets no UF for |x| above Vmax (the model's choice, log 35). -/
def ufBound (f : Fdr) : Q := if f.kind == 1 then magVal f 1 else qPow2 (1 - f.bias)

/-- Whether a code is subnormal in a slot with subnormals (R75). -/
def isSubnormal (f : Fdr) (code : Nat) : Bool :=
  f.kind == 0 && f.sub && (code % 2 ^ (f.ew + f.mw)) / 2 ^ f.mw == 0 && code % 2 ^ f.mw != 0

/-- A code with escape handling set aside: its value, and whether it is an escape (R63-R66). -/
def codeVal (f : Fdr) (code0 : Nat) : Val × Bool :=
  let code := code0 % 2 ^ f.w
  match f.kind with
  | 0 =>
    let mag := code % 2 ^ (f.ew + f.mw)
    let s := f.sgn && bit code (f.w - 1)
    let e := mag / 2 ^ f.mw
    let m := mag % 2 ^ f.mw
    let emax := 2 ^ f.ew - 1
    if f.nan == 1 && e == emax && m != 0 then (.nan, false)
    else if f.inf == 1 && e == emax && m == 0 then (.inf s, false)
    else if f.nan == 2 && mag == 2 ^ (f.ew + f.mw) - 1 then (.nan, false)
    else if f.inf == 2 && mag == 2 ^ (f.ew + f.mw) - 1 then (.inf s, false)
    else if f.nan == 3 && s && mag == 0 then (.nan, false)
    else if f.esc && s && mag == 0 then (.nan, true)
    else
      let q := magVal f mag
      (.fin s (if s then qNeg q else q), false)
  | 1 =>
    let mag := code % 2 ^ (f.w - 1)
    let s := bit code (f.w - 1)
    if mag == 0 then
      if s && f.nan == 3 then (.nan, false)
      else if s && f.esc then (.nan, true)
      else (.fin s (qOf 0), false)
    else if mag == 2 ^ (f.w - 1) - 1 then (.inf s, false)
    else
      let q := magVal f mag
      (.fin s (if s then qNeg q else q), false)
  | 2 => (valOf (qOf (sext code f.w)), false)
  | 3 => (valOf (qOf (code : Int)), false)
  | _ => (valOf (qMk (sext code f.w) (2 ^ f.mw)), false)

/-- An operand element read under flush-in (R75) and R205 step 2: its value and the nf bits of the read. -/
def readCode (f : Fdr) (fi : Bool) (code : Nat) : Val × Nat :=
  if fi && isSubnormal f (code % 2 ^ f.w) then (.fin (f.sgn && bit code (f.w - 1)) (qOf 0), 0)
  else match codeVal f code with
    | (v, true) => (v, nfES)
    | (v, false) => (v, 0)

/-- The sign bit of a code at its place, where the format has one. -/
def signCode (f : Fdr) (neg : Bool) : Nat := if neg && f.sgn then 2 ^ (f.w - 1) else 0

/-- The code of a zero of a sign: -0 only where the negative-zero code is a zero (R68, R211, R447). -/
def zeroCode (f : Fdr) (neg : Bool) : Nat :=
  if neg && f.sgn && (f.kind == 0 || f.kind == 1) && f.nan != 3 && !f.esc then 2 ^ (f.w - 1) else 0

/-- The canonical NaN (R67); none where the format has none. -/
def nanCode (f : Fdr) : Option Nat :=
  if f.kind ≤ 1 then
    if f.nan == 1 then some ((2 ^ f.ew - 1) * 2 ^ f.mw + 2 ^ (f.mw - 1))
    else if f.nan == 2 then some (2 ^ magBits f - 1)
    else if f.nan == 3 then some (2 ^ (f.w - 1))
    else none
  else none

/-- The code of an infinity; none where the format has none. -/
def infCode (f : Fdr) (neg : Bool) : Option Nat :=
  if f.kind == 1 then some (2 ^ (f.w - 1) - 1 + signCode f neg)
  else if f.kind == 0 then
    if f.inf == 1 then some ((2 ^ f.ew - 1) * 2 ^ f.mw + signCode f neg)
    else if f.inf == 2 then some (2 ^ (f.ew + f.mw) - 1 + signCode f neg)
    else none
  else none

/-- The largest magnitude code below 2^n, at or below a real of which only comparisons are known: bit by bit. -/
def searchMag (le : Nat → Bool) : Nat → Nat → Nat
  | 0, acc => acc
  | n + 1, acc => if le (acc + 2 ^ n) then searchMag le n (acc + 2 ^ n) else searchMag le n acc

/-- A magnitude that is known by comparison with rationals: `cmp q` compares it with q. -/
abbrev Mag := Q → Ordering

/-- The choice of R68 between adjacent magnitudes lo < |x| < hi: true for hi. `evenHi` says whether hi is the even
one at a half-way point. -/
def chooseHi (cmp : Mag) (neg : Bool) (mode u : Nat) (lo hi : Q) (evenHi : Bool) : Bool :=
  match mode with
  | 0 => match cmp (qMul (qAdd lo hi) (qMk 1 2)) with
    | .lt => false
    | .gt => true
    | .eq => evenHi
  | 1 => false
  | 2 => !neg
  | 3 => neg
  | 4 => cmp (qMul (qAdd lo hi) (qMk 1 2)) != .lt
  | _ =>
    let step := qMul (qSub hi lo) (qMk (u : Int) (2 ^ 32))
    if neg then cmp (qSub hi step) != .lt else cmp (qAdd lo step) == .gt

/-- An infinite or overflowed result of a sign under the overflow rule (R71): code and ST. Where the slot's only finite value is 0,
±Vmax is written as a zero result is: R71 does not say which of the codes of 0 it takes (the model's choice, log 26). -/
def infResult (f : Fdr) (neg : Bool) : Nat × Nat :=
  let top := if qIsZero (vmax f) then zeroCode f neg else maxMag f + signCode f neg
  if f.ovf == 0 then
    match infCode f neg with
    | some c => (c, 0)
    | none => match nanCode f with
      | some c => (c, 0)
      | none => (top, nfST)
  else (top, nfST)

/-- Kinds 0 and 1: a finite magnitude that is not 0, rounded as in a format that holds both signs (R68, R71, R73). The
result is the magnitude code (none: an overflow that R71 turns into `infResult`) and the flags. Of the codes of 0, Vmax among
them where the slot has no other finite value, it is code 0 (the model's choice, log 26). -/
def roundMag (f : Fdr) (cmp : Mag) (neg : Bool) (mode u : Nat) : Option Nat × Nat :=
  let top := maxMag f
  let lo0 := searchMag (fun c => decide (c ≤ top) && cmp (magVal f c) != .lt) (magBits f) 0
  let vlo := magVal f lo0
  let lo := if qIsZero vlo then 0 else lo0
  if cmp vlo == .eq then (some lo, 0)
  else
    let uf := if cmp (ufBound f) == .lt then nfUF else 0
    if lo0 < top then
      let hi := lo0 + 1
      let even := if lo == 0 then false else lo % 2 == 1
      if chooseHi cmp neg mode u vlo (magVal f hi) even then (some hi, nfIX + uf) else (some lo, nfIX + uf)
    else
      -- |x| > Vmax (R71)
      let beyond : Bool := match mode with
        | 1 => true
        | 2 => !neg
        | 3 => neg
        | _ => cmp (qAdd (vmax f) (qMul (topUlp f) (qMk 1 2))) != .lt
      if beyond then
        if mode == 1 then (some lo, nfOF + nfIX + nfST) else (none, nfOF + nfIX)
      else (some lo, nfIX)

/-- Kinds 2, 3 and 4: a finite magnitude rounded to a multiple of the step as if the range had no bounds, then put in
range (R72). -/
def roundFixed (f : Fdr) (cmp : Mag) (neg : Bool) (mode u : Nat) : Nat × Nat :=
  let scale : Int := if f.kind == 4 then -(f.mw : Int) else 0
  let at' (n : Nat) : Q := qMul (qOf (n : Int)) (qPow2 scale)
  let n := searchMag (fun c => cmp (at' c) != .lt) (f.w + 1) 0
  let exact := cmp (at' n) == .eq
  let r := if exact then n else if chooseHi cmp neg mode u (at' n) (at' (n + 1)) (n % 2 == 1) then n + 1 else n
  let hiMax := if f.sgn then 2 ^ (f.w - 1) - 1 else 2 ^ f.w - 1
  let loMax := if f.sgn then 2 ^ (f.w - 1) else 0
  let out := if neg then decide (loMax < r) else decide (hiMax < r)
  if out then
    (if neg then (if f.sgn then 2 ^ (f.w - 1) else 0) else hiMax, nfIX + (if f.ovf == 0 then nfIV else nfST))
  else ((if neg then (2 ^ f.w - r) % 2 ^ f.w else r), if exact then 0 else nfIX)

/-- Flush-out (R75) of a result code. -/
def flushOut (f : Fdr) (fo : Bool) (r : Nat × Nat) : Nat × Nat :=
  if fo && isSubnormal f r.1 then (zeroCode f (f.sgn && bit r.1 (f.w - 1)), r.2 ||| nfUF ||| nfIX) else r

/-- `round_to` of a non-zero finite real with a given magnitude and sign (R68-R73, R447). -/
def roundReal (f : Fdr) (cmp : Mag) (neg : Bool) (mode u : Nat) : Nat × Nat :=
  if 2 ≤ f.kind then roundFixed f cmp neg mode u
  else if neg && !f.sgn then
    let (c, fl) := roundMag f cmp true mode u
    -- a zero: the rounding's, or Vmax of a slot with no other finite value in place of an overflow
    if c == some 0 || (c.isNone && f.ovf != 0 && qIsZero (vmax f)) then (0, Nat.land fl (nfIX + nfUF))
    else (0, Nat.land fl nfUF + nfIX + (if f.ovf == 0 then nfIV else nfST))
  else
    match roundMag f cmp neg mode u with
    | (some 0, fl) => (zeroCode f neg, fl)
    | (some c, fl) => (c + signCode f neg, fl)
    | (none, fl) => let r := infResult f neg; (r.1, fl + r.2)

/-- `round_to(fd, x, mode)` of an exact value (R68-R73, R447): code and flags. -/
def roundVal (f : Fdr) (x : Val) (mode u : Nat) : Nat × Nat :=
  match x with
  | .nan =>
    if 2 ≤ f.kind then (0, nfIV)
    else if f.ovf == 1 then (0, nfIV)
    else match nanCode f with
      | some c => (c, 0)
      | none => (0, nfIV)
  | .inf neg =>
    if 2 ≤ f.kind then
      (if neg then (if f.sgn then 2 ^ (f.w - 1) else 0) else (if f.sgn then 2 ^ (f.w - 1) - 1 else 2 ^ f.w - 1),
        if f.ovf == 0 then nfIV else nfST)
    else if neg && !f.sgn then (0, if f.ovf == 0 then nfIV else nfST)
    else infResult f neg
  | .fin neg q =>
    if qIsZero q then (zeroCode f neg, 0)
    else roundReal f (qCmp (qAbs q)) (qNegative q) mode u

/-- Canonical write of a value that needs no rounding, as an instruction that does not round writes it (R205 step 4). -/
def writeVal (f : Fdr) (fo : Bool) (x : Val) : Nat × Nat := flushOut f fo (roundVal f x 0 0)

/-- The exact sum of values (R74, R81): a NaN, opposite infinities give NaN with IV where no term was NaN; a zero sum
takes its sign from the terms and the mode. -/
def sumVals (xs : List Val) (mode : Nat) : Val × Nat :=
  if xs.any Val.isNan then (.nan, 0)
  else
    let pos := xs.any (fun x => x == .inf false)
    let neg := xs.any (fun x => x == .inf true)
    if pos && neg then (.nan, nfIV)
    else if pos then (.inf false, 0)
    else if neg then (.inf true, 0)
    else
      let q := xs.foldl (fun a x => match x with | .fin _ q => qAdd a q | _ => a) (qOf 0)
      if qIsZero q then
        if xs.all (fun x => x.isZero && !x.neg) then (.fin false q, 0)
        else if xs.all (fun x => x.isZero && x.neg) then (.fin true q, 0)
        else (.fin (mode == 3) q, 0)
      else (valOf q, 0)

/-- The exact product (R206). -/
def mulVal (a b : Val) : Val × Nat :=
  match a, b with
  | .nan, _ => (.nan, 0)
  | _, .nan => (.nan, 0)
  | .inf s, .inf t => (.inf (s != t), 0)
  | .inf s, .fin t q => if qIsZero q then (.nan, nfIV) else (.inf (s != t), 0)
  | .fin s q, .inf t => if qIsZero q then (.nan, nfIV) else (.inf (s != t), 0)
  | .fin s p, .fin t q => (.fin (s != t) (qMul p q), 0)

/-- The exact quotient (R206); the second flag is DZ of R262, set where a non-zero value is divided by ±0. R206 has no row for
the sign of 0/x and x/∞ nor for ∞/x and ∞/0: the model takes the exclusive-or of the signs (log 35). -/
def divVal (a b : Val) : Val × Nat × Nat :=
  match a, b with
  | .nan, _ => (.nan, 0, 0)
  | _, .nan => (.nan, 0, 0)
  | .inf _, .inf _ => (.nan, nfIV, 0)
  | .inf s, .fin t q => (.inf (s != t), 0, if qIsZero q then nfDZ else 0)
  | .fin s _, .inf t => (.fin (s != t) (qOf 0), 0, 0)
  | .fin s p, .fin t q =>
    if qIsZero q then
      if qIsZero p then (.nan, nfIV, 0) else (.inf (s != t), 0, nfDZ)
    else (.fin (s != t) (qDiv p q), 0, 0)

/-- An operation's exact result: a value, or a real that is known by comparison (roots and the transcendentals). -/
inductive Exact
  | val (v : Val)
  | real (neg : Bool) (cmp : Mag)

def roundExact (f : Fdr) (x : Exact) (mode u : Nat) : Nat × Nat :=
  match x with
  | .val v => roundVal f v mode u
  | .real neg cmp => roundReal f cmp neg mode u

/-- The magnitude √q of a positive rational, by comparison of squares. -/
def sqrtMag (q : Q) : Mag := fun r => qCmp q (qMul r r)

/-- √x with the cases of R206. -/
def sqrtVal (x : Val) : Exact × Nat :=
  match x with
  | .nan => (.val .nan, 0)
  | .inf true => (.val .nan, nfIV)
  | .inf false => (.val (.inf false), 0)
  | .fin n q =>
    if qIsZero q then (.val (.fin n q), 0)
    else if n then (.val .nan, nfIV)
    else (.real false (sqrtMag q), 0)

/-- 1/√x with the cases of R206. -/
def rsqrtVal (x : Val) : Exact × Nat :=
  match x with
  | .nan => (.val .nan, 0)
  | .inf true => (.val .nan, nfIV)
  | .inf false => (.val (.fin false (qOf 0)), 0)
  | .fin n q =>
    if qIsZero q then (.val (.inf n), 0)
    else if n then (.val .nan, nfIV)
    else (.real false (sqrtMag (qDiv (qOf 1) q)), 0)

/-- The order of R211: −∞ < negative < −0 < +0 < positive < +∞; both operands are not NaN. -/
def valLt (a b : Val) : Bool :=
  match a, b with
  | .inf s, .inf t => s && !t
  | .inf s, _ => s
  | _, .inf t => !t
  | .fin s p, .fin t q => if qIsZero p && qIsZero q then s && !t else qLt p q
  | _, _ => false

/-- Numeric order: +0 equals −0 (R212). -/
def valNumCmp (a b : Val) : Ordering :=
  match a, b with
  | .inf s, .inf t => if s == t then .eq else if s then .lt else .gt
  | .inf s, _ => if s then .lt else .gt
  | _, .inf t => if t then .gt else .lt
  | .fin _ p, .fin _ q => qCmp p q
  | _, _ => .eq

/-- The lesser or greater of two values; `nanWins` for FMINP and FMAXP (R211). -/
def minmaxVal (greater nanWins : Bool) (a b : Val) : Val :=
  match a.isNan, b.isNan with
  | true, true => .nan
  | true, false => if nanWins then .nan else b
  | false, true => if nanWins then .nan else a
  | false, false => if greater then (if valLt a b then b else a) else (if valLt b a then b else a)

/-- The rounding mode under an override field (R204). -/
def modeOf (f : Fdr) (m : Nat) : Nat := if m == 0 then f.rnd else m - 1

/-- The pairwise tree of R80 over a list, with a combine that returns a code and flags; `n` bounds the levels. -/
def pairLevel (combine : Nat → Nat → Nat × Nat) : List Nat → List Nat × Nat
  | [] => ([], 0)
  | [x] => ([x], 0)
  | x :: y :: rest =>
    let (c, f) := combine x y
    let (r, g) := pairLevel combine rest
    (c :: r, f ||| g)

def pairTree (combine : Nat → Nat → Nat × Nat) : Nat → List Nat → Nat × Nat
  | 0, xs => (xs.headD 0, 0)
  | n + 1, xs =>
    match xs with
    | [] => (0, 0)
    | [x] => (x, 0)
    | _ =>
      let (ys, f) := pairLevel combine xs
      let (r, g) := pairTree combine n ys
      (r, f ||| g)

end Sys2Proof.Machine
end

