-- ==== Sys2Proof/Machine/Transcendental.lean ====
section
/-! DEFINITION. Exact results of FEXP2, FLOG2, FSIN and FCOS (spec 07 R206) and of ROTARY windows (03 R114): reals known
by comparison with rationals. A comparison refines a rational enclosure until it decides; every result that is not
rational is irrational, so it is never equal to the rational. The last precision decides sin and cos of the least binary64 value, the
closest case known; where it did not decide, the answer would be the opaque `Config.undecidedRounding` (log 14). -/
namespace Sys2Proof.Machine

/-- x · y in fixed point with n fraction bits, rounded down. -/
def fxMul (n : Nat) (x y : Int) : Int := (x * y) / ((2 ^ n : Nat) : Int)

/-- A rational in fixed point with n fraction bits, rounded down. -/
def fxOf (n : Nat) (q : Q) : Int := (q.num * ((2 ^ n : Nat) : Int)) / (q.den : Int)

/-- arctan(1/k) or artanh(1/k) in fixed point: the sum of `fuel` terms, with the power of 1/k and the odd number. -/
def arcSeries (alternate : Bool) (k : Nat) : Nat → Int → Nat → Bool → Int → Int
  | 0, _, _, _, acc => acc
  | fuel + 1, p, j, neg, acc =>
    let term := p / (j : Int)
    arcSeries alternate k fuel (p / ((k * k : Nat) : Int)) (j + 2) (!neg)
      (if alternate && neg then acc - term else acc + term)

/-- π with n fraction bits, within 8n + 64 units (Machin). -/
def fxPi (n : Nat) : Int :=
  let one : Int := ((2 ^ n : Nat) : Int)
  16 * arcSeries true 5 (n / 4 + 4) (one / 5) 1 false 0 - 4 * arcSeries true 239 (n / 15 + 4) (one / 239) 1 false 0

/-- ln 2 with n fraction bits, within 4n + 64 units: 2 artanh(1/3). -/
def fxLn2 (n : Nat) : Int :=
  let one : Int := ((2 ^ n : Nat) : Int)
  2 * arcSeries false 3 (n / 3 + 4) (one / 3) 1 false 0

/-- Σ x^j / j! over `fuel` terms from term `t` = x^j / j!, with every `stride`-th sign rule left to the caller. -/
def expSeries (n : Nat) (x : Int) : Nat → Nat → Int → Int → Int
  | 0, _, _, acc => acc
  | fuel + 1, j, t, acc => expSeries n x fuel (j + 1) (fxMul n t x / (j : Int)) (acc + t)

/-- e^x for |x| ≤ 1 in fixed point, within 4n + 64 units. -/
def fxExp (n : Nat) (x : Int) : Int := expSeries n x (n + 8) 1 ((2 ^ n : Nat) : Int) 0

/-- Alternating series of sin (first term x, j = 2) or cos (first term 1, j = 1) with x² in fixed point. -/
def trigSeries (n : Nat) (x2 : Int) : Nat → Nat → Int → Int → Int
  | 0, _, _, acc => acc
  | fuel + 1, j, t, acc =>
    trigSeries n x2 fuel (j + 2) (-(fxMul n t x2 / ((j * (j + 1) : Nat) : Int))) (acc + t)

def fxSin (n : Nat) (x : Int) : Int := trigSeries n (fxMul n x x) (n / 2 + 8) 2 x 0
def fxCos (n : Nat) (x : Int) : Int := trigSeries n (fxMul n x x) (n / 2 + 8) 1 ((2 ^ n : Nat) : Int) 0

/-- artanh z for |z| ≤ 1/3 in fixed point, within 4n + 64 units. -/
def artanhSeries (n : Nat) (z2 : Int) : Nat → Int → Nat → Int → Int
  | 0, _, _, acc => acc
  | fuel + 1, p, j, acc => artanhSeries n z2 fuel (fxMul n p z2) (j + 2) (acc + p / (j : Int))

/-- An enclosure: midpoint and radius in fixed point. -/
structure Encl where
  mid : Int
  rad : Nat
  deriving DecidableEq, Repr

/-- 2^x for a rational x that is not an integer: the fraction part's power, scaled by 2^floor(x) by the caller. -/
def enclExp2 (x : Q) (n : Nat) : Encl :=
  let f := qSub x (qOf (qFloor x))
  let y := fxMul n (fxOf n f) (fxLn2 n)
  ⟨fxExp n y, 32 * n + 512⟩

/-- log2 m for a rational 1 ≤ m < 2. -/
def enclLog2 (m : Q) (n : Nat) : Encl :=
  let z := fxOf n (qDiv (qSub m (qOf 1)) (qAdd m (qOf 1)))
  let l := 2 * artanhSeries n (fxMul n z z) (n / 3 + 8) z 1 0
  ⟨(l * ((2 ^ n : Nat) : Int)) / fxLn2 n, 64 * n + 1024⟩

/-- Quadrant and remainder of x by π/2: k mod 4, and r in fixed point; the working precision covers |x|. -/
def enclReduce (x : Q) (n : Nat) : Nat × Int :=
  let e := (max 0 (qLog2 x + 2)).toNat
  let big := n + e + 8
  let half := fxPi big / 2
  let xi := fxOf big x
  let k := (xi + half / 2) / half
  ((k % 4).toNat, (xi - k * half) / ((2 ^ (e + 8) : Nat) : Int))

/-- sin x or cos x of a rational x that is not 0. -/
def enclTrig (cosine : Bool) (x : Q) (n : Nat) : Encl :=
  let (k0, r) := enclReduce x n
  let k := if cosine then (k0 + 1) % 4 else k0
  let v := match k with
    | 0 => fxSin n r
    | 1 => fxCos n r
    | 2 => -(fxSin n r)
    | _ => -(fxCos n r)
  ⟨v, 64 * n + 4096⟩

/-- The precisions tried, in order. -/
def precisions : List Nat := [96, 192, 384, 768, 1600, 3600]

/-- Compares a real, given by enclosures, with a rational that it does not equal. -/
def enclCmp (encl : Nat → Encl) (tag : Nat) (r : Q) : List Nat → Ordering
  | [] => if Config.undecidedRounding tag r.num.natAbs r.den % 2 == 0 then .lt else .gt
  | n :: rest =>
    let e := encl n
    let y := fxOf n r
    if y + 1 < e.mid - (e.rad : Int) then .gt
    else if e.mid + (e.rad : Int) < y then .lt
    else enclCmp encl tag r rest

/-- The sign of a real that is not 0. -/
def enclNeg (encl : Nat → Encl) (tag : Nat) : Bool := enclCmp encl tag (qOf 0) precisions == .lt

/-- The magnitude of a real given by enclosures. -/
def enclMag (encl : Nat → Encl) (tag : Nat) (neg : Bool) : Mag := fun r =>
  if qLe r (qOf 0) then .gt
  else if neg then (match enclCmp encl tag (qNeg r) precisions with | .lt => .gt | .gt => .lt | .eq => .eq)
  else enclCmp encl tag r precisions

def scaleMag (m : Mag) (s : Q) : Mag := fun r => m (qDiv r s)

/-- 2^x of a finite rational. -/
def exp2Q (x : Q) : Exact :=
  if x.den == 1 then
    -- results far outside every format behave as one that is just as far
    let e := max (-3000) (min 3000 x.num)
    .val (.fin false (qPow2 e))
  else
    let fl := max (-3000) (min 3000 (qFloor x))
    .real false (scaleMag (enclMag (enclExp2 x) 1 false) (qPow2 fl))

/-- log2 of a positive rational. -/
def log2Q (x : Q) : Exact :=
  let e := qLog2 x
  let m := qDiv x (qPow2 e)
  if qCmp m (qOf 1) == .eq then .val (valOf (qOf e))
  else
    let encl := fun n => let r := enclLog2 m n; (⟨r.mid + e * ((2 ^ n : Nat) : Int), r.rad⟩ : Encl)
    let neg := decide (e < 0)
    .real neg (enclMag encl 2 neg)

/-- sin or cos of a rational that is not 0. -/
def trigQ (cosine : Bool) (x : Q) : Exact :=
  let encl := enclTrig cosine x
  let neg := enclNeg encl 3
  .real neg (enclMag encl 3 neg)

/-- FEXP2 (R206). -/
def exp2Val (x : Val) : Exact × Nat :=
  match x with
  | .nan => (.val .nan, 0)
  | .inf true => (.val (.fin false (qOf 0)), 0)
  | .inf false => (.val (.inf false), 0)
  | .fin _ q => (exp2Q q, 0)

/-- FLOG2 (R206). -/
def log2Val (x : Val) : Exact × Nat :=
  match x with
  | .nan => (.val .nan, 0)
  | .inf true => (.val .nan, nfIV)
  | .inf false => (.val (.inf false), 0)
  | .fin _ q =>
    if qIsZero q then (.val (.inf true), 0)
    else if qNegative q then (.val .nan, nfIV)
    else (log2Q q, 0)

/-- FSIN and FCOS (R206). -/
def trigVal (cosine : Bool) (x : Val) : Exact × Nat :=
  match x with
  | .nan => (.val .nan, 0)
  | .inf _ => (.val .nan, nfIV)
  | .fin n q =>
    if qIsZero q then (.val (if cosine then .fin false (qOf 1) else .fin n q), 0)
    else (trigQ cosine q, 0)

end Sys2Proof.Machine
end

