-- ==== Sys2Proof/Machine/Streams.lean ====
section
/-! DEFINITION. SOW-128 (spec 03 R117), CRC-32C (02 R85), packed streams (03 R108) and the computed bytes of Furrow
windows (03 R111-R114). -/
namespace Sys2Proof.Machine

/-- The ten rounds of SOW-128 on counter words c0-c3 and key words k0, k1 (R117). -/
def sowRounds : Nat → Nat → Nat → Nat → Nat → Nat → Nat → Nat × Nat × Nat × Nat
  | 0, c0, c1, c2, c3, _, _ => (c0, c1, c2, c3)
  | n + 1, c0, c1, c2, c3, k0, k1 =>
    let m := 2 ^ 32
    let x := 0xC3A59D27 * c1
    let y := 0xA2F16B4D * c3
    sowRounds n (y % m) ((c2 + x / m + k0) % m) (x % m) ((c0 + y / m + k1) % m)
      ((k0 + 0x8E1D2C59) % m) ((k1 + 0xD36B4A87) % m)

/-- SOW-128 of a counter whose words are the element index E mod 2^64, c2 and c3, under a 64-bit key (R118). -/
def sow (e c2 c3 key : Nat) : Nat × Nat × Nat × Nat :=
  let m := 2 ^ 32
  sowRounds 10 (e % m) (e / m % m) (c2 % m) (c3 % m) (key % m) (key / m % m)

/-- The number u that stochastic rounding draws (R69). -/
def sowDraw (e c2 c3 key : Nat) : Nat := (sow (e % 2 ^ 64) c2 c3 key).1

/-- One byte into a reflected CRC-32C. -/
def crcBits : Nat → Nat → Nat
  | 0, r => r
  | n + 1, r => crcBits n (if r % 2 == 1 then Nat.xor (r / 2) 0x82F63B78 else r / 2)

/-- CRC-32C (R85): polynomial 0x1EDC6F41 reflected, initial value and final XOR of all ones. -/
def crc32c (bs : List Byte) : Nat :=
  Nat.xor (bs.foldl (fun r b => crcBits 8 (Nat.xor r b.toNat)) 0xFFFFFFFF) 0xFFFFFFFF

/-- n bits of a packed stream from stream bit s; `get` gives byte j of the stream (R108). -/
def streamBits (get : Nat → Byte) (s n : Nat) : Nat :=
  let first := s / 8
  let last := (s + n - 1) / 8
  if n == 0 then 0
  else ofBytes ((List.range (last + 1 - first)).map (fun j => get (first + j))) / 2 ^ (s % 8) % 2 ^ n

/-- The bytes of a list as a stream. -/
def listByte (bs : List Byte) (j : Nat) : Byte := bs.getD j 0

/-- Fields of a window descriptor (R111). -/
def wdBase (d : Nat) : Nat := bits d 55 0
def wdLen (d : Nat) : Nat := bits d 103 64
def wdSpol (d : Nat) : Bool := bit d 123
def wdKind (d : Nat) : Nat := bits d 127 124
def wdPar (d i : Nat) : Nat := bits d (191 + 64 * i) (128 + 64 * i)
def wdFmt (d : Nat) : Nat := bits d 511 448

/-- binary64 (preset fd6). -/
def fdBinary64 : Fdr := fdrOf 0x000002C0FFF45C00
def fdBinary32 : Fdr := fdrOf 0x000002C01FD74600

/-- The rational value of a finite binary64 code. -/
def q64 (x : Nat) : Q := match (codeVal fdBinary64 x).1 with | .fin _ q => q | _ => qOf 0

def finite64 (x : Nat) : Bool := match (codeVal fdBinary64 x).1 with | .fin _ _ => true | _ => false

/-- The code of element e of a window of kind 1-3 (R114). An f_k beyond the largest binary64 value is +∞, as fd6 rounds it, and
its sine and cosine are NaN (the model's choice, log 35). -/
def windowElem (d e : Nat) : Nat :=
  let f := fdrOf (wdFmt d)
  let p0 := wdPar d 0
  let p1 := wdPar d 1
  let p2 := wdPar d 2
  match wdKind d with
  | 1 =>
    let a := (codeVal fdBinary64 p0).1
    let t := mulVal (codeVal fdBinary64 p1).1 (valOf (qOf (e : Int)))
    (roundVal f (sumVals [a, t.1] f.rnd).1 f.rnd 0).1
  | 2 =>
    let pitch := bits p0 31 0
    let off := sext (bits p0 63 32) 32
    if ((e % pitch : Nat) : Int) ≤ (e / pitch : Nat) + off then p1 % 2 ^ f.w else p2 % 2 ^ f.w
  | _ =>
    let dd := bits p1 15 0
    let halves := bit p1 16
    let p := bits p2 31 0 + e / dd
    let c := e % dd
    let k := if halves then c % (dd / 2) else c / 2
    let cosine := if halves then decide (c < dd / 2) else c % 2 == 0
    let lam := q64 p0
    let fk := (roundExact fdBinary64 (exp2Q (qNeg (qDiv (qMul lam (qOf ((2 * k : Nat) : Int))) (qOf (dd : Int))))) 0 0).1
    let x := (mulVal (valOf (qOf (p : Int))) (codeVal fdBinary64 fk).1).1
    (roundExact f (trigVal cosine x).1 f.rnd 0).1

/-- Byte j of a window's contents (R114). -/
def windowByte (d j : Nat) : Byte :=
  if wdKind d == 4 then
    let e := j / 16
    let idx := (wdPar d 2 + e) % 2 ^ 64
    let (o0, o1, o2, o3) := sow idx (bits (wdPar d 1) 31 0) (bits (wdPar d 1) 63 32) (wdPar d 0)
    BitVec.ofNat 8 ((o0 + 2 ^ 32 * o1 + 2 ^ 64 * o2 + 2 ^ 96 * o3) / 2 ^ (8 * (j % 16)))
  else
    let w := (fdrOf (wdFmt d)).w
    -- the elements that touch byte j: from 8j / w to (8j + 7) / w
    let e0 := 8 * j / w
    let n := (8 * j + 7) / w + 1 - e0
    let bitsOf := packElems w ((List.range n).map (fun i => windowElem d (e0 + i)))
    BitVec.ofNat 8 (bitsOf / 2 ^ (8 * j - w * e0))

/-- The window descriptor whose range holds a virtual address (R113 forbids overlap). -/
def findWindow (wds : List (BitVec 512)) (va : Nat) : Option Nat :=
  (wds.map BitVec.toNat).find? (fun d => wdKind d != 0 && decide (wdBase d ≤ va) && decide (va < wdBase d + wdLen d))

/-- The checks of R113 on a new descriptor, against the other descriptors of the context. -/
def windowOk (d : Nat) (others : List (BitVec 512)) : Bool :=
  let k := wdKind d
  let f := fdrOf (wdFmt d)
  decide (k ≤ 4) && bits d 447 384 == 0 && bits d 122 104 == 0 && bits d 63 56 == 0
  && (k == 0 ||
      (wdBase d % 4096 == 0 && wdLen d != 0 && wdLen d % 4096 == 0 && decide (wdBase d + wdLen d ≤ 2 ^ 56)
       && others.all (fun o => let o := o.toNat
            wdKind o == 0 || decide (wdBase o + wdLen o ≤ wdBase d) || decide (wdBase d + wdLen d ≤ wdBase o))
       && (k == 4 || (fdrValid (wdFmt d) && f.rnd != 5))
       && (match k with
           | 1 => finite64 (wdPar d 0) && finite64 (wdPar d 1) && wdPar d 2 == 0 && wdPar d 3 == 0
           | 2 => bits (wdPar d 0) 31 0 != 0 && decide (wdPar d 1 < 2 ^ f.w) && decide (wdPar d 2 < 2 ^ f.w)
                  && wdPar d 3 == 0
           | 3 => finite64 (wdPar d 0) && bits (wdPar d 1) 15 0 != 0 && bits (wdPar d 1) 15 0 % 2 == 0
                  && bits (wdPar d 1) 63 17 == 0 && bits (wdPar d 2) 63 32 == 0 && wdPar d 3 == 0
           | _ => wdPar d 3 == 0 && wdFmt d == 0)))

end Sys2Proof.Machine
end

