-- ==== Sys2Proof/Machine/Basic.lean ====
section
/-! DEFINITION. The named places of the state: teams, groups, threads, cores and contexts found and updated, the
registers in the unified store (spec 03 R94-R97), control-aperture words, free values. -/
namespace Sys2Proof.Machine

/-- The elements that p accepts, updated by f. -/
def updIf {α : Type} (p : α → Bool) (f : α → α) (xs : List α) : List α := xs.map (fun x => if p x then f x else x)

def FaultCode.num : FaultCode → Nat
  | .translation => 0x01 | .instructionFetch => 0x02 | .illegalLength => 0x03 | .illegalInstruction => 0x04
  | .registerRange => 0x05 | .format => 0x06 | .address => 0x07 | .localRange => 0x08 | .alignment => 0x09
  | .memoryType => 0x0A | .windowStore => 0x0B | .windowSet => 0x0C | .poison => 0x0D | .codeHandle => 0x0E
  | .frameLimit => 0x0F | .windowDivergence => 0x10 | .crossLaneMember => 0x11 | .regroupContinuation => 0x12
  | .barrierScope => 0x13 | .barrierOverrun => 0x14 | .unhandledTrap => 0x15 | .trapState => 0x16
  | .breakpoint => 0x17 | .copyDescriptor => 0x18 | .copy => 0x19 | .tileCheck => 0x1A | .deque => 0x1B
  | .crossTeamAtomic => 0x1C | .determinismGuard => 0x1D | .matrixParameter => 0x1E | .headlandSubset => 0x1F
  | .watchdog => 0x20

/-- The fault that a code of R365 names. -/
def faultOfNum (n : Nat) : Option FaultCode :=
  [FaultCode.translation, .instructionFetch, .illegalLength, .illegalInstruction, .registerRange, .format, .address,
   .localRange, .alignment, .memoryType, .windowStore, .windowSet, .poison, .codeHandle, .frameLimit,
   .windowDivergence, .crossLaneMember, .regroupContinuation, .barrierScope, .barrierOverrun, .unhandledTrap,
   .trapState, .breakpoint, .copyDescriptor, .copy, .tileCheck, .deque, .crossTeamAtomic, .determinismGuard,
   .matrixParameter, .headlandSubset, .watchdog].find? (fun c => c.num == n)

/-- A free value of the machine (log 7). -/
def draw (s : State) : Word × State := (Config.freeWord s.fresh, { s with fresh := s.fresh + 1 })

/-- A cycle count read now (R191 s.cyc, R352; log 7). -/
def drawCycles (s : State) : Word × State := (Config.cycles s.fresh, { s with fresh := s.fresh + 1 })

def team? (s : State) (uid : Nat) : Option Team := s.teams.find? (fun t => t.uid == uid)
def modTeam (s : State) (uid : Nat) (f : Team → Team) : State :=
  { s with teams := updIf (fun t => t.uid == uid) f s.teams }
def grp? (t : Team) (g : Nat) : Option Group := t.groups.find? (fun x => x.idx == g)
def group? (s : State) (w : Where) : Option Group := (team? s w.uid).bind (fun t => grp? t w.group)
def modGrp (g : Nat) (f : Group → Group) (t : Team) : Team := { t with groups := updIf (fun x => x.idx == g) f t.groups }
def modGroup (s : State) (w : Where) (f : Group → Group) : State := modTeam s w.uid (modGrp w.group f)
def thread? (s : State) (w : Where) (lane : Nat) : Option Thread := (group? s w).bind (fun g => g.threads[lane]?)
def modThr (lane : Nat) (f : Thread → Thread) (g : Group) : Group := { g with threads := g.threads.modify lane f }
def modThread (s : State) (w : Where) (lane : Nat) (f : Thread → Thread) : State := modGroup s w (modThr lane f)
def modThreads (s : State) (w : Where) (lanes : List Nat) (f : Thread → Thread) : State :=
  lanes.foldl (fun s l => modThread s w l f) s
def ctx? (s : State) (id : Nat) : Option Ctx := s.ctxs.find? (fun c => c.id == id)
def modCtx (s : State) (id : Nat) (f : Ctx → Ctx) : State := { s with ctxs := updIf (fun c => c.id == id) f s.ctxs }

/-- A core that holds nothing (R25). -/
def emptyCore (die site : Nat) : Core :=
  { die := die, site := site, dirty := [], clean := [], icache := [], codes := [], queues := List.replicate 8 [],
    wp := List.replicate 4 (0, none), smu := [], lingering := [], running := none, patchGen := 0 }
def core (s : State) (die site : Nat) : Core :=
  match s.cores.find? (fun c => c.die == die && c.site == site) with
  | some c => c
  | none => { emptyCore die site with patchGen := s.patchGen }
def modCore (s : State) (die site : Nat) (f : Core → Core) : State :=
  if s.cores.any (fun c => c.die == die && c.site == site) then
    { s with cores := updIf (fun c => c.die == die && c.site == site) f s.cores }
  else { s with cores := f { emptyCore die site with patchGen := s.patchGen } :: s.cores }

/-- The image and enables of a patch configuration: the current one, or an earlier one that a core still runs under. -/
def patchCfg (s : State) (gen : Nat) : Option Patch × BitVec 16 :=
  if gen == s.patchGen then (s.patch, s.regs.patchEn)
  else match s.patchCfgs.find? (fun c => c.gen == gen) with
    | some c => (c.image, c.en)
    | none => (none, 0)

/-- The image that the emulation thread of an I/O die runs (R395). -/
def emuImage (s : State) (iod : Nat) : Option Patch :=
  match s.emuQ.find? (fun r => r.iod == iod && r.running) with
  | some r => (patchCfg s r.gen).1
  | none => none

/-- Ring rows A of a kernel (R94). -/
def ringRows (k : Kern) : Nat := 8 * ((k.f + 7) / 8) + k.w
/-- Bytes of a group's register block (R96). -/
def blockBytes (k : Kern) : Nat := 512 + 256 * ringRows k
/-- Uniform base UB of group g (R96). -/
def ubase (k : Kern) (g : Nat) : Nat := 0x800000 + g * blockBytes k
/-- Local address of vN of a lane (R95). -/
def vAddr (k : Kern) (g : Group) (lane n : Nat) : Nat :=
  ubase k g.idx + 512 + 256 * ((g.o + n) % ringRows k) + 8 * lane
/-- Local address of gN (R95). -/
def gAddr (k : Kern) (g n : Nat) : Nat := ubase k g + 8 * n
def readV (t : Team) (g : Group) (lane n : Nat) : Nat := t.lmem.readN (vAddr t.kern g lane n) 8
def readG (t : Team) (g : Group) (n : Nat) : Nat := t.lmem.readN (gAddr t.kern g.idx n) 8

/-- An 8-byte local write clears the poison of its word (R380). -/
def lwrite8 (t : Team) (addr v : Nat) : Team :=
  { t with lmem := t.lmem.writeN addr 8 v, lpoison := t.lpoison.filter (fun p => p != addr / 8) }
/-- vN of a lane under a ring offset (R95). -/
def writeVAt (s : State) (w : Where) (lane o n v : Nat) : State :=
  modTeam s w.uid (fun t => match grp? t w.group with
    | some g => lwrite8 t (vAddr t.kern { g with o := o } lane n) v
    | none => t)
def writeV (s : State) (w : Where) (lane n v : Nat) : State :=
  modTeam s w.uid (fun t => match grp? t w.group with
    | some g => lwrite8 t (vAddr t.kern g lane n) v
    | none => t)
def writeG (s : State) (w : Where) (n v : Nat) : State :=
  modTeam s w.uid (fun t => lwrite8 t (gAddr t.kern w.group n) v)

/-- Predicate n of a thread; p0 is constant true (R154). -/
def predOf (th : Thread) (n : Nat) : Bool := n == 0 || bit th.p.toNat n
/-- A write of a predicate; a write to p0 is discarded (R175). -/
def setPred (n : Nat) (b : Bool) (th : Thread) : Thread :=
  if n == 0 then th else { th with p := BitVec.ofNat 8 (setBits th.p.toNat n n (b2n b)) }
/-- nf bits are only set (R84). -/
def orNf (x : Nat) (th : Thread) : Thread := { th with nf := th.nf ||| BitVec.ofNat 9 x }

/-- A thread at its start (R25). -/
def threadStart (pc : Nat) (cid : Nat) : Thread :=
  { pc := BitVec.ofNat 64 pc, p := 1, nf := 0, smst := 0, sx := 0, tpc := 0, tcause := 0, intrap := false,
    cid := BitVec.ofNat 24 cid, status := .running, idle := 0, arr := 0, anw := 0, voided := 0, last := 0, late := [],
    linkFails := 0, linkVa := 0, linkReq := 0, watch := none, recent := [], slot := none, parked := false, ready := 0, gen := 0 }

/-- A lane with no thread counts as an ended thread (R37). -/
def threadNone : Thread := { threadStart 0 0 with status := .ended }

def groupStart (idx : Nat) (threads : List Thread) (bsb bsl : Nat) : Group :=
  { idx := idx, threads := threads, o := 0, res := 0, bsb := BitVec.ofNat 64 bsb, bsl := BitVec.ofNat 64 bsl,
    bsp := BitVec.ofNat 64 bsb, frec := List.replicate 8 0, stopped := false, parked := none, also := [], ops := [], nextOp := 0,
    started := false, argsRead := false, tokenWait := none, tokenHeld := 0 }

def barrier0 : Barrier := { phase := false, count := 0, flags := 0, result := 0, x := 0, y := 0 }
def resv0 : Resv := { valid := false, glen := 0, fslot := 0, eofs := 0, sofs := 0, nrows := 0, base := 0 }
def tile0 : Tile := { bound := false, tf := 0, cells := [], poison := [] }

/-- A thread is live until it ends; a deposited thread is live (R36). -/
def alive (th : Thread) : Bool := th.status != .ended
def liveLanes (g : Group) : List Nat := (List.range g.threads.length).filter (fun l => match g.threads[l]? with
  | some th => alive th
  | none => false)
def teamEnded (t : Team) : Bool := t.harrow.isEmpty && t.groups.all (fun g => g.threads.all (fun th => !alive th))

/-- The writer that a thread is (R142): threads of grids carry an identity, queue programs do not (R143); emulation code
carries that of the lowest requesting lane (R394), which its container keeps as a rank. -/
def writerOf (t : Team) (g lane : Nat) : Writer :=
  match t.role with
  | .patch _ => { uid := t.uid, group := t.rank / 32, lane := t.rank % 32, ctx := t.ctx, acc := t.acc, cix := t.cix, k := t.k, graded := true }
  | r => { uid := t.uid, group := g, lane := lane, ctx := t.ctx, acc := t.acc, cix := t.cix, k := t.k, graded := r == .compute }

/-- Identities in the order of R142. -/
def writerKey (w : Writer) : List Nat := [w.acc, w.cix, w.k, w.group, w.lane]
def listLt : List Nat → List Nat → Bool
  | x :: xs, y :: ys => decide (x < y) || (x == y && listLt xs ys)
  | _, _ => false

/-- A control-aperture word (R406): offset of an 8-byte word. -/
def ctlGet (s : State) (off : Nat) : Nat :=
  match s.regs.ctl.find? (fun p => p.1 == off) with
  | some p => p.2.toNat
  | none => 0
def ctlSet (s : State) (off v : Nat) : State :=
  let rest := s.regs.ctl.filter (fun p => p.1 != off)
  { s with regs := { s.regs with ctl := if v % 2 ^ 64 == 0 then rest else (off, BitVec.ofNat 64 v) :: rest } }

/-- Queue records (R332); a queue that was never touched has the reset record. -/
def queue0 (q : Nat) : QueueRec :=
  { q := q, prio := 0, flt := false, run := false, state := 0, ctx := 0, pc := 0, fpc := 0, fcode := 0 }
def queueRec (s : State) (q : Nat) : QueueRec :=
  match s.queues.find? (fun r => r.q == q) with
  | some r => r
  | none => queue0 q
def modQueue (s : State) (q : Nat) (f : QueueRec → QueueRec) : State :=
  if s.queues.any (fun r => r.q == q) then { s with queues := updIf (fun r => r.q == q) f s.queues }
  else { s with queues := f (queue0 q) :: s.queues }

/-- A fresh order number. -/
def tickUp (s : State) : Nat × State := (s.tick, { s with tick := s.tick + 1 })
def reqUp (s : State) : Nat × State := (s.nextReq, { s with nextReq := s.nextReq + 1 })

/-- The container of nothing: what an agent with no thread, or with one that is gone, has sent out. No team has its number. -/
def noWhere : Where := { uid := 999, group := 0 }

/-- The sender of completion words (R258): no team has its number. -/
def completionWhere : Where := { uid := 998, group := 0 }

/-- The kernel record that a queue program or an emulation thread runs under (R331, R395). -/
def flatKern (f s : Nat) : Kern :=
  { f := f, w := 0, ngroups := 1, s := s, t := 0, cw := 1, ch := 1, gmap := [], stash := [], bars := 0xFFFF, raw := [] }

/-- A container of one thread. -/
def soloTeam (uid : Nat) (role : Role) (ctx die site f ssize : Nat) : Team :=
  { uid := uid, role := role, ctx := ctx, acc := 0, cix := 0, k := 0, cls := 0, kind := 0, rank := 0,
    cluster := (0, 0, 0), gdim := (0, 0, 0), die := die, site := site, kern := flatKern f ssize, args := 0, bsa := 0,
    bsz := 0, lmem := [], lpoison := [], stash := [], stashValid := [], stashDirty := [],
    tbs := List.replicate 16 barrier0, cbs := List.replicate 8 barrier0, resv := List.replicate 8 resv0,
    tiles := List.replicate 16 tile0, mq := [], harrow := [], harrowCont := none, harrowClosed := false,
    groups := [{ groupStart 0 [threadNone] 0 0 with started := true, argsRead := true }], lost := false }

end Sys2Proof.Machine
end

