-- ==== Sys2Proof/Machine/Access.lean ====
section
/-! DEFINITION. Addresses and bytes: physical targets (spec 16 R400), translation (14 R353-R359), the order of the checks
of an access (08 R225, 03 R89, 16 R401), the performance of stores in a core and at their homes (04 R122-R138, R143),
watched words (06 R198, R199), poison and error logs (14 R369, R377-R379), local space and stash (03 R87, R99-R104). -/
namespace Sys2Proof.Machine

/-- What a physical address reaches (R400). -/
inductive Target
  | hbm
  | host (io : Nat)
  | ualink (peer : Nat)
  | none
  deriving DecidableEq, Repr

def inHbm (pa : Nat) : Bool := decide (pa < 2 ^ 40)

def targetOf (s : State) (pa : Nat) : Target :=
  if inHbm pa then .hbm
  else if pa / 2 ^ 48 == 8 then .host 0
  else if pa / 2 ^ 48 == 9 then (if s.regs.io1mode == 0 then .none else .host 1)
  else if 12 ≤ pa / 2 ^ 48 && decide (pa < 2 ^ 52) then .ualink (bits pa 49 40)
  else .none

/-- The port that carries a UALink request of a context (R419); none is an address fault. -/
def ualinkPort (s : State) (det : Bool) (pa : Nat) : Option Nat :=
  if !bit (ctlGet s 0x700000) 16 then none
  else
    let peer := bits pa 49 40
    let word := ctlGet s (0x701000 + 8 * (4 * peer / 8))
    let entry := if peer % 2 == 0 then bits word 31 0 else bits word 63 32
    let pmask := bits entry 15 0
    let up (p : Nat) : Bool := bit pmask p && (match s.regs.ports[p]? with | some x => x.up | none => false)
    if det then (let p := bits entry 19 16; if up p then some p else none)
    else
      let ups := (List.range 16).filter up
      ups[(pa / 256) % (max 1 ups.length)]?

/-- Home die of a physical HBM address (R91, R360). -/
def homeDie (s : State) (pa : Nat) : Nat :=
  let e := match s.regs.regions.find? (fun r => r.1 == pa / 2 ^ 30) with
    | some r => r.2
    | none => 0
  match e % 4 with
  | 0 => (3 * (pa / 2048)) % 8
  | 1 => (3 * (pa / 65536)) % 8
  | _ => e / 4 % 8

/-- Sector h (0 or 1) of a word with poison is poisoned: some byte of it has not been stored since (R377). -/
def halfPoisoned (p : PoisonWord) (h : Nat) : Bool := bits p.stored (16 * h + 15) (16 * h) != 0xFFFF
/-- A 16-byte sector, by address / 16, at its home: poisoned, with whether an SRAM error is the cause (R364). -/
def sectorPoison (s : State) (sec : Nat) : Option Bool :=
  match s.poison.find? (fun p => p.word == sec / 2) with
  | some p => if halfPoisoned p (sec % 2) then some p.sram else none
  | none => none
/-- The sectors that a range touches. -/
def sectorsOf (pa n : Nat) : List Nat := (List.range ((pa + n - 1) / 16 + 1 - pa / 16)).map (fun i => pa / 16 + i)
/-- Some byte of a range lies in a poisoned sector: whether an SRAM error is the cause. -/
def poisonAt (s : State) (pa n : Nat) : Option Bool :=
  if s.poison.isEmpty || n == 0 then none else (sectorsOf pa n).findSome? (sectorPoison s)
/-- Some byte of a range lies in a poisoned sector. -/
def poisoned (s : State) (pa n : Nat) : Bool := (poisonAt s pa n).isSome
/-- The poison fault of a range at the homes: detail bit [0] for an SRAM error (R364), word 3 the address (R379). -/
def poisonFault (s : State) (pa n va : Nat) : FaultInfo :=
  { code := .poison, detail := if poisonAt s pa n == some true then 1 else 0, data := va }

/-- A page that a walk found (R354). -/
structure Leaf where
  base : Nat
  va : Nat
  size : Nat
  pte : Nat
  deriving DecidableEq, Repr

/-- Index range of each level (R353). -/
def levelBits : Nat → Nat × Nat
  | 4 => (55, 48)
  | 3 => (47, 39)
  | 2 => (38, 30)
  | 1 => (29, 21)
  | _ => (20, 12)

/-- The walk from a table downward (R353-R355): the leaf, or the detail bit of the first condition met. -/
def walkLevels (s : State) (va : Nat) : List Nat → Nat → Except Nat Leaf
  | [], _ => .error 2
  | l :: rest, table =>
    if !inHbm table then .error 2
    else
      let (hi, lo) := levelBits l
      let ea := table + 8 * bits va hi lo
      if poisoned s ea 8 then .error 8
      else
        let e := s.home.readN ea 8
        let addr := bits e 51 12 * 4096
        if !bit e 0 then .error 1
        else if bits e 63 52 != 0 || bits e 11 10 != 0 || bit e 2 || (bit e 3 && l != 0) then .error 2
        else if bit e 1 then
          let size := match l with
            | 2 => 2 ^ 30
            | 1 => 2 ^ 21
            | _ => if bit e 3 then 2 ^ 16 else 2 ^ 12
          if 3 ≤ l || addr % size != 0 then .error 2
          else .ok { base := addr, va := va / size * size, size := size, pte := e }
        else if l == 0 || bits e 9 3 != 0 then .error 2
        else walkLevels s va rest addr

/-- The translation of an address: kept from an earlier walk (R357), or walked now. -/
def leafOf (s : State) (c : Ctx) (va : Nat) : Except Nat Leaf :=
  match s.kept.find? (fun k => k.ctx == c.id && decide (k.va ≤ va) && decide (va < k.va + k.size)) with
  | some k => .ok { base := bits k.leaf 51 12 * 4096, va := k.va, size := k.size, pte := k.leaf }
  | none => walkLevels s va [4, 3, 2, 1, 0] c.ptroot

/-- The kinds of access that the checks of R225, R89, R355 and R401 tell apart. -/
inductive Acc
  | load
  | store
  | mxLoad
  | mxStore
  | atomic (k : AtomKind)
  | red (k : AtomKind)
  | atomrd
  | deque
  | monitor
  | park
  | stashLoad
  | stashStore
  /-- backing-store rows: NORMAL pages only (R190) -/
  | frameLoad
  | frameStore
  | cdisc
  | cwb
  | fetch
  deriving DecidableEq, Repr

/-- Accesses that need the r right of their page. CDISC and CWB ask for no right: R355's table does not list them (the
model's choice, log 35). -/
def Acc.reads : Acc → Bool
  | .store | .mxStore | .stashStore | .frameStore | .fetch | .cdisc | .cwb => false
  | _ => true
def Acc.writes : Acc → Bool
  | .store | .mxStore | .stashStore | .frameStore | .atomic _ | .red _ | .atomrd | .deque => true
  | _ => false
/-- Window rule: operations that a window refuses whatever spol says (R115). -/
def Acc.syncs : Acc → Bool
  | .atomic _ | .red _ | .atomrd | .deque => true
  | _ => false

/-- Where an access lands. -/
inductive Loc
  /-- byte `off` of the window with this descriptor -/
  | win (d off : Nat)
  /-- a physical address on a page of this type: 0 NORMAL, 1 WCOMB, 2 DEVICE, 3 STRONG -/
  | mem (pa ty : Nat)
  deriving DecidableEq, Repr

/-- Whether a page type and target allow an access (R89, R190, R198, R199, R228, R401). -/
def typeAllows (acc : Acc) (ty : Nat) (t : Target) : Bool :=
  let hbm := t == .hbm
  let device := 2 ≤ ty
  match acc with
  | .load | .store | .fetch | .cwb => true
  | .mxLoad | .mxStore | .stashLoad | .stashStore | .frameLoad | .frameStore => ty == 0 && (hbm || acc == .frameLoad || acc == .frameStore)
  | .atomic k | .red k => !device && (match t with
      | .host _ => k == .add || (acc == .atomic k && (k == .xchg || k == .cas))
      | .ualink _ => k != .fadd && k != .fmin && k != .fmax
      | _ => true)
  | .atomrd => !device && hbm
  | .deque => decide (ty ≤ 1) && hbm
  | .monitor => decide (ty ≤ 1) && hbm
  | .park => ty == 0 && hbm
  | .cdisc => ty == 0

/-- Translation with the right that the access needs (R355); the detail bits of the fault. -/
def translate (s : State) (c : Ctx) (va : Nat) (acc : Acc) : Except FaultInfo Leaf :=
  let fetch := acc == .fetch
  let bad (d : Nat) : FaultInfo :=
    { code := if fetch then .instructionFetch else .translation,
      detail := d + (if acc.writes then 16 else 0) + (if fetch then 32 else 0), data := va }
  match leafOf s c va with
  | .error d => .error (bad d)
  | .ok l =>
    if (acc.reads && !bit l.pte 4) || (acc.writes && !bit l.pte 5) || (fetch && !bit l.pte 6) then .error (bad 4)
    else .ok l

/-- Steps 4 to 6 of R225 for a run of bytes that does not cross a 4 KiB boundary. -/
def locate (s : State) (c : Ctx) (va : Nat) (acc : Acc) : Except FaultInfo Loc :=
  match findWindow c.wd va with
  | some d =>
    if acc == .fetch then .error { code := .instructionFetch, data := va }
    else if acc == .monitor || acc == .park then .error { code := .memoryType, data := va }
    else if acc.syncs || (acc.writes && wdSpol d) then .error { code := .windowStore, data := va }
    else .ok (.win d (va - wdBase d))
  | none =>
    match translate s c va acc with
    | .error f => .error f
    | .ok l =>
      let pa := l.base + (va - l.va)
      let t := targetOf s pa
      let ty := bits l.pte 8 7
      let unreached := match t with
        | .none => true
        | .ualink _ => (ualinkPort s c.det pa).isNone
        | _ => false
      if acc == .fetch then
        if t == .hbm then .ok (.mem pa ty) else .error { code := .instructionFetch, data := va }
      else if unreached then .error { code := .address, data := va }
      else if !typeAllows acc ty t then .error { code := .memoryType, data := va }
      else .ok (.mem pa ty)

/-- Steps 1, 3 and 4 to 6 of R225 for an aligned access of n bytes in the global space. -/
def checkGlobal (s : State) (c : Ctx) (va n : Nat) (acc : Acc) : Except FaultInfo Loc :=
  if 2 ^ 56 ≤ va then .error { code := .address, data := va }
  else if va % n != 0 then .error { code := .alignment, data := va }
  else
    match locate s c va acc with
    | .ok (.mem pa ty) =>
      if acc.writes && acc != .deque && s.deques.any (fun d => d.1 == pa / 128) && !acc.syncs then
        .error { code := .memoryType, data := va }                  -- a marked header line (R239)
      else .ok (.mem pa ty)
    | r => r

/-- A comparison of WAITMEM and SETP on values of a type (R179). -/
def compareCc (cc : Nat) (a b : Int) : Bool :=
  match cc with
  | 0 => a == b
  | 1 => a != b
  | 2 => decide (a < b)
  | 3 => decide (a ≤ b)
  | 4 => decide (b < a)
  | _ => decide (b ≤ a)

/-- Width of an integer type code (R158). -/
def tyWidth (t : Nat) : Nat := 64 / 2 ^ (t % 4)
def tySigned (t : Nat) : Bool := decide (t < 4)
/-- An operand read under an integer type (R174). -/
def tyRead (t x : Nat) : Int := if tySigned t then sext x (tyWidth t) else ((x % 2 ^ tyWidth t : Nat) : Int)
/-- A result written under an integer type, extended to 64 bits (R174). -/
def tyWrite (t : Nat) (y : Int) : Nat :=
  let r := ofInt (tyWidth t) y
  if tySigned t then ofInt 64 (sext r (tyWidth t)) else r

/-- A store performed at the home of some bytes: threads that watch them see the new value (R198, R199). -/
def wakeWatch (m : Mem) (pas : List Nat) (w : Watch) : Watch :=
  match w with
  | .word pa size ty cc cmp dst next none =>
    if pas.any (fun p => decide (pa ≤ p) && decide (p < pa + size)) then
      let v := m.readN pa size
      if compareCc cc (tyRead ty v) (tyRead ty cmp) then .word pa size ty cc cmp dst next (some v) else w
    else w
  | .parked ps false => if pas.any (fun p => ps.contains p) then .parked ps true else w
  | _ => w

/-- A gate's word shows its awaited value (R341). -/
def gateShows (m : Mem) (pas : List Nat) (w : Option (Nat × Nat)) : Bool :=
  match w with
  | some (pa, v) => pas.any (fun p => decide (pa ≤ p) && decide (p < pa + 4)) && m.readN pa 4 == v
  | none => false

/-- Gates that watch a word pass their predecessor when a store to it shows the value (R258, R341). -/
def wakeGates (s : State) (pas : List Nat) : State :=
  if s.ctxs.any (fun x => x.launches.any (fun l => l.watch0.isSome || l.watch1.isSome)) then
    { s with ctxs := s.ctxs.map (fun x => { x with launches := x.launches.map (fun l =>
        { l with pass0 := l.pass0 || gateShows s.home pas l.watch0, pass1 := l.pass1 || gateShows s.home pas l.watch1 }) }) }
  else s

def wakeAll (s : State) (pas : List Nat) : State :=
  let s := wakeGates s pas
  if s.teams.any (fun t => t.groups.any (fun g => g.threads.any (fun th => th.watch.isSome))) then
    { s with teams := s.teams.map (fun t => { t with groups := t.groups.map (fun g =>
        { g with threads := g.threads.map (fun th => { th with watch := th.watch.map (wakeWatch s.home pas) }) }) }) }
  else s

/-- A byte is stored at a home: a word with poison holds it as readable, and is due to be written back (R377, R378). -/
def poisonStore (ctx : Option Nat) (p : List PoisonWord) (pa : Nat) : List PoisonWord :=
  (p.map (fun x => if x.word == pa / 32 then
      { x with stored := setBits x.stored (pa % 32) (pa % 32) 1, writer := some ctx } else x)).filter
    (fun x => x.stored != 0xFFFFFFFF)

/-- Granules stored raw after a store through a page: raw when its compressible bit is 0 (R90). -/
def setForm (s : State) (raw : Bool) (pas : List Nat) : State :=
  let gs := (pas.map (· / 512)).eraseDups
  if raw then { s with rawGranules := gs.filter (fun g => !s.rawGranules.contains g) ++ s.rawGranules }
  else if s.rawGranules.isEmpty then s
  else { s with rawGranules := s.rawGranules.filter (fun g => !gs.contains g) }

/-- The same where the bytes of one event came through pages that differ in the bit: each byte under its own (R90). -/
def setForms (s : State) (raw : Nat → Bool) (pas : List Nat) : State :=
  setForm (setForm s false (pas.filter (fun p => !raw p))) true (pas.filter raw)

/-- The page of an address has its compressible bit at 0 (R90, R354). -/
def pageRaw (s : State) (c : Ctx) (va : Nat) : Bool :=
  match leafOf s c va with
  | .ok l => !bit l.pte 9
  | .error _ => false

/-- The device writes n bytes at a home itself: rings, indices, images, completion words. -/
def deviceWrite (s : State) (pa n v : Nat) : State :=
  let pas := (List.range n).map (fun i => pa + i)
  wakeAll { s with home := s.home.writeN pa n v, poison := pas.foldl (poisonStore none) s.poison } pas

/-- The 32-byte record of an error log (R369). -/
def errorRecord (addr info cyc ctx kind die : Nat) : Nat :=
  addr * 2 ^ 192 + info * 2 ^ 128 + cyc * 2 ^ 64 + ctx * 2 ^ 48 + kind * 2 ^ 40 + die * 2 ^ 36

/-- Raises an interrupt vector of a function (R411): function 0 is the physical function, v + 1 virtual function v. A
masked vector keeps a pending bit. -/
def msi (s : State) (fn vec : Nat) : State :=
  if s.regs.msixMask.contains (fn, vec) then
    if s.regs.msixPend.contains (fn, vec) then s else { s with regs := { s.regs with msixPend := (fn, vec) :: s.regs.msixPend } }
  else { s with msix := s.msix ++ [(fn, vec)] }

/-- Writes a record into the device log, or drops it (R369). -/
def deviceLog (s : State) (rcd : Nat) : State :=
  let base := bits (ctlGet s 0x400900) 55 0
  let len := bits (ctlGet s 0x400908) 31 0
  let rd := bits (ctlGet s 0x400910) 63 32
  if len == 0 then s
  else if (s.regs.devwr - BitVec.ofNat 32 rd).toNat == len || !inHbm (base + 32 * (s.regs.devwr.toNat % len)) then
    { s with regs := { s.regs with devdrop := if s.regs.devdrop.toNat == 2 ^ 32 - 1 then s.regs.devdrop else s.regs.devdrop + 1 } }
  else
    let s := deviceWrite s (base + 32 * (s.regs.devwr.toNat % len)) 32 rcd
    msi { s with regs := { s.regs with devwr := s.regs.devwr + 1 } } 0 0

/-- Physical address of a context's descriptor (R361). -/
def ctxDesc (s : State) (id : Nat) : Nat := bits (ctlGet s 0x400000) 55 0 + 256 * id

/-- Logs an error in the context's log and in the device log (R369). -/
def logError (s : State) (ctx : Option Nat) (kind addr info die : Nat) : State :=
  let (cyc, s) := drawCycles s
  let rcd := errorRecord addr info cyc.toNat (ctx.getD 0xFFFF) kind die
  let s := match ctx.bind (ctx? s) with
    | some c =>
      let elrd := s.home.readN (ctxDesc s c.id + 68) 4
      if kind == 1 || kind == 6 || c.ellen == 0 then s
      else if (c.elwr - BitVec.ofNat 32 elrd).toNat == c.ellen then s
      else
        let s := deviceWrite s (c.elbase + 32 * (c.elwr.toNat % c.ellen)) 32 rcd
        let s := modCtx s c.id (fun c => { c with elwr := c.elwr + 1 })
        deviceWrite s (ctxDesc s c.id + 64) 4 (c.elwr.toNat + 1)
    | none => s
  deviceLog s rcd

/-- An error record whose location the manual does not give: a free value (log 7). -/
def logLocated (s : State) (ctx : Option Nat) (kind pa die : Nat) : State :=
  let (info, s) := draw s
  logError s ctx kind pa info.toNat die

/-- The last-writer rule of R143: whether a store to a byte is accepted; an accepted graded store sets the tag. -/
def tagCheck (s : State) (pa : Nat) (w : Option Writer) : Bool × State :=
  match w with
  | none => (true, s)
  | some w =>
    match ctx? s w.ctx with
    | none => (true, s)
    | some c =>
      if !c.det || !w.graded then (true, s)
      else
        match c.tags.find? (fun t => t.1 == pa) with
        | some t =>
          if listLt (writerKey w) (writerKey t.2) then (false, s)
          else (true, modCtx s c.id (fun c => { c with tags := (pa, w) :: c.tags.filter (fun t => t.1 != pa) }))
        | none => (true, modCtx s c.id (fun c => { c with tags := (pa, w) :: c.tags }))

/-- Bits of a byte replaced under a mask (R230). -/
def maskByte (old new mask : Byte) : Byte := (old &&& ~~~mask) ||| (new &&& mask)

/-- One store performed at its home or target (R122, R124): bytes with their masks, in one event. `w`: the thread whose
store it is, for the rule of R143; `ctx`: the context that a failed write-back names, none for the device (R378). -/
def homeStoreFor (s : State) (unit : List (Nat × Byte × Byte)) (w : Option Writer) (ctx : Option Nat) : State :=
  let s' := unit.foldl (fun s u =>
    let (ok, s) := tagCheck s u.1 w
    if ok then { s with home := s.home.set u.1 (maskByte (s.home.get u.1) u.2.1 u.2.2),
                        poison := if s.poison.isEmpty then [] else poisonStore ctx s.poison u.1 }
    else s) s
  wakeAll s' (unit.map (·.1))

/-- A store of a thread, or of an agent outside. -/
def homeStore (s : State) (unit : List (Nat × Byte × Byte)) (w : Option Writer) : State :=
  homeStoreFor s unit w (w.map (·.ctx))

/-- Consecutive bytes with full masks. -/
def fullUnit (pa : Nat) (bs : List Byte) : List (Nat × Byte × Byte) := bs.zipIdx.map (fun p => (pa + p.2, p.1, 0xFF))

/-- A byte as a core's threads see it over a base value (R123): its own stores in core order. -/
def overlay (ds : List Dirty) (pa : Nat) (b : Byte) : Byte :=
  ds.foldl (fun b d => if d.pa == pa then maskByte b d.byte d.mask else b) b

/-- A line as its home has it now: its bytes and its poisoned sectors (R377). -/
def homeLine (s : State) (line : Nat) : CacheLine :=
  { line := line, bytes := s.home.readList (128 * line) 128,
    bad := (List.range 8).filterMap (fun i => (sectorPoison s (8 * line + i)).map (fun x => (8 * line + i, x))) }

/-- The copy through which a core reads a line of a page type: its own copy of a NORMAL line, else the home's. -/
def lineFor (s : State) (c : Core) (ty line : Nat) : CacheLine :=
  match (if ty == 0 then c.clean.find? (fun e => e.line == line) else none) with
  | some e => e
  | none => homeLine s line

/-- The lines that a range touches. -/
def linesOf (pa n : Nat) : List Nat := (List.range ((pa + n - 1) / 128 + 1 - pa / 128)).map (fun i => pa / 128 + i)

/-- The poison that a load by a thread of a core meets (R377): a sector of the copy it reads, unless the core has stored
all 16 of its bytes. -/
def loadPoison (s : State) (die site ty pa n : Nat) : Option Bool :=
  if 2 ≤ ty then poisonAt s pa n
  else
    let c := core s die site
    if (s.poison.isEmpty && c.clean.all (fun e => e.bad.isEmpty)) || n == 0 then none
    else (sectorsOf pa n).findSome? (fun x =>
      match (lineFor s c ty (x / 8)).bad.find? (fun b => b.1 == x) with
      | some b => if (List.range 16).all (fun i => c.dirty.any (fun d => d.pa == 16 * x + i && d.mask == 0xFF)) then none else some b.2
      | none => none)

/-- The addresses that stand or fall together with some: those of the stores that cover one of them (R110, R123). -/
def closePas (ds : List Dirty) : Nat → List Nat → List Nat
  | 0, pas => pas
  | n + 1, pas =>
    let sids := ((ds.filter (fun d => pas.contains d.pa)).map (·.sid)).eraseDups
    let more := ((ds.filter (fun d => sids.contains d.sid && !pas.contains d.pa)).map (·.pa)).eraseDups
    if more.isEmpty then pas else closePas ds n (pas ++ more)

/-- A core's copies after bytes at some addresses have been performed at their homes by the core itself: their lines as
the homes have them at that moment, whole, so that a copy is still one moment of its line (R109, R122, R123). -/
def refreshClean (s : State) (pas : List Nat) (c : Core) : Core :=
  { c with clean := c.clean.map (fun e => if pas.any (fun p => p / 128 == e.line) then homeLine s e.line else e) }

/-- Performs at home, in core order, every dirty byte of the core at an address where some byte satisfies p (R124), with
the whole of each store that one of them belongs to (R109, R110). -/
def performWhere (s : State) (die site : Nat) (p : Dirty → Bool) : State :=
  let c := core s die site
  let pas := closePas c.dirty c.dirty.length (((c.dirty.filter p).map (·.pa)).eraseDups)
  if pas.isEmpty then s
  else
    let sel := c.dirty.filter (fun d => pas.contains d.pa)
    let s := modCore s die site (fun c => { c with dirty := c.dirty.filter (fun d => !pas.contains d.pa) })
    let sids := (sel.map (·.sid)).eraseDups
    let s := sids.foldl (fun s sid =>
      let unit := sel.filter (fun d => d.sid == sid)
      setForms (homeStore s (unit.map (fun d => (d.pa, d.byte, d.mask))) (unit.head?.map (·.w)))
        (fun p => unit.any (fun d => d.pa == p && d.raw)) (unit.map (·.pa))) s
    if c.clean.isEmpty then s else modCore s die site (refreshClean s pas)

/-- An uncached access leaves no copy of its lines in the core; on a DEVICE or STRONG page the core's own bytes there are
performed first, for R122 where one address is mapped twice. -/
def uncache (s : State) (die site : Nat) (perform : Bool) (pa n : Nat) : State :=
  let c := core s die site
  let touches (x : Nat) : Bool := decide (pa ≤ x) && decide (x < pa + n)
  let s := if perform && c.dirty.any (fun d => touches d.pa) then performWhere s die site (fun d => touches d.pa) else s
  if c.clean.any (fun e => (linesOf pa n).contains e.line) then
    modCore s die site (fun c => { c with clean := c.clean.filter (fun e => !(linesOf pa n).contains e.line) })
  else s

/-- The bytes of a load from HBM by a thread of a core (R128): dirty bytes, cached copies of NORMAL lines, the home. A line
is taken from one moment (R109). -/
def loadHbm (s : State) (die site ty pa n : Nat) : List Byte × State :=
  if n == 0 then ([], s)
  else
    let s := if ty == 0 then s else uncache s die site (decide (2 ≤ ty)) pa n
    let c := core s die site
    let bs := (List.range n).map (fun i => overlay c.dirty (pa + i) ((lineFor s c ty ((pa + i) / 128)).bytes.getD ((pa + i) % 128) 0))
    let missing := if ty == 0 then (linesOf pa n).filter (fun x => !c.clean.any (fun e => e.line == x)) else []
    (bs, if missing.isEmpty then s else modCore s die site (fun c => { c with clean := c.clean ++ missing.map (homeLine s) }))

/-- The stores of a core that a store by w overwrites whole: every byte of theirs, each the newest at its address, is covered
by it. They need not be performed on their own, and no store loses one byte of several (R109, R110). -/
def overwritten (ds : List Dirty) (w : Writer) (unit : List (Nat × Byte × Byte)) : List Nat :=
  let covered (d : Dirty) : Bool := d.w == w && !d.nt && unit.any (fun u => u.1 == d.pa && u.2.2 == 0xFF)
    && (ds.filter (fun x => x.pa == d.pa)).getLast? == some d
  ((ds.filter covered).map (·.sid)).eraseDups.filter (fun sid => ds.all (fun d => d.sid != sid || covered d))

/-- A store by a thread of a core to HBM (R123, R124, R136-R138): NORMAL and WCOMB bytes stay in the core, DEVICE and
STRONG bytes are performed at once. `raw`: by address, the page's compressible bit is 0 (R90). A non-temporal store keeps
its number until it is performed (R136). -/
def storeHbm (s : State) (die site ty : Nat) (w : Writer) (nt : Bool) (raw : Nat → Bool) (unit : List (Nat × Byte × Byte)) : State :=
  if 2 ≤ ty then
    homeStore (unit.foldl (fun s u => uncache s die site true u.1 1) s) unit (some w)
  else
    let (sid, s) := tickUp s
    modCore s die site (fun c =>
      let gone := if nt then [] else overwritten c.dirty w unit
      { c with dirty := c.dirty.filter (fun d => !gone.contains d.sid) ++ unit.map (fun u =>
          { pa := u.1, byte := u.2.1, mask := u.2.2, sid := sid, w := w, nt := nt, comb := ty == 1, raw := raw u.1 }) })

/-- The core performs its own bytes in the poisoned sectors of a range: a sector all of whose bytes it has stored meets no
poison any more (R377). -/
def cleanSectors (s : State) (die site pa n : Nat) : State :=
  if poisoned s pa n then performWhere s die site (fun d => (sectorsOf pa n).contains (d.pa / 16)) else s

/-- A release at cluster scope or wider performs every store of the core but undrained non-temporal ones (R126). -/
def performAll (s : State) (die site : Nat) : State := performWhere s die site (fun d => !d.nt)

/-- An acquire at cluster scope or wider applies the queued invalidations (R127): copies of lines that the homes hold
otherwise go, since a store has been performed there and its invalidation waits. A copy that equals its home may stay:
no load can tell. -/
def dropClean (s : State) (die site : Nat) : State :=
  if (core s die site).clean.isEmpty then s
  else modCore s die site (fun c => { c with clean := c.clean.filter (fun e => e == homeLine s e.line) })

/-- The port of an outbound request of a context: PCIe ports 16 and 17, UALink ports 0-15 (R402, R419). -/
def linkPort (s : State) (x : Ctx) (pa : Nat) : Nat :=
  match targetOf s pa with
  | .host io => 16 + io
  | _ => (ualinkPort s x.det pa).getD 0

/-- A request waits at its port for room: 1,024 outstanding on UALink (R416), 4,096 non-posted on PCIe (R404), those that came
to the port before it among them. -/
def waitsRoom (s : State) (r : OutReq) : Bool :=
  let before := s.outReqs.filter (fun q => q.port == r.port && decide (q.id < r.id))
  if r.port < 16 then decide (1024 ≤ before.length)
  else (!r.posted || r.atomic.isSome) && decide (4096 ≤ (before.filter (fun q => !q.posted || q.atomic.isSome)).length)

/-- The bytes of a load that the checks have passed: `links` lists the positions a link target must answer (R402). -/
def loadLoc (s : State) (die site va n : Nat) (l : Loc) : Except FaultInfo (List Byte × List (Nat × Nat) × State) :=
  match l with
  | .win d off => .ok ((List.range n).map (fun i => windowByte d (off + i)), [], s)
  | .mem pa ty =>
    match targetOf s pa with
    | .hbm =>
      (match loadPoison s die site ty pa n with
       | some sram => .error { code := .poison, detail := b2n sram, data := va }
       | none => let (bs, s) := loadHbm s die site ty pa n; .ok (bs, [], s))
    | _ => .ok (List.replicate n 0, (List.range n).map (fun i => (i, pa + i)), s)

/-- Runs of bytes that do not cross a 16-byte sector: start offset and length. -/
def sectorRuns : Nat → Nat → Nat → List (Nat × Nat)
  | 0, _, _ => []
  | fuel + 1, va, n =>
    if n == 0 then []
    else
      let k := min n (16 - va % 16)
      (va, k) :: sectorRuns fuel (va + k) (n - k)

/-- A load of n bytes at any alignment, sector by sector, each checked under R225 (packed streams R229, descriptors): poison in
one sector decides before a translation fault in the next (the model's choice, log 35). -/
def loadBytes (s : State) (c : Ctx) (die site va n : Nat) (acc : Acc) : Except FaultInfo (List Byte × List (Nat × Nat) × State) :=
  if 2 ^ 56 ≤ va || 2 ^ 56 < va + n then .error { code := .address, data := va }
  else
    (sectorRuns (n / 16 + 2) va n).foldl (fun r run =>
      match r with
      | .error f => .error f
      | .ok (bs, ls, s) =>
        match locate s c run.1 acc with
        | .error f => .error f
        | .ok l =>
          match loadLoc s die site run.1 run.2 l with
          | .error f => .error f
          | .ok (b, lk, s) => .ok (bs ++ b, ls ++ lk.map (fun p => (p.1 + bs.length, p.2)), s)) (.ok ([], [], s))

/-- The accelerator id of the package (R417). -/
def ownAid (s : State) : Nat := bits (ctlGet s 0x700000) 9 0

/-- An inbound window admits n bytes for a kind of access of a peer (R420): 0 read, 1 write, 2 atomic. -/
def admitted (s : State) (peer pa n kind : Nat) : Bool :=
  (List.range 64).any (fun e =>
    let w := ctlGet s (0x702000 + 32 * e)
    let base := ctlGet s (0x702008 + 32 * e)
    let len := ctlGet s (0x702010 + 32 * e)
    len != 0 && decide (base ≤ pa) && decide (pa + n ≤ base + len) && (bit w 11 || bits w 9 0 == peer) && bit w (12 + kind))

/-- The package's own HBM address that a UALink address under its own accelerator id comes back to (R417). -/
def loopPa (s : State) (pa : Nat) : Option Nat :=
  if 12 ≤ pa / 2 ^ 48 && decide (pa < 2 ^ 52) && bits pa 49 40 == ownAid s then some (pa % 2 ^ 40) else none

/-- The byte that the target of a link holds. -/
def targetByte (s : State) (pa : Nat) : Byte := s.home.get ((loopPa s pa).getD pa)

/-- How the target of a link answers a read of a byte: with data, or with a failure or poison (true) (R403, R417, R420). -/
def targetFails (s : State) (pa : Nat) : Option Bool :=
  match s.linkFaults.find? (fun b => b.1 == pa / 16) with
  | some b => some b.2
  | none =>
    match loopPa s pa with
    | some q => if !admitted s (ownAid s) q 1 0 then some false else if poisoned s q 1 then some true else none
    | none => none

/-- A load whose link bytes are taken from their targets at once (descriptors, argument words, backing rows): a target
that answers with a failure or with poison makes it fault (R403). -/
def loadNow (s : State) (c : Ctx) (die site va n : Nat) (acc : Acc) : Except FaultInfo (List Byte × State) :=
  match loadBytes s c die site va n acc with
  | .error f => .error f
  | .ok (bs, ls, s) =>
    match ls.findSome? (fun l => (targetFails s l.2).map (fun b => (l, b))) with
    | some (l, poison) => .error { code := if poison then .poison else .address, data := va + l.1, port := some (linkPort s c l.2) }
    | none => .ok (bs.zipIdx.map (fun p => match ls.find? (fun l => l.1 == p.2) with
      | some l => targetByte s l.2
      | none => p.1), s)

/-- The places of a store of n bytes at any alignment, each checked under R225. -/
def storeLocs (s : State) (c : Ctx) (va n : Nat) (acc : Acc) : Except FaultInfo (List (Nat × Nat × Loc)) :=
  if 2 ^ 56 ≤ va || 2 ^ 56 < va + n then .error { code := .address, data := va }
  else
    (sectorRuns (n / 16 + 2) va n).foldl (fun r run =>
      match r with
      | .error f => .error f
      | .ok ls =>
        match locate s c run.1 acc with
        | .error f => .error f
        | .ok (.mem pa ty) =>
          if s.deques.any (fun d => d.1 == pa / 128) then .error { code := .memoryType, data := run.1 }
          else .ok (ls ++ [(run.1, run.2, .mem pa ty)])
        | .ok l => .ok (ls ++ [(run.1, run.2, l)])) (.ok [])

/-- The MOB byte that a local address names: range, row, byte (R104). -/
def mobOf (addr : Nat) : Option (Nat × Nat × Nat) :=
  if 0x1000000 ≤ addr && decide (addr < 0x2000000) then
    some ((addr - 0x1000000) / 0x200000, (addr % 0x200000) / 64, addr % 64)
  else none

/-- The team whose scratchpad a cluster-scratch address names, with the offset (R99). -/
def clusterOwner (s : State) (t : Team) (addr : Nat) : Option (Team × Nat) :=
  if addr < 0x2000000 then none
  else
    let k := (addr - 0x2000000) / 0x200000
    let off := addr % 0x200000
    match s.teams.find? (fun u => u.role == .compute && u.ctx == t.ctx && u.acc == t.acc && u.cix == t.cix && u.k == k) with
    | some u => if decide (off < u.kern.s) && decide (k < t.kern.cw * t.kern.ch) && !teamEnded u then some (u, off) else none
    | none => none

/-- Whether a local byte lies in a range that the team holds (R87; R331 and R395 for the one-thread containers). -/
def localHeld (s : State) (t : Team) (store : Bool) (addr : Nat) : Bool :=
  match t.role with
  | .queue _ => decide (addr < 4096)
  | .patch iod => decide (addr < 0x2000) || (!store && decide (0x100000 ≤ addr)
      && decide (addr < 0x100000 + (match emuImage s iod with | some p => p.data.length | none => 0)))
  | .compute =>
    decide (addr < t.kern.s)
    || (decide (0x400000 ≤ addr) && decide (addr < 0x400000 + t.kern.t))
    || (decide (0x800000 ≤ addr) && decide (addr < 0x800000 + t.kern.ngroups * blockBytes t.kern))
    || (match mobOf addr with
        | some (m, i, _) => (match t.resv[m]? with | some r => r.valid && decide (i < r.nrows) | none => false)
        | none => false)
    || (clusterOwner s t addr).isSome

/-- The stash entry and global address of a local stash byte; none where no entry covers it (R100). -/
def stashMap (t : Team) (addr : Nat) : Option Nat :=
  if decide (0x400000 ≤ addr) && decide (addr < 0x800000) then
    let sec := (addr - 0x400000) / 16
    match t.stash.find? (fun e => e.valid && decide (e.loff ≤ sec) && decide (sec < e.loff + e.nsec)) with
    | some e => some (e.gva + 16 * (sec - e.loff) + addr % 16)
    | none => none
  else none

/-- A read of a stash sector that is not valid fills it: clean bytes from the mapped address (R101). -/
def stashFill (s : State) (c : Ctx) (uid addr : Nat) : Except FaultInfo State :=
  match team? s uid with
  | none => .ok s
  | some t =>
    match stashMap t (addr / 16 * 16) with
    | none => .ok s
    | some gva =>
      if t.stashValid.contains (addr / 16) then .ok s
      else
        match loadNow s c t.die t.site gva 16 .stashLoad with
        | .error f => .error f
        | .ok (bs, s) =>
          .ok (modTeam s uid (fun t => { t with
            lmem := bs.zipIdx.foldl (fun m b =>
              let a := addr / 16 * 16 + b.2
              if t.stashDirty.any (fun d => d.1 == a) then m else m.set a b.1) t.lmem,
            stashValid := addr / 16 :: t.stashValid }))

/-- A local load (R87, R97, R99, R101, R104): the checks, then the bytes. -/
def localLoad (s : State) (c : Ctx) (uid addr n align : Nat) : Except FaultInfo (List Byte × State) :=
  match team? s uid with
  | none => .ok ([], s)
  | some t =>
    if decide (2 ^ 32 ≤ addr) || !(List.range n).all (fun i => localHeld s t false (addr + i)) then
      .error { code := .localRange, data := addr }
    else if addr % align != 0 then .error { code := .alignment, data := addr }
    else if t.lpoison.any (fun p => decide (addr / 8 ≤ p) && decide (p ≤ (addr + n - 1) / 8)) then
      .error { code := .poison, detail := 1, data := addr }
    else
      match clusterOwner s t addr with
      | some (u, off) =>
        if u.lpoison.any (fun p => decide (off / 8 ≤ p) && decide (p ≤ (off + n - 1) / 8)) then
          .error { code := .poison, detail := 1, data := addr }
        else .ok (u.lmem.readList off n, s)
      | none =>
        match t.role with
        | .patch iod =>
          .ok ((List.range n).map (fun i =>
            if addr + i < 0x100000 then t.lmem.get (addr + i)
            else (match emuImage s iod with | some p => p.data.getD (addr + i - 0x100000) 0 | none => 0)), s)
        | _ =>
          let secs := ((List.range n).map (fun i => (addr + i) / 16)).eraseDups
          match secs.foldl (fun (r : Except FaultInfo State) x => match r with
              | .error f => .error f
              | .ok s => stashFill s c uid (16 * x)) (.ok s) with
          | .error f => .error f
          | .ok s => .ok ((match team? s uid with | some t => t.lmem.readList addr n | none => []), s)

/-- Bytes of a local store that are kept: bytes 34-63 of a MOB row are discarded (R104). -/
def localKeeps (addr : Nat) : Bool := match mobOf addr with | some (_, _, b) => decide (b < 34) | none => true

/-- The team after local bytes are stored, stash bytes marked dirty (R101), poison of whole words cleared (R380). The dirty
mask counts bytes: where a packed store covers some bits of a byte of a stash sector that is not valid, the others are
those that the local byte holds, and they are written back with it (the model's choice, log 35). -/
def putLocal (t : Team) (w : Writer) (unit : List (Nat × Byte × Byte)) : Team :=
  let t := { t with
    lmem := unit.foldl (fun m u => if localKeeps u.1 then m.set u.1 (maskByte (m.get u.1) u.2.1 u.2.2) else m) t.lmem,
    stashDirty := unit.foldl (fun ds u => match stashMap t u.1 with
      | some _ => (u.1, w) :: ds.filter (fun d => d.1 != u.1)
      | none => ds) t.stashDirty }
  if t.lpoison.isEmpty then t
  else { t with lpoison := t.lpoison.filter (fun p => !((List.range 8).all (fun i => unit.any (fun u => u.1 == 8 * p + i)))) }

/-- A local store (R87, R97, R99, R101, R104). -/
def localStore (s : State) (uid : Nat) (w : Writer) (addr n align : Nat) (unit : List (Nat × Byte × Byte)) : Except FaultInfo State :=
  match team? s uid with
  | none => .ok s
  | some t =>
    if decide (2 ^ 32 ≤ addr) || !(List.range n).all (fun i => localHeld s t true (addr + i)) then
      .error { code := .localRange, data := addr }
    else if addr % align != 0 then .error { code := .alignment, data := addr }
    else
      match clusterOwner s t addr with
      | some (u, off) => .ok (modTeam s u.uid (fun u => putLocal u w (unit.map (fun x => (x.1 - addr + off, x.2)))))
      | none => .ok (modTeam s uid (fun t => putLocal t w unit))

/-- Writes a team's dirty stash bytes back to their global addresses, each as a store of the thread that wrote it (R102). A
byte that cannot be written stays dirty and holds back no other (log 25): such bytes' writers, with their faults. -/
def stashWriteBack (s : State) (c : Ctx) (uid : Nat) : State × List (Writer × FaultInfo) :=
  match team? s uid with
  | none => (s, [])
  | some t =>
    t.stashDirty.reverse.foldl (fun r d =>
      match stashMap t d.1 with
      | none => r
      | some gva =>
        let done (s : State) : State := modTeam s uid (fun t => { t with stashDirty := t.stashDirty.filter (fun x => x.1 != d.1) })
        match findWindow c.wd gva with
        | some _ => (done r.1, r.2)                    -- discarded whatever the store policy (R102)
        | none =>
          match checkGlobal r.1 c gva 1 .stashStore with
          | .error f => (r.1, r.2 ++ [(d.2, f)])
          | .ok (.mem pa ty) => (done (storeHbm r.1 t.die t.site ty d.2 false (fun _ => pageRaw r.1 c gva) [(pa, t.lmem.get d.1, 0xFF)]), r.2)
          | .ok _ => (done r.1, r.2)) (s, [])

end Sys2Proof.Machine
end

