-- ==== Sys2Proof/Machine/Ops.lean ====
section
/-! DEFINITION. The shared operations of the meanings: code handles (spec 06 R180, R181), events (13 R351), taking a fault
(14 R363-R366, 15 R397) and the trap entry and return beside it (06 R195), releases and acquires (04 R126, R127),
operations in flight and the wait counters (08 R243), and the ways in which an instruction runs over the threads of its
issue group (05 R164, 08 R226). -/
namespace Sys2Proof.Machine

/-- One thread of the issue group, with what it reads. -/
structure Env where
  t : Team
  g : Group
  th : Thread
  x : Ctx
  c : Cur
  lane : Nat

/-- The context of a container: a team's own, a queue's bound context (R332). -/
def ctxOf (s : State) (t : Team) : Option Ctx :=
  match t.role with
  | .queue q => ctx? s (queueRec s q).ctx.toNat
  | _ => ctx? s t.ctx

def env? (s : State) (c : Cur) (lane : Nat) : Option Env :=
  match team? s c.w.uid with
  | none => none
  | some t =>
    match grp? t c.w.group, ctxOf s t with
    | some g, some x => (g.threads[lane]?).map (fun th => { t := t, g := g, th := th, x := x, c := c, lane := lane })
    | _, _ => none

/-- Whether the guard of an instruction lets a thread take effect (R154). -/
def guardTrue (f : Fld) (th : Thread) : Bool := predOf th f.guard.toNat != f.sense

/-- The threads of the issue group whose guard is true, in ascending lane order. -/
def active (s : State) (c : Cur) (f : Fld) : List Nat :=
  c.lanes.filter (fun l => match thread? s c.w l with | some th => guardTrue f th | none => false)

/-- Moves threads to an address, ready to issue. -/
def goto (s : State) (w : Where) (lanes : List Nat) (pc : Nat) : State :=
  modThreads s w lanes (fun th => { th with pc := BitVec.ofNat 64 pc, status := .running, watch := none })

/-- The entry of the code-object table for an id (R181, R314), kept by the core once read; the reader's translation
fault or a code-handle fault otherwise. R314 states no outcome outside its ranges: an entry whose base[3:0] is not 0 counts as
not valid here, an odd or zero len is used as it stands, and a table address inside a window gives a code-handle fault (the
model's choices, log 35). A link's bytes are taken from their target (R403). -/
def codeEntry (s : State) (x : Ctx) (die site id : Nat) : Except FaultInfo (CodeEntry × State) :=
  let bad : FaultInfo := { code := .codeHandle }
  match (core s die site).codes.find? (fun e => e.ctx == x.id && e.id == id) with
  | some e => .ok (e, s)
  | none =>
    if id == 0 || decide (x.cotn ≤ id) then .error bad
    else
      match locate s x (x.cotbase + 16 * id) .load with
      | .error f => .error f
      | .ok (.win _ _) => .error bad
      | .ok (.mem pa _) =>
        let va := x.cotbase + 16 * id
        let failed := if targetOf s pa == .hbm then none else (List.range 16).findSome? (fun i => (targetFails s (pa + i)).map (fun b => (i, b)))
        match failed with
        | some (i, poison) => .error { code := if poison then .poison else .address, data := va + i, port := some (linkPort s x pa) }
        | none =>
        if poisoned s pa 16 then .error (poisonFault s pa 16 va)
        else
          let e := ofBytes ((List.range 16).map (fun i => targetByte s (pa + i)))
          if !bit e 127 || bits e 126 104 != 0 || bits e 63 56 != 0 || bits e 3 0 != 0 then .error bad
          else
            let entry : CodeEntry := { ctx := x.id, id := id, base := bits e 55 0, len := bits e 103 64 }
            .ok (entry, modCore s die site (fun c => { c with codes := entry :: c.codes }))

/-- The code handle of an address in the code object that a thread executes (R183 h). -/
def handleOf (s : State) (x : Ctx) (t : Team) (cid addr : Nat) : Except FaultInfo (Nat × State) :=
  match codeEntry s x t.die t.site cid with
  | .error f => .error f
  | .ok (e, s) => .ok ((cid * 2 ^ 40 + 2 ^ 64 + addr - e.base) % 2 ^ 64, s)

/-- The address that a handle names (R181 resolve). -/
def resolve (s : State) (x : Ctx) (t : Team) (h : Nat) : Except FaultInfo (Nat × State) :=
  match codeEntry s x t.die t.site (bits h 63 40) with
  | .error f => .error f
  | .ok (e, s) => if e.len ≤ bits h 39 0 then .error { code := .codeHandle } else .ok (e.base + bits h 39 0, s)

/-- Die and site under which an event or a fault names a container's core: dies 8 and 9 are the I/O dies. -/
def eventDie (t : Team) : Nat := t.die

/-- An event takes its number at its die and goes to the ring (R351, R352); kinds 3 and 5 carry a core's count. -/
def emit (s : State) (die kind ctx acc cix info : Nat) : State :=
  let (cyc, s) := if kind == 3 || kind == 5 then drawCycles s else (0, s)
  let n := s.dseq.getD die 0
  { s with dseq := s.dseq.set die (n + 1),
           evQ := s.evQ ++ [{ die := die, kind := kind, ctx := ctx, cyc := cyc, acc := acc, cix := cix, info := info, dseq := n }] }

def laneMask (lanes : List Nat) : Nat := lanes.foldl (fun m l => m ||| 2 ^ l) 0

/-- The identity words 5 to 7 of a fault record (R364, R366). -/
def identWords (s : State) (t : Team) (group : Nat) : List Nat :=
  match t.role with
  | .queue q => [0, q, (queueRec s q).ctx.toNat + t.die * 2 ^ 28 + t.site * 2 ^ 32]
  | _ => [t.acc, t.cix, t.ctx + t.k * 2 ^ 16 + group * 2 ^ 20 + t.die * 2 ^ 28 + t.site * 2 ^ 32]

/-- The fault record (R364). -/
def faultRecord (s : State) (t : Team) (x : Ctx) (c : Cur) (lanes : List Nat) (cid : Nat) (i : FaultInfo) : List Word :=
  let h := match t.role with
    | .compute => (match handleOf s x t cid c.pc with | .ok (h, _) => h | .error _ => 0)
    | _ => 0
  ([i.code.num + (i.detail % 2 ^ 16) * 2 ^ 16 + (laneMask lanes % 2 ^ 32) * 2 ^ 32, c.pc, h, i.data, i.datum2]
    ++ identWords s t c.w.group).map (BitVec.ofNat 64)

/-- A fault-queue entry waits to be written (R366). -/
def queueFault (s : State) (ctx : Nat) (rcd : List Word) : State :=
  modCtx s ctx (fun x => { x with fqPend := x.fqPend ++ [rcd] })

/-- A fault recorded for the group of a thread that has ended, with the EXIT at which it stands as I: the group's record, as
long as its team is there, and the entry (R252, R289, R379; log 16). -/
def recordEnded (s : State) (t : Team) (w : Where) (lane : Nat) (th : Thread) (i : FaultInfo) : State :=
  match ctxOf s t with
  | some x =>
    let c : Cur := { w := w, lanes := [lane], pc := th.pc.toNat, next := th.pc.toNat, dword := 0, lit := 0, form := 3,
                     noPatch := true, noG := false }
    let rcd := faultRecord s t x c [lane] th.cid.toNat i
    queueFault (modGroup s w (fun g => { g with frec := rcd })) x.id rcd
  | none => s

/-- A fault that a thread takes later waits for it; when the thread has ended, the fault is recorded at its EXIT, that of a
team which has retired since among them. -/
def lateFault (s : State) (w : Where) (lane : Nat) (kind : LateKind) (i : FaultInfo) : State :=
  match team? s w.uid, thread? s w lane with
  | some t, some th =>
    if th.status != .ended then modThread s w lane (fun th => { th with late := th.late ++ [(kind, i)] })
    else recordEnded s t w lane th i
  | _, _ =>
    match s.departed.find? (fun t => t.uid == w.uid) with
    | some t =>
      (match (grp? t w.group).bind (fun g => g.threads[lane]?) with
       | some th => recordEnded s t w lane th i
       | none => s)
    | none => s

/-- Delivery of a fault to a group of a team (R363, R364, R366): the record, the stop, the fault-queue entry. A
translation fault parks the group (R359); one that was parked before stays parked at those addresses too. -/
def deliver (s : State) (c : Cur) (lanes : List Nat) (i : FaultInfo) : State :=
  match team? s c.w.uid with
  | none => s
  | some t =>
    match ctxOf s t with
    | none => s
    | some x =>
      let cid := match thread? s c.w (lanes.headD 0) with | some th => th.cid.toNat | none => 0
      let rcd := faultRecord s t x c lanes cid i
      let parks := i.code == .translation || (i.code == .instructionFetch && bit i.detail 5)
      let s := modGroup s c.w (fun g =>
        let at' := g.parked.toList ++ g.also ++ (if parks then i.data :: i.also else [])
        { g with frec := rcd, stopped := true, parked := at'.head?, also := at'.drop 1 })
      let s := modThreads s c.w lanes (fun th => { th with pc := BitVec.ofNat 64 c.pc, status := .faulted, parked := parks })
      queueFault s x.id rcd

/-- A queue program's fault (R333, R366): state 4, except that a translation fault parks it. -/
def deliverQueue (s : State) (c : Cur) (q : Nat) (i : FaultInfo) : State :=
  let s := deliver s c [0] i
  if i.code == .translation || (i.code == .instructionFetch && bit i.detail 5) then s
  else
    let s := modGroup s c.w (fun g => { g with stopped := false, parked := none, also := [] })
    let r := queueRec s q
    let s := modQueue s q (fun r => { r with
      state := 4, flt := true, run := false, fcode := BitVec.ofNat 8 i.code.num,
      fpc := BitVec.ofNat 56 c.pc, pc := BitVec.ofNat 56 c.pc })
    emit s (8 + q / 128) 5 r.ctx.toNat 0 0 (q + i.code.num * 2 ^ 8)

/-- What an emulation thread has sent out goes on without it: its stores and reductions proceed, its loads deliver nothing, and
nothing of it reaches the thread of the next request (R184, R395). -/
def detachEmu (s : State) (iod : Nat) : State :=
  let mine (w : Where) : Bool := w.uid == 256 + iod
  { s with
    outReqs := (s.outReqs.filter (fun r => !(mine r.w && r.copy.isNone && !r.posted))).map (fun r => if mine r.w then { r with w := noWhere } else r),
    syncQ := updIf (fun i => mine i.w) (fun i => { i with w := noWhere }) s.syncQ,
    copies := updIf (fun c => mine c.w) (fun c => { c with w := noWhere }) s.copies }

/-- Trouble in emulation code (R396): the request is abandoned; a translation fault parks the requesting group, any other
fault gives its threads an illegal-instruction trap at I. -/
def emuTrouble (s : State) (iod : Nat) (i : FaultInfo) : State :=
  match s.emuQ.find? (fun r => r.iod == iod && r.running) with
  | none => s
  | some r =>
    let s := detachEmu { s with emuQ := s.emuQ.filter (fun q => !(q.iod == iod && q.running)),
                                teams := s.teams.filter (fun t => t.role != .patch iod) } iod
    let c : Cur := { w := r.w, lanes := r.lanes, pc := r.pc, next := r.next, dword := r.d, lit := r.lit, form := 0, noPatch := true, noG := false }
    deliver s c r.lanes (if i.code == .translation then i else { code := .illegalInstruction })

/-! ## The patch fabric's match (spec 15 R388, R389) -/

/-- The slots that are active for a context under a configuration, with their numbers (R382, R387, R389). -/
def slotsFor (s : State) (t : Team) (x : Ctx) (gen : Nat) : List (Nat × SlotRec) :=
  match t.role, patchCfg s gen with
  | .compute, (some p, en) =>
    if x.det && !p.rp then []
    else (p.slots.zipIdx.map (fun q => (q.2, q.1))).filter (fun q => bit en.toNat q.1)
  | _, _ => []

/-- The slot that acts (R389): highest priority, ties to the lower number, under the configuration with which the instruction
was decoded (R387). -/
def matchSlot (s : State) (t : Team) (x : Ctx) (c : Cur) (fault : Option FaultCode) : Option (Nat × SlotRec) :=
  let ok (q : Nat × SlotRec) : Bool :=
    let r := q.2
    r.fp == fault.isSome && Nat.land c.dword r.mask == Nat.land r.value r.mask && bit r.forms c.form
    && (!r.pcen || (decide (r.pclo ≤ c.pc) && decide (c.pc < r.pchi)))
    && (!r.ctxen || r.ctx == x.id)
    && (match fault with | some f => f.num == r.fcode | none => true)
  ((slotsFor s t x c.gen).filter ok).foldl (fun best q => match best with
    | none => some q
    | some b => if b.2.prio < q.2.prio then some q else best) none

/-- The trap entry of R195 for one thread: saved handle of the next instruction, cause, handler state, transfer. None
where the trap is not handled. -/
def trapEntry (s : State) (e : Env) (n next : Nat) : Option (Except FaultInfo State) :=
  if e.x.thand == 0 || e.th.intrap then none
  else some (
    match handleOf s e.x e.t e.th.cid.toNat next with
    | .error f => .error f
    | .ok (h, s) =>
      match resolve s e.x e.t e.x.thand.toNat with
      | .error f => .error f
      | .ok (target, s) =>
        .ok (modThread s e.c.w e.lane (fun th => { th with
          tpc := BitVec.ofNat 64 h, tcause := BitVec.ofNat 8 n, intrap := true, status := .running, watch := none,
          cid := BitVec.ofNat 24 (bits e.x.thand.toNat 63 40), pc := BitVec.ofNat 64 target })))

/-- The return of R195 for one thread: out of the handler, to the handle in s.tpc. -/
def trapReturn (s : State) (e : Env) : Except FaultInfo State :=
  if !e.th.intrap then .error { code := .trapState }
  else
    match resolve s e.x e.t e.th.tpc.toNat with
    | .error f => .error f
    | .ok (target, s) =>
      .ok (modThread s e.c.w e.lane (fun th => { th with
        intrap := false, status := .running, cid := BitVec.ofNat 24 (bits th.tpc.toNat 63 40), pc := BitVec.ofNat 64 target }))

/-! ## Releases and acquires -/

/-- What one thread's part of an instruction comes to. -/
inductive StepR
  /-- done: the thread goes on after the instruction -/
  | ok (s : State)
  /-- done: the thread stands where the state says -/
  | placed (s : State)
  | fault (s : State) (f : FaultInfo)
  | wait (s : State) (w : Wait)

/-- The failures of stores on links that a thread reports at a release, NTDRAIN, WAIT or EXIT (R403). -/
def linkFault (s : State) (e : Env) : Option StepR :=
  match thread? s e.c.w e.lane with
  | some th =>
    if th.linkFails == 0 then none
    else some (.fault (modThread s e.c.w e.lane (fun th => { th with linkFails := 0, linkVa := 0 }))
      { code := .address, detail := min th.linkFails 0xFFFF, data := th.linkVa })
  | none => none

/-- A reduction of a thread, or its request on a link, has not been executed at its target: the write part of a RED or ATOMRD
is a store of the thread that precedes what it does next (R126, R131). -/
def ownPending (s : State) (w : Where) (lane : Nat) : Bool :=
  s.syncQ.any (fun i => i.w == w && i.lane == lane) || s.outReqs.any (fun r => r.copy.isNone && r.w == w && r.lane == lane)

/-- A release of a thread at a scope (R126). At group scope or wider the thread's own reductions and link stores have been
performed; at cluster scope or wider every store of its core is performed at home, stash bytes are written back (R102), and
the responses of UALink stores are awaited (R402). A stash byte that cannot be written is a fault of the thread that wrote it:
it faults this release only where it is the thread's own. -/
def release (s : State) (e : Env) (scope : Nat) : StepR :=
  if scope == 0 then .ok s
  else if scope < 3 then (if ownPending s e.c.w e.lane then .wait s .resource else .ok s)
  else
    match linkFault s e with
    | some r => r
    | none =>
      let (s', bad) := stashWriteBack s e.x e.t.uid
      match bad.find? (fun b => b.1.group == e.g.idx && b.1.lane == e.lane) with
      | some (_, f) => .fault s f
      | none =>
        let s := s'
        let s := performAll s e.t.die e.t.site
        if ownPending s e.c.w e.lane || s.outReqs.any (fun r => r.copy.isNone && r.posted
            && (match team? s r.w.uid with | some u => u.die == e.t.die && u.site == e.t.site | none => false)) then
          .wait s .resource
        else .ok s

/-- An acquire of a thread at a scope (R127, R102). -/
def acquire (s : State) (t : Team) (scope : Nat) : State :=
  if scope < 3 then s
  else modTeam (dropClean s t.die t.site) t.uid (fun t => { t with stashValid := [] })

/-! ## Actions of the patch fabric, and taking a fault -/

/-- The I/O die whose patch core serves a compute die (R394). -/
def patchDie (die : Nat) : Nat := if die < 4 then 0 else 1

/-- The queue of 256 entries before an I/O die's patch core is full (R395). -/
def emuFull (s : State) (iod : Nat) : Bool := decide (256 ≤ (s.emuQ.filter (fun r => r.iod == iod && !r.running)).length)

/-- Threads that a rewrite, a trap or an emulation has delayed read every result (R326, R398). -/
def forgetRecent (s : State) (w : Where) (lanes : List Nat) : State := modThreads s w lanes (fun th => { th with recent := [] })

/-- Requests emulation of I for some threads (R394): a release at device scope of each, as PUB.device, then the wait. Threads
whose release must wait, or that find the queue full (R395), come back to I under the same slot (R387); a fault of the release
is delivered at I. -/
def emuRequest (s : State) (c : Cur) (t : Team) (x : Ctx) (lanes : List Nat) (r : SlotRec) : State :=
  let back (s : State) (ls : List Nat) : State :=
    modThreads s c.w ls (fun th => { th with pc := BitVec.ofNat 64 c.pc, status := .waiting .resource, slot := some (c.gen, r) })
  let s := forgetRecent s c.w lanes
  let out := lanes.foldl (fun (o : State × Bool × List (Nat × FaultInfo)) l =>
    match env? o.1 c l with
    | none => o
    | some e =>
      match release o.1 e 5 with
      | .ok s => (s, o.2.1, o.2.2)
      | .placed s => (s, o.2.1, o.2.2)
      | .fault s i => (s, o.2.1, o.2.2 ++ [(l, i)])
      | .wait s _ => (s, true, o.2.2)) (s, false, [])
  if out.2.1 then back out.1 lanes
  else
    match out.2.2 with
    | (_, i) :: _ =>
      let bad := (out.2.2.filter (fun p => p.2.code == i.code)).map (·.1)
      deliver (back out.1 (lanes.filter (fun l => !bad.contains l))) c bad i
    | [] =>
      if emuFull out.1 (patchDie t.die) then back out.1 lanes
      else
      let s := modThreads out.1 c.w lanes (fun th => { th with pc := BitVec.ofNat 64 c.pc, status := .waiting .emulation })
      let req : EmuReq :=
        { w := c.w, lanes := lanes, iod := patchDie t.die, d := c.dword, lit := c.lit, pc := c.pc, next := c.next, ctx := x.id,
          pid := r.pid, entry := r.entry, gen := c.gen, die := t.die, site := t.site, f := t.kern.f,
          running := false }
      { s with emuQ := s.emuQ ++ [req] }

/-- The guard of an instruction in its decode word lets a thread take effect (R154, R388); a 16-bit form always does. -/
def guardOn (s : State) (c : Cur) (lane : Nat) : Bool :=
  c.dword % 2 == 0 || (match thread? s c.w lane with
    | some th => predOf th (bits c.dword 13 11) != bit c.dword 14
    | none => false)

/-- The TRAP action of a slot for some threads (R391): those that cannot trap are answered back. -/
def slotTrap (s : State) (c : Cur) (lanes : List Nat) (n : Nat) : State × List (Nat × FaultInfo) :=
  let s := forgetRecent s c.w lanes
  lanes.foldl (fun r l =>
    match env? r.1 c l with
    | none => r
    | some e =>
      match trapEntry r.1 e n c.next with
      | none => (r.1, r.2 ++ [(l, { code := .unhandledTrap, data := n })])
      | some (.error f) => (r.1, r.2 ++ [(l, f)])
      | some (.ok s) => (s, r.2)) (s, [])

/-- A port's error count (R403, R418): UALink ports 0-15, PCIe ports 16 and 17. -/
def countError (s : State) (port : Nat) : State :=
  if port < 16 then
    { s with regs := { s.regs with ports := s.regs.ports.modify port (fun p =>
        { p with nerr := if p.nerr.toNat == 2 ^ 32 - 1 then p.nerr else p.nerr + 1 }) } }
  else if port == 16 then { s with regs := { s.regs with pcieErr0 := s.regs.pcieErr0 + 1 } }
  else { s with regs := { s.regs with pcieErr1 := s.regs.pcieErr1 + 1 } }

/-- The failure of a link read that a fault reports is counted at its port (R403). -/
def countFailure (s : State) (i : FaultInfo) : State := match i.port with | some p => countError s p | none => s

/-- TAKING A FAULT: threads of an issue group take the fault `i` at the instruction of `c` (R363). A fault-path slot of
the patch fabric acts first (R397), in threads whose guard is true, while the others advance (R390, R393); otherwise the
fault is delivered. -/
def takeFault (s : State) (c : Cur) (lanes : List Nat) (i : FaultInfo) : State :=
  if lanes.isEmpty then s
  else
    let s := { (countFailure s i) with lastFault := some (lanes, i) }
    match team? s c.w.uid with
    | none => s
    | some t =>
      match t.role with
      | .queue q => deliverQueue s c q i
      | .patch iod => emuTrouble s iod i
      | .compute =>
        match ctxOf s t with
        | none => s
        | some x =>
          if c.noPatch || i.code == .translation || i.code == .instructionFetch then deliver s c lanes i
          else
            match matchSlot s t x c (some i.code) with
            | none => deliver s c lanes i
            | some (_, r) =>
              let on := lanes.filter (guardOn s c)
              let s := goto s c.w (lanes.filter (fun l => !on.contains l)) c.next
              if on.isEmpty then s
              else
                match r.act with
                | 0 =>
                  let (s, bad) := slotTrap s c on r.tnum
                  if bad.isEmpty then s else deliver s c (bad.map (·.1)) i
                | 1 => { s with rewrite := s.rewrite ++ [(c, r, on, i)] }
                | _ => emuRequest s c t x on r

/-- Several threads of an issue group take faults: the record holds the fault of the lowest lane and the lanes that took
one of its code; the others stand at the instruction (log 16). -/
def takeFaults (s : State) (c : Cur) (fs : List (Nat × FaultInfo)) : State :=
  match fs with
  | [] => s
  | (_, i) :: _ =>
    let same := fs.filter (fun p => p.2.code == i.code)
    takeFault ((same.drop 1).foldl (fun s p => countFailure s p.2) s) c (same.map (·.1)) { i with also := (same.drop 1).map (·.2.data) }

/-! ## Operations in flight -/

def coreOf (s : State) (w : Where) : Nat × Nat := match team? s w.uid with | some t => (t.die, t.site) | none => (0, 0)

/-- Whether an operation of a group is complete (R243). -/
def opDone (s : State) (w : Where) (o : Op) : Bool :=
  o.done || (match o.kind with
    | .parts => false
    | .nt sids => let k := coreOf s w; !(core s k.1 k.2).dirty.any (fun d => d.nt && sids.contains d.sid)
    | .copy ids => !s.copies.any (fun c => ids.contains c.id)
    | .tile seqs => (match team? s w.uid with | some t => !t.mq.any (fun m => seqs.contains m.seq) | none => true)
    | .pending ids => !s.outReqs.any (fun r => ids.contains r.id) && !s.syncQ.any (fun r => ids.contains r.id)
    | .smu => false)

/-- The value of a wait counter: operations not complete, each held back by the earlier ones of its counter (R243). -/
def ctrCount (s : State) (w : Where) (ops : List Op) (k : Ctr) : Nat :=
  ((ops.filter (fun o => o.ctr == k)).dropWhile (opDone s w)).length

/-- Operations that nothing awaits any more. -/
def pruneOps (s : State) (w : Where) (ops : List Op) : List Op :=
  let keep (k : Ctr) : List Nat := ((ops.filter (fun o => o.ctr == k)).dropWhile (opDone s w)).map (·.id)
  let ids := keep .loads ++ keep .stores ++ keep .copies ++ keep .tiles ++ keep .none
  ops.filter (fun o => ids.contains o.id)

/-- Adds an operation to a group. -/
def addOp (s : State) (w : Where) (ctr : Ctr) (kind : OpKind) (parts : List Part) (done : Bool) : Nat × State :=
  let id := match group? s w with | some g => g.nextOp | none => 0
  (id, modGroup s w (fun g => { g with
    nextOp := g.nextOp + 1,
    ops := pruneOps s w g.ops ++ [{ id := id, ctr := ctr, kind := kind, parts := parts, done := done }] }))

/-- The next operation number of a group. -/
def nextOpId (s : State) (w : Where) : Nat := match group? s w with | some g => g.nextOp | none => 0

/-- A counted instruction does not issue while its counter stands at 63 (R243). -/
def ctrFull (s : State) (w : Where) (k : Ctr) : Bool :=
  match group? s w with
  | some g => decide (63 ≤ ctrCount s w g.ops k)
  | none => false

/-! ## Running an instruction over its issue group -/

/-- Opcodes whose d field is a source as well. -/
def readsD (op : Nat) : Bool :=
  [0x18, 0x37, 0x40, 0x6C, 0x70, 0x71, 0x91, 0x93, 0x95, 0x97, 0x98, 0x9B, 0x9D, 0xD9].contains op

/-- The elements (i, k) of a triangular factor that CHOL, SOLV and SOLVT read (R268, R270): the lower triangle, its strict part
for a unit diagonal, or the upper one; all of it for SOLV.lu. -/
def smReadsEl (op : Nat) (f : Fld) (i k : Nat) : Bool :=
  if op == 0xC8 then decide (k ≤ i)
  else if op == 0xCA then smOpt f == 1 || decide (k ≤ i)
  else match smOpt f with
    | 1 => decide (k < i)
    | 2 => decide (i ≤ k)
    | _ => decide (k ≤ i)

/-- The registers of an r × r factor at a register that such an instruction reads, one by one. -/
def smFactor (op : Nat) (f : Fld) (at' : Nat) : List (Nat × Nat) :=
  ((List.range (smR f * smR f)).filter (fun n => smReadsEl op f (n / smR f) (n % smR f))).map (fun n => (at' + n, 1))

/-- The v registers that a small-matrix instruction reads (R261, R268-R270). -/
def smReads (op : Nat) (f : Fld) : List (Nat × Nat) :=
  match op with
  | 0xC1 => smSpans op f
  | 0xC2 => smSpans op f
  | 0xC8 => smFactor op f f.d.toNat
  | 0xC9 => [(f.d.toNat, smR f * smR f)]
  | 0xCA => (f.d.toNat, smR f * smN f) :: smFactor op f f.a.toNat ++ (if smOpt f == 1 then [(f.b.toNat, 1)] else [])
  | 0xCB => (f.d.toNat, smR f * smN f) :: smFactor op f f.a.toNat
  | _ => (smSpans op f).drop 1

/-- The registers that an instruction reads, by file (true: g), first number and count. RET.W reads v0 (R188); `acrd.f` reads
no register (R288). -/
def srcSpans (op : Nat) (f : Fld) : List (Bool × Nat × Nat) :=
  if 0xC0 ≤ op && op ≤ 0xCB then (smReads op f).map (fun p => (false, p.1, p.2))
  else if op == 0x09 then [(false, 0, 1)]
  else if op == 0xD8 && fldBit f 6 then []
  else match sigOf op with
  | none => []
  | some g =>
    let one (r : FieldRole) (x n : Nat) : List (Bool × Nat × Nat) :=
      match r with
      | .v => [(false, x, n)]
      | .vg b => [(fldBit f b, x, n)]
      | .index => if fldBit f 5 then [(false, x, n)] else []
      | _ => []
    if op == 0x48 then (if fldBit f 6 then [(false, f.a.toNat, 1)] else [])
    else (if readsD op then one g.d f.d.toNat (if op == 0x9D then 2 else if op == 0xD9 then f.c.toNat + 1 else 1) else [])
      ++ one g.a f.a.toNat 1 ++ (if f.form == .w96 then [] else one g.b f.b.toNat 1)
      ++ one g.c f.c.toNat (if op == 0xAF then 2 else 1)

/-- The poison fault of a register read (R380): the first of some registers that lies in a poisoned word. -/
def regPoison (t : Team) (g : Group) (lane : Nat) (spans : List (Bool × Nat × Nat)) : Option FaultInfo :=
  if t.lpoison.isEmpty then none
  else
    let addrs := spans.flatMap (fun p => (List.range p.2.2).map (fun i =>
      if p.1 then gAddr t.kern g.idx (p.2.1 + i) else vAddr t.kern g lane (p.2.1 + i)))
    (addrs.find? (fun a => t.lpoison.contains (a / 8))).map (fun a => { code := .poison, detail := 1, data := a })

/-- The register faults before an instruction's own checks: a v register at or beyond F (R94), a poisoned source (R380). -/
def registerFault (e : Env) (op : Nat) (f : Fld) : Option FaultInfo :=
  if e.t.kern.f < vNeed op f then some { code := .registerRange }
  else regPoison e.t e.g e.lane (srcSpans op f)

/-- The machine with an issue group: a meaning runs only with one (R26). -/
def withCur (s : State) (k : Cur → State) : Host.Outcome State Fault Refusal :=
  match s.cur with
  | none => .fault .noIssueGroup
  | some c => .next (k c)

/-- Threads whose guard is false advance and take no other effect (R27). -/
def skipFalse (s : State) (c : Cur) (f : Fld) : State :=
  let act := active s c f
  goto s c.w (c.lanes.filter (fun l => !act.contains l)) c.next

/-- A thread waits at its instruction. -/
def setWait (s : State) (w : Where) (lane : Nat) (x : Wait) : State :=
  modThread s w lane (fun th => { th with status := .waiting x })

/-- Runs one thread after another, in ascending lane order (R226): each guard-true thread makes its own accesses. -/
def runSeq (op : Nat) (f : Fld) (s : State) (body : State → Env → StepR) : Host.Outcome State Fault Refusal :=
  withCur s (fun c =>
    let act := active s c f
    let r := act.foldl (fun (r : State × List (Nat × FaultInfo)) l =>
      match env? r.1 c l with
      | none => r
      | some e =>
        match registerFault e op f with
        | some i => (r.1, r.2 ++ [(l, i)])
        | none =>
          match body r.1 e with
          | .ok s => (goto s c.w [l] c.next, r.2)
          | .placed s => (s, r.2)
          | .fault s i => (s, r.2 ++ [(l, i)])
          | .wait s x => (setWait s c.w l x, r.2)) (skipFalse s c f, [])
    takeFaults r.1 c r.2)

/-- Runs once for the issue group, with the operands of the lowest-numbered guard-true thread; a fault is taken by every
guard-true thread (R208, R255, R271, R277). -/
def runOnce (op : Nat) (f : Fld) (s : State) (body : State → Env → List Nat → StepR) : Host.Outcome State Fault Refusal :=
  withCur s (fun c =>
    let act := active s c f
    let s := skipFalse s c f
    match act with
    | [] => s
    | l :: _ =>
      if c.noG then goto s c.w act c.next else
      match env? s c l with
      | none => s
      | some e =>
        match registerFault e op f with
        | some i => takeFault s c act i
        | none =>
          match body s e act with
          | .ok s => goto s c.w act c.next
          | .placed s => s
          | .fault s i => takeFault s c act i
          | .wait s x => act.foldl (fun s l => setWait s c.w l x) s)

/-- The effects of an instruction that only writes registers of its thread. -/
inductive Eff
  | v (n x : Nat)
  | g (n x : Nat)
  | p (n : Nat) (b : Bool)
  | nf (x : Nat)
  | sx (x : Nat)
  | smst (x : Nat)
  /-- the thread goes on at an address -/
  | jump (pc : Nat)
  | cid (x : Nat)
  | tpc (x : Nat)
  | idle (n : Nat)
  deriving DecidableEq, Repr

/-- One effect on the state; a g register takes the value of the lowest guard-true lane only (R175). -/
def applyEff (w : Where) (lane : Nat) (lowest : Bool) (s : State) (e : Eff) : State :=
  match e with
  | .v n x => writeV s w lane n x
  | .g n x => if lowest then writeG s w n x else s
  | .p n b => modThread s w lane (setPred n b)
  | .nf x => modThread s w lane (orNf x)
  | .sx x => modThread s w lane (fun th => { th with sx := BitVec.ofNat 64 x })
  | .smst x => modThread s w lane (fun th => { th with smst := BitVec.ofNat 64 x })
  | .jump pc => modThread s w lane (fun th => { th with pc := BitVec.ofNat 64 pc })
  | .cid x => modThread s w lane (fun th => { th with cid := BitVec.ofNat 24 x })
  | .tpc x => modThread s w lane (fun th => { th with tpc := BitVec.ofNat 64 x })
  | .idle n => modThread s w lane (fun th => { th with idle := n })

def applyEffs (w : Where) (lane : Nat) (lowest : Bool) (s : State) (es : List Eff) : State :=
  es.foldl (applyEff w lane lowest) s

/-- Runs an instruction whose threads compute from the state before it and write registers only: each guard-true thread
answers its effects, or its fault (R205, R174-R175). -/
def runPure (op : Nat) (f : Fld) (s : State) (body : Env → Except FaultInfo (List Eff)) : Host.Outcome State Fault Refusal :=
  withCur s (fun c =>
    let act := active s c f
    let low := if c.noG then c.lanes.length + 32 else act.headD 0
    let results := act.filterMap (fun l => (env? s c l).map (fun e =>
      (l, match registerFault e op f with
          | some i => .error i
          | none => body e)))
    let r := results.foldl (fun (r : State × List (Nat × FaultInfo)) (p : Nat × Except FaultInfo (List Eff)) =>
      match p.2 with
      | .ok es => (applyEffs c.w p.1 (p.1 == low) (goto r.1 c.w [p.1] c.next) es, r.2)
      | .error i => (r.1, r.2 ++ [(p.1, i)])) (skipFalse s c f, [])
    takeFaults r.1 c r.2)

/-- Writes of a register result to v or g, by file bit. -/
def regEff (g : Bool) (n x : Nat) : Eff := if g then .g n x else .v n x

/-- A register result written by a thread, to v or g; g only from the lowest guard-true thread. -/
def writeReg (s : State) (e : Env) (lowest g : Bool) (n x : Nat) : State := applyEff e.c.w e.lane lowest s (regEff g n x)

/-! ## Stores at their places -/

/-- A request goes out on a link for `len` bytes from pa on a page of a type (R402). -/
def sendReq (s : State) (e : Env) (opId va pa len ty : Nat) (data : List (Nat × Byte × Byte)) (posted : Bool)
    (atomic : Option SyncItem) : Nat × State :=
  let (id, s) := reqUp s
  let r : OutReq :=
    { id := id, cur := some { e.c with lanes := [e.lane] }, w := e.c.w, lane := e.lane, opId := opId,
      writer := writerOf e.t e.g.idx e.lane, va := va, pa := pa, len := len, ty := ty, data := data, posted := posted,
      atomic := atomic, copy := none, port := linkPort s e.x pa }
  (id, { s with outReqs := s.outReqs ++ [r] })

/-- A store at its place (R123, R401, R402): discarded by a window (R115), kept in the core, performed at once at a host
window, sent to a UALink peer. `raw`: by address, the page's compressible bit is 0 (R90). -/
def putStore (s : State) (e : Env) (id va : Nat) (l : Loc) (nt : Bool) (raw : Nat → Bool) (unit : List (Nat × Byte × Byte)) : State :=
  match l with
  | .win _ _ => s
  | .mem pa ty =>
    let w := writerOf e.t e.g.idx e.lane
    match targetOf s pa with
    | .hbm => storeHbm s e.t.die e.t.site ty w nt raw unit
    | .ualink _ => (sendReq s e id va pa unit.length ty unit true none).2
    | _ => homeStore s unit (some w)

end Sys2Proof.Machine
end

