-- ==== Sys2Proof/Machine/Flags.lean ====
section
/-! DEFINITION. Flag computations: the carry of IADC and the comparisons of the integer class (spec 06 R176, R179), the
element comparisons, classes and masks of the format class (07 R212, R213). The nf bits of R84 are in Numbers. -/
namespace Sys2Proof.Machine

/-- The carry-out of a + b + carry at width w, operands read as naturals (R176 IADC). -/
def carryOut (w a b : Nat) (ci : Bool) : Bool := decide (2 ^ w ≤ a % 2 ^ w + b % 2 ^ w + b2n ci)

/-- The format comparisons of R212: whether they hold, and the nf bits. -/
def fcompare (cc : Nat) (a b : Val) : Bool × Nat :=
  let un := a.isNan || b.isNan
  let o := valNumCmp a b
  match cc with
  | 0 => (!un && o == .eq, 0)
  | 1 => (un || o != .eq, 0)
  | 2 => (!un && o == .lt, if un then nfIV else 0)
  | 3 => (!un && o != .gt, if un then nfIV else 0)
  | 4 => (!un && o == .gt, if un then nfIV else 0)
  | 5 => (!un && o != .lt, if un then nfIV else 0)
  | 6 => (un, 0)
  | _ => (!un, 0)

/-- The class of an operand element (R213): bit number in b, and the nf bits of the read. -/
def fclassOf (f : Fdr) (fi : Bool) (code : Nat) : Nat × Nat :=
  let (v, fl) := readCode f fi code
  let k := match v with
    | .nan => 8
    | .inf true => 0
    | .inf false => 7
    | .fin neg q =>
      if qIsZero q then (if neg then 3 else 4)
      else if isSubnormal f (code % 2 ^ f.w) then (if neg then 2 else 5)
      else if neg then 1 else 6
  (k, fl)

/-- A lookup table of two or three predicates or bits (R177 LOGIC3, R179 PLOGIC). -/
def truth3 (tt : Nat) (d a b : Bool) : Bool := bit tt (4 * b2n d + 2 * b2n a + b2n b)

end Sys2Proof.Machine
end

