-- ==== Sys2Proof/Machine/Operands.lean ====
section
/-! DEFINITION. Operands: register files by modifier bit (spec 06 R173, 07 R203), the literal (05 R160), integer types
(06 R174), format slots and their elements (02 R61, 07 R204-R207), effective addresses (08 R224). -/
namespace Sys2Proof.Machine

/-- Register n of v or g, 64 bits. -/
def regOf (e : Env) (g : Bool) (n : Nat) : Nat := if g then readG e.t e.g n else readV e.t e.g e.lane n

def srcA (e : Env) (f : Fld) : Nat := regOf e (fldBit f 6) f.a.toNat
def srcC (e : Env) (f : Fld) : Nat := regOf e (fldBit f 3) f.c.toNat
/-- The d field read as a source: v, or g when m[4] is 1. -/
def srcD (e : Env) (f : Fld) : Nat := regOf e (fldBit f 4) f.d.toNat
/-- A v register by number. -/
def srcV (e : Env) (n : Nat) : Nat := readV e.t e.g e.lane n

/-- Operand b of an integer instruction: the literal extended by its type (R160), or the register. -/
def srcB (e : Env) (f : Fld) : Nat :=
  if f.form == .w96 then
    (if tySigned f.slot.toNat then ofInt 64 (sext f.lit.toNat 32) else f.lit.toNat)
  else regOf e (fldBit f 5) f.b.toNat

/-- Operand b where no integer type applies: the literal zero-extended (R160), or the register. -/
def srcBz (e : Env) (f : Fld) : Nat :=
  if f.form == .w96 then f.lit.toNat else regOf e (fldBit f 5) f.b.toNat

/-- Operand b where the description has the literal sign-extended (R210 FSCL, R220 LSLIDE). -/
def srcBs (e : Env) (f : Fld) : Nat :=
  if f.form == .w96 then ofInt 64 (sext f.lit.toNat 32) else regOf e (fldBit f 5) f.b.toNat

/-- Operand b where the field names a v register only (FREC, IDLE, LDCHK, atomics). -/
def srcBv (e : Env) (f : Fld) : Nat := if f.form == .w96 then f.lit.toNat else srcV e f.b.toNat

/-- The definition in a slot (R56). -/
def slotWord (x : Ctx) (n : Nat) : Nat := (x.fd.getD n 0).toNat

/-- Format fault with an operand role (R59, R364; log 17). -/
def formatFault (role : Nat) : FaultInfo := { code := .format, detail := role }

/-- A slot read once at issue (R205 step 1): valid under R58 and accepted by the instruction, or a format fault. -/
def slotFor (e : Env) (n role : Nat) (accepts : Fdr → Bool) : Except FaultInfo Fdr :=
  let w := slotWord e.x n
  if fdrValid w && accepts (fdrOf w) then .ok (fdrOf w) else .error (formatFault role)

/-- Every kind and width (R207 first row). -/
def anyFormat (_ : Fdr) : Bool := true

/-- The literal read through a slot (R160): the register of elements it stands for. -/
def slotLiteral (f : Fdr) (lit : Nat) : Nat :=
  if f.w ≤ 32 then packElems f.w (List.replicate (elems f) (lit % 2 ^ f.w))
  else if f.kind == 3 then lit
  else if f.kind == 0 then (roundVal f (codeVal fdBinary32 lit).1 (if f.rnd == 5 then 0 else f.rnd) 0).1
  else ofInt f.w (sext lit 32)

/-- Operand b read through a slot. -/
def srcBslot (e : Env) (f : Fld) (k : Fdr) : Nat :=
  if f.form == .w96 then slotLiteral k f.lit.toNat else regOf e (fldBit f 5) f.b.toNat

/-- flush-in and flush-out (R159). -/
def fiOf (f : Fld) : Bool := fldBit f 8
def foOf (f : Fld) : Bool := fldBit f 7

/-- The number u for element E of a vector instruction's stochastic rounding (R69). -/
def drawFor (e : Env) (slot el : Nat) : Nat := sowDraw (e.th.sx.toNat + el) slot e.x.srw.toNat e.x.srk.toNat

/-- The rounding of element E of an instruction under a mode (R204, R205 step 4). -/
def roundEl (e : Env) (k : Fdr) (slot mode el : Nat) (x : Exact) : Nat × Nat :=
  roundExact k x mode (if mode == 5 then drawFor e slot el else 0)

/-- The destination effect of an instruction: v(d), or g(d) when m[4] is 1. -/
def dstEff (f : Fld) (x : Nat) : Eff := regEff (fldBit f 4) f.d.toNat x

/-- The effective address of the addressed class (R224). -/
def effAddr (e : Env) (f : Fld) : Nat :=
  let base := (srcA e f : Int) + sext f.c.toNat 8
  let idx : Int := if fldBit f 5 then (srcV e f.b.toNat : Int) else 0
  let lit : Int := if f.form == .w96 then sext f.lit.toNat 32 else 0
  ofInt 64 (base + idx + lit)

end Sys2Proof.Machine
end

