-- ==== Sys2Proof/Machine/Format.lean ====
section
/-! DEFINITION. The format class (spec 07 R203-R217): arithmetic through format slots. -/
namespace Sys2Proof.Machine

def orAll (xs : List Nat) : Nat := xs.foldl (· ||| ·) 0

/-- Operand elements: value and nf bits of the read (R205 step 2). -/
def opA (e : Env) (f : Fld) (k : Fdr) (i : Nat) : Val × Nat := readCode k (fiOf f) (elemAt k.w (srcA e f) i)
def opB (e : Env) (f : Fld) (k : Fdr) (i : Nat) : Val × Nat := readCode k (fiOf f) (elemAt k.w (srcBslot e f k) i)
def opC (e : Env) (f : Fld) (k : Fdr) (i : Nat) : Val × Nat := readCode k (fiOf f) (elemAt k.w (srcC e f) i)

/-- Slots of kinds 0, 1 and 4 (R207). -/
def realFormat (k : Fdr) : Bool := k.kind == 0 || k.kind == 1 || k.kind == 4

/-- sx moves on by L in an instruction that rounds stochastically (R205). -/
def sxEff (e : Env) (mode n : Nat) : List Eff := if mode == 5 then [.sx ((e.th.sx.toNat + n) % 2 ^ 64)] else []

def vexact (r : Val × Nat) : Exact × Nat := (.val r.1, r.2)

/-- Element-wise instructions (R205): `elem` gives the exact result of an element under the mode, and its nf bits. -/
def fmtRun (op : Nat) (f : Fld) (s : State) (accepts : Fdr → Bool) (rounds : Bool)
    (elem : Env → Fdr → Nat → Nat → Exact × Nat) : Host.Outcome State Fault Refusal :=
  runPure op f s (fun e =>
    match slotFor e f.slot.toNat 0 accepts with
    | .error i => .error i
    | .ok k =>
      let mode := if rounds then modeOf k (bits f.m.toNat 2 0) else 0
      let rs := (List.range (elems k)).map (fun i =>
        let (x, fl) := elem e k mode i
        let r := flushOut k (foOf f) (roundEl e k f.slot.toNat mode i x)
        (r.1, r.2 ||| fl))
      .ok ([dstEff f (packElems k.w (rs.map (·.1))), .nf (orAll (rs.map (·.2)))] ++ sxEff e mode (elems k)))

/-- Instructions of one operand, in b. -/
def fmt1 (op : Nat) (f : Fld) (s : State) (accepts : Fdr → Bool) (rounds : Bool) (g : Nat → Val → Exact × Nat) :
    Host.Outcome State Fault Refusal :=
  fmtRun op f s accepts rounds (fun e k m i =>
    let (b, fb) := opB e f k i
    let (x, fl) := g m b
    (x, fl ||| fb))

/-- Instructions of two operands; a NaN operand sets no flag of its own (R206). -/
def fmt2 (op : Nat) (f : Fld) (s : State) (accepts : Fdr → Bool) (rounds : Bool) (g : Nat → Val → Val → Exact × Nat) :
    Host.Outcome State Fault Refusal :=
  fmtRun op f s accepts rounds (fun e k m i =>
    let (a, fa) := opA e f k i
    let (b, fb) := opB e f k i
    let (x, fl) := g m a b
    (x, fl ||| fa ||| fb))

/-- Instructions of three operands (R210); with a NaN operand the result is NaN and no flag is set (R206). -/
def fmt3 (op : Nat) (f : Fld) (s : State) (g : Nat → Val → Val → Val → Exact × Nat) : Host.Outcome State Fault Refusal :=
  fmtRun op f s anyFormat true (fun e k m i =>
    let (a, fa) := opA e f k i
    let (b, fb) := opB e f k i
    let (c, fc) := opC e f k i
    let (x, fl) := if a.isNan || b.isNan || c.isNan then (Exact.val .nan, 0) else g m a b c
    (x, fl ||| fa ||| fb ||| fc))

/-- A product, exact, plus a term (R74, R206). -/
def fusedVal (m : Nat) (p : Val × Nat) (c : Val) : Val × Nat :=
  let r := sumVals [p.1, c] m
  (r.1, r.2 ||| p.2)

/-- One element comparison of FCMP and FSETP (R212). -/
def compareEl (e : Env) (f : Fld) (k : Fdr) (i : Nat) : Bool × Nat :=
  let (a, fa) := opA e f k i
  let (b, fb) := opB e f k i
  let r := fcompare (bits f.c.toNat 2 0) a b
  (r.1, r.2 ||| fa ||| fb)

/-- FRND of one value (R210). -/
def roundInteger (k : Fdr) (fo : Bool) (mode u : Nat) (b : Val) : Nat × Nat :=
  match b with
  | .fin neg q =>
    if 2 ≤ k.kind then flushOut k fo (roundVal k b mode u)
    else
      let lo := qFloor (qAbs q)
      let m : Int := if qCmp (qAbs q) (qOf lo) == .eq then lo
        else if chooseHi (qCmp (qAbs q)) neg mode u (qOf lo) (qOf (lo + 1)) ((lo + 1) % 2 == 0) then lo + 1 else lo
      let n : Val := .fin neg (qOf (if neg then -m else m))
      let r := flushOut k fo (roundVal k n mode u)
      let written := (codeVal k r.1).1
      let same : Bool := match written with | .fin _ w => qCmp w q == .eq | _ => false
      (r.1, Nat.land r.2 (511 - nfIX) + (if same then 0 else nfIX))
  | v => flushOut k fo (roundVal k v mode u)

/-- One rounded addition of a tree (R80): its value and nf bits. -/
def addRound (k : Fdr) (mode u : Nat) (x y : Val) : Val × Nat :=
  let (v, f1) := sumVals [x, y] mode
  let (c, f2) := roundVal k v mode u
  ((codeVal k c).1, f1 ||| f2)

def valLevel (combine : Val → Val → Val × Nat) : List Val → List Val × Nat
  | x :: y :: rest =>
    let (c, f) := combine x y
    let (r, g) := valLevel combine rest
    (c :: r, f ||| g)
  | xs => (xs, 0)

/-- The pairwise tree over element index (R80). -/
def valTree (combine : Val → Val → Val × Nat) : Nat → List Val → Val × Nat
  | 0, xs => (xs.headD .nan, 0)
  | n + 1, xs =>
    match xs with
    | [x] => (x, 0)
    | _ =>
      let (ys, f) := valLevel combine xs
      let (r, g) := valTree combine n ys
      (r, f ||| g)

/-- c + Σ a_i × b_i, exact (R81, R216): IV where the sum is a NaN made from operands that are none. -/
def dotVal (mode : Nat) (ps : List (Val × Val)) (c : Val) : Val × Nat :=
  if c.isNan || ps.any (fun p => p.1.isNan || p.2.isNan) then (.nan, 0)
  else
    let r := sumVals (c :: ps.map (fun p => (mulVal p.1 p.2).1)) mode
    (r.1, if r.1.isNan then nfIV else 0)

/-- The factor of SCALE and UNSCALE as an exponent; none where the scale is NaN (R214). -/
def scaleBy (x : Nat) (divide : Bool) : Option (Option Int) :=
  if x == 0xFF then some none else some (some (if divide then 127 - (x : Int) else (x : Int) - 127))

/-- CVT, SCALE and UNSCALE (R214, R215): slot D in the slot field, S in c; `how` gives the factor and the part. -/
def convert (op : Nat) (f : Fld) (s : State) (how : Nat → Option (Option Int) × Nat) : Host.Outcome State Fault Refusal :=
  runPure op f s (fun e =>
    match slotFor e f.slot.toNat 0 anyFormat with
    | .error i => .error i
    | .ok kd =>
      match slotFor e (f.c.toNat % 16) 1 anyFormat with
      | .error i => .error i
      | .ok ks =>
        let (factor, p) := how (if op == 0x6C then 0 else srcBz e f)
        let ls := elems ks
        let ld := elems kd
        let n := min ls ld
        if max ls ld ≤ p * n then .error (formatFault 0)
        else
          let sb := if ld < ls then p * n else 0
          let db := if ld < ls then 0 else p * n
          let mode := modeOf kd (bits f.m.toNat 2 0)
          let old := srcD e f
          let rs := (List.range ld).map (fun j =>
            let i := j - db
            if j < db || n ≤ i || ls ≤ sb + i then (elemAt kd.w old j, 0)
            else
              let (x, fl) := readCode ks (fiOf f) (elemAt ks.w (srcA e f) (sb + i))
              let y : Val := match factor with
                | none => x
                | some none => .nan
                | some (some ex) => (match x with | .fin g q => .fin g (qMul q (qPow2 ex)) | v => v)
              let r := flushOut kd (foOf f) (roundEl e kd f.slot.toNat mode j (.val y))
              (r.1, r.2 ||| fl))
          .ok ([dstEff f (packElems kd.w (rs.map (·.1))), .nf (orAll (rs.map (·.2)))] ++ sxEff e mode ld))

/-- The SOW-128 words of SOWG and SOWGF (R217). -/
def sowWords (e : Env) (f : Fld) : Nat × Nat × Nat × Nat :=
  let b := srcBz e f
  sow (srcA e f) (bits b 31 0) (bits b 63 32) (srcC e f)

/-- R210 FADD: a + b. -/
def execFadd (f : Fld) (s : State) : Host.Outcome State Fault Refusal :=
  fmt2 0x52 f s anyFormat true (fun m a b => vexact (sumVals [a, b] m))

/-- R210 FSUB: a − b. -/
def execFsub (f : Fld) (s : State) : Host.Outcome State Fault Refusal :=
  fmt2 0x53 f s anyFormat true (fun m a b => vexact (sumVals [a, b.negate] m))

/-- R210 FMUL: a × b. -/
def execFmul (f : Fld) (s : State) : Host.Outcome State Fault Refusal :=
  fmt2 0x54 f s anyFormat true (fun _ a b => vexact (mulVal a b))

/-- R210 FFMA: a × b + c, rounded once. -/
def execFfma (f : Fld) (s : State) : Host.Outcome State Fault Refusal :=
  fmt3 0x55 f s (fun m a b c => vexact (fusedVal m (mulVal a b) c))

/-- R210 FFMS: a × b − c, rounded once. -/
def execFfms (f : Fld) (s : State) : Host.Outcome State Fault Refusal :=
  fmt3 0x56 f s (fun m a b c => vexact (fusedVal m (mulVal a b) c.negate))

/-- R210 FNMA: c − a × b, rounded once. -/
def execFnma (f : Fld) (s : State) : Host.Outcome State Fault Refusal :=
  fmt3 0x57 f s (fun m a b c => let p := mulVal a b; vexact (fusedVal m (p.1.negate, p.2) c))

/-- R211 FMIN: the lesser; a NaN beside a number is ignored. -/
def execFmin (f : Fld) (s : State) : Host.Outcome State Fault Refusal :=
  fmt2 0x58 f s anyFormat false (fun _ a b => (.val (minmaxVal false false a b), 0))

/-- R211 FMAX: the greater; a NaN beside a number is ignored. -/
def execFmax (f : Fld) (s : State) : Host.Outcome State Fault Refusal :=
  fmt2 0x59 f s anyFormat false (fun _ a b => (.val (minmaxVal true false a b), 0))

/-- R211 FMINP: the lesser; NaN if either is NaN. -/
def execFminp (f : Fld) (s : State) : Host.Outcome State Fault Refusal :=
  fmt2 0x5A f s anyFormat false (fun _ a b => (.val (minmaxVal false true a b), 0))

/-- R211 FMAXP: the greater; NaN if either is NaN. -/
def execFmaxp (f : Fld) (s : State) : Host.Outcome State Fault Refusal :=
  fmt2 0x5B f s anyFormat false (fun _ a b => (.val (minmaxVal true true a b), 0))

/-- R211 FABS: |b|. -/
def execFabs (f : Fld) (s : State) : Host.Outcome State Fault Refusal :=
  fmt1 0x5C f s anyFormat false (fun _ b => (.val b.abs, 0))

/-- R211 FNEG: −b. -/
def execFneg (f : Fld) (s : State) : Host.Outcome State Fault Refusal :=
  fmt1 0x5D f s anyFormat false (fun _ b => (.val b.negate, 0))

/-- R211 FCPYS: |a| with the sign of b; the sign bit of the code where b is a NaN. -/
def execFcpys (f : Fld) (s : State) : Host.Outcome State Fault Refusal :=
  fmtRun 0x5E f s anyFormat false (fun e k _ i =>
    let (a, fa) := opA e f k i
    let (b, fb) := opB e f k i
    let neg : Bool := match b with
      | .nan => k.sgn && bit (elemAt k.w (srcBslot e f k) i) (k.w - 1)
      | .fin n q => if 2 ≤ k.kind then qNegative q else n
      | .inf n => n
    let r : Val := match a with
      | .fin _ q => .fin neg (if neg then qNeg (qAbs q) else qAbs q)
      | .inf _ => .inf neg
      | .nan => .nan
    (.val r, fa ||| fb))

/-- R211 FCLAMP: a bounded by lo = b and then by hi = c. -/
def execFclamp (f : Fld) (s : State) : Host.Outcome State Fault Refusal :=
  fmtRun 0x5F f s anyFormat false (fun e k _ i =>
    let (a, fa) := opA e f k i
    let (lo, fb) := opB e f k i
    let (hi, fc) := opC e f k i
    let r : Val := if a.isNan then .nan
      else
        let r := if !lo.isNan && valLt a lo then lo else a
        if !hi.isNan && valLt hi r then hi else r
    (.val r, fa ||| fb ||| fc))

/-- R210 FDIV: a / b. -/
def execFdiv (f : Fld) (s : State) : Host.Outcome State Fault Refusal :=
  fmt2 0x60 f s anyFormat true (fun _ a b => let r := divVal a b; (.val r.1, r.2.1))

/-- R210 FSQRT: √b. -/
def execFsqrt (f : Fld) (s : State) : Host.Outcome State Fault Refusal :=
  fmt1 0x61 f s anyFormat true (fun _ b => sqrtVal b)

/-- R210 FRCP: 1 / b. -/
def execFrcp (f : Fld) (s : State) : Host.Outcome State Fault Refusal :=
  fmt1 0x62 f s anyFormat true (fun _ b => let r := divVal (valOf (qOf 1)) b; (.val r.1, r.2.1))

/-- R210 FRSQ: 1 / √b. -/
def execFrsq (f : Fld) (s : State) : Host.Outcome State Fault Refusal :=
  fmt1 0x63 f s anyFormat true (fun _ b => rsqrtVal b)

/-- R210 FEXP2: 2^b, kinds 0, 1 and 4. -/
def execFexp2 (f : Fld) (s : State) : Host.Outcome State Fault Refusal :=
  fmt1 0x64 f s realFormat true (fun _ b => exp2Val b)

/-- R210 FLOG2: log2 b. -/
def execFlog2 (f : Fld) (s : State) : Host.Outcome State Fault Refusal :=
  fmt1 0x65 f s realFormat true (fun _ b => log2Val b)

/-- R210 FSIN: sin b, b in radians. -/
def execFsin (f : Fld) (s : State) : Host.Outcome State Fault Refusal :=
  fmt1 0x66 f s realFormat true (fun _ b => trigVal false b)

/-- R210 FCOS: cos b. -/
def execFcos (f : Fld) (s : State) : Host.Outcome State Fault Refusal :=
  fmt1 0x67 f s realFormat true (fun _ b => trigVal true b)

/-- R212 FCMP: a mask element for each comparison. -/
def execFcmp (f : Fld) (s : State) : Host.Outcome State Fault Refusal :=
  runPure 0x68 f s (fun e =>
    match slotFor e f.slot.toNat 0 anyFormat with
    | .error i => .error i
    | .ok k =>
      let rs := (List.range (elems k)).map (compareEl e f k)
      .ok [dstEff f (packElems k.w (rs.map (fun r => if r.1 then ones k.w else 0))), .nf (orAll (rs.map (·.2)))])

/-- R212 FSETP: one predicate from element 0, from all elements or from some. -/
def execFsetp (f : Fld) (s : State) : Host.Outcome State Fault Refusal :=
  runPure 0x69 f s (fun e =>
    match slotFor e f.slot.toNat 1 anyFormat with
    | .error i => .error i
    | .ok k =>
      let comb := bits f.c.toNat 4 3
      let rs := (List.range (if comb == 0 then 1 else elems k)).map (compareEl e f k)
      .ok [.p f.d.toNat (if comb == 2 then rs.any (·.1) else rs.all (·.1)), .nf (orAll (rs.map (·.2)))])

/-- R213 FCLASS: all ones where the class of the element is named by b. -/
def execFclass (f : Fld) (s : State) : Host.Outcome State Fault Refusal :=
  runPure 0x6A f s (fun e =>
    match slotFor e f.slot.toNat 0 anyFormat with
    | .error i => .error i
    | .ok k =>
      let b := srcBz e f
      let rs := (List.range (elems k)).map (fun i => fclassOf k (fiOf f) (elemAt k.w (srcA e f) i))
      .ok [dstEff f (packElems k.w (rs.map (fun r => if bit b r.1 then ones k.w else 0))), .nf (orAll (rs.map (·.2)))])

/-- R213 FSEL: the element of a where the code of c is not 0, else that of b. -/
def execFsel (f : Fld) (s : State) : Host.Outcome State Fault Refusal :=
  fmtRun 0x6B f s anyFormat false (fun e k _ i =>
    let (v, fl) := if elemAt k.w (srcC e f) i != 0 then opA e f k i else opB e f k i
    (.val v, fl))

/-- R214, R215 CVT. -/
def execCvt (f : Fld) (s : State) : Host.Outcome State Fault Refusal :=
  convert 0x6C f s (fun _ => (none, f.b.toNat % 64))

/-- R210 FRND: to an integer by the mode, then into the slot; IX exactly when the written value differs. -/
def execFrnd (f : Fld) (s : State) : Host.Outcome State Fault Refusal :=
  runPure 0x6D f s (fun e =>
    match slotFor e f.slot.toNat 0 anyFormat with
    | .error i => .error i
    | .ok k =>
      let mode := modeOf k (bits f.m.toNat 2 0)
      let rs := (List.range (elems k)).map (fun i =>
        let (b, fl) := opB e f k i
        let r := roundInteger k (foOf f) mode (if mode == 5 then drawFor e f.slot.toNat i else 0) b
        (r.1, r.2 ||| fl))
      .ok ([dstEff f (packElems k.w (rs.map (·.1))), .nf (orAll (rs.map (·.2)))] ++ sxEff e mode (elems k)))

/-- R210 FSCL: a × 2^n, n the 64-bit signed source b. -/
def execFscl (f : Fld) (s : State) : Host.Outcome State Fault Refusal :=
  fmtRun 0x6E f s anyFormat true (fun e k _ i =>
    let (a, fl) := opA e f k i
    let n := max (-8192) (min 8192 (sext (srcBs e f) 64))
    let r : Val := match a with | .fin g q => .fin g (qMul q (qPow2 n)) | v => v
    (.val r, fl))

/-- R210 FXEXP: floor(log2 |b|). -/
def execFxexp (f : Fld) (s : State) : Host.Outcome State Fault Refusal :=
  fmt1 0x6F f s anyFormat true (fun _ b => match b with
    | .nan => (.val .nan, 0)
    | .inf _ => (.val (.inf false), 0)
    | .fin _ q => if qIsZero q then (.val (.inf true), 0) else (.val (valOf (qOf (qLog2 q))), 0))

/-- R214, R215 SCALE: × 2^(127 − X). -/
def execScale (f : Fld) (s : State) : Host.Outcome State Fault Refusal :=
  convert 0x70 f s (fun b => (scaleBy (bits b 7 0) true, bits b 13 8))

/-- R214, R215 UNSCALE: × 2^(X − 127). -/
def execUnscale (f : Fld) (s : State) : Host.Outcome State Fault Refusal :=
  convert 0x71 f s (fun b => (scaleBy (bits b 7 0) false, bits b 13 8))

/-- R216 FHSUM: the pairwise tree of R80, rounded at each node with E = sx. -/
def execFhsum (f : Fld) (s : State) : Host.Outcome State Fault Refusal :=
  runPure 0x72 f s (fun e =>
    match slotFor e f.slot.toNat 0 anyFormat with
    | .error i => .error i
    | .ok k =>
      let mode := modeOf k (bits f.m.toNat 2 0)
      let u := if mode == 5 then drawFor e f.slot.toNat 0 else 0
      let xs := (List.range (elems k)).map (fun i => opB e f k i)
      let (v, fl) := valTree (fun x y => addRound k mode u x y) 6 (xs.map (·.1))
      let r := flushOut k (foOf f) (roundVal k v mode u)
      .ok ([dstEff f r.1, .nf (r.2 ||| fl ||| orAll (xs.map (·.2)))] ++ sxEff e mode (elems k)))

/-- R216 FHMAX: the greatest element under the order of FMAX. -/
def execFhmax (f : Fld) (s : State) : Host.Outcome State Fault Refusal :=
  runPure 0x73 f s (fun e =>
    match slotFor e f.slot.toNat 0 anyFormat with
    | .error i => .error i
    | .ok k =>
      let xs := (List.range (elems k)).map (fun i => opB e f k i)
      let v := (xs.map (·.1)).foldl (minmaxVal true false) .nan
      let r := writeVal k (foOf f) v
      .ok [dstEff f r.1, .nf (r.2 ||| orAll (xs.map (·.2)))])

/-- R216 FDOT: c0 + Σ a_i × b_i, exact and rounded once; kinds 0, 2, 3 and 4. -/
def execFdot (f : Fld) (s : State) : Host.Outcome State Fault Refusal :=
  runPure 0x74 f s (fun e =>
    match slotFor e f.slot.toNat 0 (fun k => k.kind != 1) with
    | .error i => .error i
    | .ok k =>
      let mode := modeOf k (bits f.m.toNat 2 0)
      let xs := (List.range (elems k)).map (fun i => (opA e f k i, opB e f k i))
      let c := opC e f k 0
      let (v, fl) := dotVal mode (xs.map (fun p => (p.1.1, p.2.1))) c.1
      let r := flushOut k (foOf f) (roundEl e k f.slot.toNat mode 0 (.val v))
      .ok ([dstEff f r.1, .nf (r.2 ||| fl ||| c.2 ||| orAll (xs.map (fun p => p.1.2 ||| p.2.2)))] ++ sxEff e mode (elems k)))

/-- R217 SOWG: the four output words into vd and v(d+1). -/
def execSowg (f : Fld) (s : State) : Host.Outcome State Fault Refusal :=
  runPure 0x75 f s (fun e =>
    let o := sowWords e f
    .ok [.v f.d.toNat (o.1 + 2 ^ 32 * o.2.1), .v (f.d.toNat + 1) (o.2.2.1 + 2 ^ 32 * o.2.2.2)])

/-- R217 SOWGF: uniform values in [0, 1), rounded toward zero; kinds 0, 1 and 4 of width 13 or more. -/
def execSowgf (f : Fld) (s : State) : Host.Outcome State Fault Refusal :=
  runPure 0x76 f s (fun e =>
    match slotFor e f.slot.toNat 0 (fun k => realFormat k && decide (13 ≤ k.w)) with
    | .error i => .error i
    | .ok k =>
      let o := sowWords e f
      let ws := [o.1, o.2.1, o.2.2.1, o.2.2.2]
      let codes := if k.w ≤ 32 then
          (List.range (elems k)).map (fun i => (roundVal k (valOf (qMk ((ws.getD i 0 : Nat) : Int) (2 ^ 32))) 1 0).1)
        else [(roundVal k (valOf (qMk ((o.1 + 2 ^ 32 * o.2.1 : Nat) : Int) (2 ^ 64))) 1 0).1]
      .ok [.v f.d.toNat (packElems k.w codes)])

/-- R208, R209 FDSET: the lowest guard-true lane writes the slot; a value that breaks R58 is a format fault for all. Every
thread reads the new definition at once, where R209 allows the old one too before it synchronises (the model's choice, log 35). -/
def execFdset (f : Fld) (s : State) : Host.Outcome State Fault Refusal :=
  runOnce 0x50 f s (fun s e _ =>
    let v := srcA e f
    if fdrValid v then .ok (modCtx s e.x.id (fun x => { x with fd := x.fd.set f.slot.toNat (BitVec.ofNat 64 v) }))
    else .fault s (formatFault 0))

/-- R208 FDGET: the 64 bits of the slot. -/
def execFdget (f : Fld) (s : State) : Host.Outcome State Fault Refusal :=
  runPure 0x51 f s (fun e => .ok [dstEff f (slotWord e.x f.slot.toNat)])

end Sys2Proof.Machine
end

