-- ==== Sys2Proof/Machine/Barriers.lean ====
section
/-! DEFINITION. Barriers (spec 01 R47-R50, 08 R241-R242, headland barriers 13 R337), the end of a thread (01 R24, R47; 06
R184), threads held at a cross-lane instruction or a window operation (01 R33, 06 R186), the windows of registers (06
R185-R190). -/
namespace Sys2Proof.Machine

/-! ## Grids, clusters -/

def modGrid (s : State) (ctx acc : Nat) (f : Grid → Grid) : State :=
  modCtx s ctx (fun c => { c with grids := updIf (fun g => g.acc == acc) f c.grids })
def grid? (s : State) (ctx acc : Nat) : Option Grid := (ctx? s ctx).bind (fun c => c.grids.find? (fun g => g.acc == acc))

def sameCluster (t u : Team) : Bool := u.role == .compute && u.ctx == t.ctx && u.acc == t.acc && u.cix == t.cix
def sameGrid (t u : Team) : Bool := u.role == .compute && u.ctx == t.ctx && u.acc == t.acc

def aliveCount (t : Team) : Nat := (t.groups.map (fun g => (g.threads.filter alive).length)).sum
def sumNat (xs : List Nat) : Nat := xs.foldl (· + ·) 0

/-! ## Barriers -/

/-- Which barrier a number names for a container (R157, R337). -/
inductive BarRef
  | team (n : Nat)
  | cluster (n : Nat)
  | grid (n : Nat)
  /-- barrier n of a headland core, for the slot -/
  | headland (coreNo n slot : Nat)
  deriving DecidableEq, Repr

/-- Byte N of a headland core's membership register (R337). -/
def headlandMembers (s : State) (coreNo n : Nat) : Nat :=
  bits (ctlGet s (0x110000 + 16 * coreNo + 8 * (n / 8))) (8 * (n % 8) + 7) (8 * (n % 8))

/-- The barrier that a thread names, when its launch provides it (R48, R337). -/
def barRef (s : State) (t : Team) (n : Nat) : Option BarRef :=
  match t.role with
  | .queue q => if n < 16 && bit (headlandMembers s (q / 8) n) (q % 8) then some (.headland (q / 8) n (q % 8)) else none
  | .patch _ => none
  | .compute =>
    if n < 16 then some (.team n)
    else if n < 24 then (if 1 < t.kern.cw * t.kern.ch then some (.cluster (n - 16)) else none)
    else if t.kind == 2 then some (.grid (n - 24)) else none

/-- The scope of a barrier as a scope code (R50, R337). -/
def barScope : BarRef → Nat
  | .team _ => 2
  | .cluster _ => 3
  | .grid _ => 5
  | .headland _ _ _ => 5

def hlBarrier (s : State) (coreNo n : Nat) : Barrier :=
  match s.hlbars.find? (fun b => b.1 == 16 * coreNo + n) with
  | some b => b.2
  | none => barrier0

def barGet (s : State) (t : Team) (r : BarRef) : Barrier :=
  match r with
  | .team n => t.tbs.getD n barrier0
  | .cluster n => t.cbs.getD n barrier0
  | .grid n => (match grid? s t.ctx t.acc with | some g => g.gbs.getD n barrier0 | none => barrier0)
  | .headland c n _ => hlBarrier s c n

/-- A barrier changed; every team of a cluster holds the same cluster barriers. -/
def barMod (s : State) (t : Team) (r : BarRef) (f : Barrier → Barrier) : State :=
  match r with
  | .team n => modTeam s t.uid (fun t => { t with tbs := t.tbs.modify n f })
  | .cluster n => { s with teams := updIf (sameCluster t) (fun u => { u with cbs := u.cbs.modify n f }) s.teams }
  | .grid n => modGrid s t.ctx t.acc (fun g => { g with gbs := g.gbs.modify n f })
  | .headland c n _ => { s with hlbars := (16 * c + n, f (hlBarrier s c n)) :: s.hlbars.filter (fun b => b.1 != 16 * c + n) }

/-- The number of clusters of a grid (R20). -/
def gridClusters (g : Grid) : Nat := g.gdim.1 * g.gdim.2.1 * g.gdim.2.2

/-- Threads that the clusters not yet placed bring (R47): all of them, and those of saved teams. -/
def pendingThreads (g : Grid) : Nat :=
  (gridClusters g - g.next) * (32 * g.kern.ngroups * g.kern.cw * g.kern.ch)
  + sumNat (g.waiting.map (fun p => sumNat (p.teams.map aliveCount)))

/-- Members of the current phase (R47, R337). -/
def barMembers (s : State) (t : Team) (r : BarRef) : Nat :=
  match r with
  | .team _ => aliveCount t
  | .cluster _ => sumNat ((s.teams.filter (sameCluster t)).map aliveCount)
  | .grid _ => sumNat ((s.teams.filter (sameGrid t)).map aliveCount)
      + (match grid? s t.ctx t.acc with | some g => pendingThreads g | none => 0)
  | .headland c n _ => popCount 8 (headlandMembers s c n)

/-- The number of a barrier in the arrival bitmaps. -/
def barIndex : BarRef → Nat
  | .team n => n
  | .cluster n => 16 + n
  | .grid n => 24 + n
  | .headland _ n _ => n

def clearArr (n : Nat) (t : Team) : Team :=
  { t with groups := t.groups.map (fun g => { g with threads := g.threads.map (fun th =>
      { th with arr := BitVec.ofNat 28 (setBits th.arr.toNat n n 0), voided := BitVec.ofNat 28 (setBits th.voided.toNat n n 0) }) }) }

/-- The members' arrivals are spent when a phase completes. -/
def barClear (s : State) (t : Team) (r : BarRef) : State :=
  let n := barIndex r
  match r with
  | .team _ => modTeam s t.uid (clearArr n)
  | .cluster _ => { s with teams := updIf (sameCluster t) (clearArr n) s.teams }
  | .grid _ =>
    modGrid { s with teams := updIf (sameGrid t) (clearArr n) s.teams } t.ctx t.acc
      (fun g => { g with waiting := g.waiting.map (fun p => { p with teams := p.teams.map (clearArr n) }) })
  | .headland c _ _ => { s with teams := updIf (fun u => match u.role with | .queue q => q / 8 == c | _ => false) (clearArr n) s.teams }

/-- The next phase (R49, R242). -/
def barComplete (b : Barrier) : Barrier :=
  { phase := !b.phase, count := 0, flags := 0, result := b.flags, x := 0, y := b.y - b.x }

/-- Completes the phase when every member has arrived and the external arrivals are there (R49, R242). -/
def barCheck (s : State) (uid : Nat) (r : BarRef) : State :=
  match team? s uid with
  | none => s
  | some t =>
    let b := barGet s t r
    let m := barMembers s t r
    if 0 < m && decide (m ≤ b.count) && decide (b.x.toNat ≤ b.y.toNat) then barMod (barClear s t r) t r barComplete else s

/-- One arrival of a thread with flags and an external expectation (R49, R242). -/
def barArrive (s : State) (e : Env) (r : BarRef) (flags x : Nat) : State :=
  let n := barIndex r
  let s := barMod s e.t r (fun b => { b with count := b.count + 1, flags := b.flags ||| BitVec.ofNat 16 flags, x := b.x + BitVec.ofNat 32 x })
  let s := modThread s e.c.w e.lane (fun th => { th with
    arr := BitVec.ofNat 28 (setBits th.arr.toNat n n 1), anw := BitVec.ofNat 28 (setBits th.anw.toNat n n 1),
    voided := BitVec.ofNat 28 (setBits th.voided.toNat n n 0) })
  barCheck s e.t.uid r

/-- The barriers that a thread of a team belongs to. -/
def allRefs (s : State) (t : Team) : List BarRef := (List.range 28).filterMap (barRef s t)

/-! ## Threads held by the hardware -/

/-- The bit of R384's forms for a long form. -/
def formBit : Form → Nat
  | .w32 => 1
  | .w64 => 2
  | .w96 => 3

/-- The issue group that threads held at one address are. -/
def heldCur (w : Where) (lanes : List Nat) (pc next dword gen : Nat) (f : Fld) : Cur :=
  { w := w, lanes := lanes, pc := pc, next := next, dword := dword, lit := f.lit.toNat, form := formBit f.form, noPatch := false,
    noG := false, gen := gen }

/-- A thread that is held, as the issue group of one that it is. -/
def heldAs (w : Where) (lane : Nat) (th : Thread) : Option Cur :=
  match th.status with
  | .heldLane _ f next d => some (heldCur w [lane] th.pc.toNat next d th.gen f)
  | .heldWindow _ f next d => some (heldCur w [lane] th.pc.toNat next d th.gen f)
  | _ => none

/-- Held threads take a fault, those of each address together, lowest lane first (R33, R186). -/
def faultHeld (s : State) (w : Where) (lanes : List Nat) (i : FaultInfo) : State :=
  let hs := lanes.filterMap (fun l => (thread? s w l).bind (fun th => heldAs w l th))
  let pcs := (hs.map (·.pc)).eraseDups
  pcs.foldl (fun s pc =>
    match hs.filter (fun c => c.pc == pc) with
    | [] => s
    | c :: rest => takeFault s { c with lanes := c.lanes ++ rest.flatMap (·.lanes) } (c.lanes ++ rest.flatMap (·.lanes)) i) s

/-! ## Register windows (spec 06 R185-R190) -/

/-- The kinds of window operation that must agree (R186). -/
def windowKind (op : Nat) : Nat :=
  match op with
  | 0x06 => 0
  | 0x07 => 0
  | 0x09 => 1
  | 0x0B => 2
  | _ => 3

/-- The offset of a PC-relative target in halfwords, 18 bits and 12 bits (R182). -/
def off18 (f : Fld) : Int :=
  sext (bits f.b.toNat 5 0 * 2 ^ 12 + bits f.a.toNat 5 0 * 2 ^ 6 + bits f.d.toNat 5 0) 18
    + 2 ^ 18 * sext (f.c.toNat * 2 ^ 6 + bits f.b.toNat 7 6 * 2 ^ 4 + bits f.a.toNat 7 6 * 2 ^ 2 + bits f.d.toNat 7 6) 14
def off12 (f : Fld) : Int :=
  sext (bits f.b.toNat 5 0 * 2 ^ 6 + bits f.a.toNat 5 0) 12
    + 2 ^ 12 * sext (f.c.toNat * 2 ^ 4 + bits f.b.toNat 7 6 * 2 ^ 2 + bits f.a.toNat 7 6) 12
def relTarget (pc : Nat) (off : Int) : Nat := ofInt 64 ((pc : Int) + 2 * off)

/-- Local address of a ring row (R95). -/
def rowAddr (t : Team) (g : Group) (row : Nat) : Nat := ubase t.kern g.idx + 512 + 256 * (row % ringRows t.kern)

/-- Stores or loads one backing-store row, lane by lane, as NORMAL accesses of the group's threads (R190); a link's bytes
are taken from their target (R401). The 8 bytes of a lane that has ended go out with the lowest held thread. -/
def spillRow (s : State) (e : Env) (row va : Nat) : Except FaultInfo State :=
  (List.range 32).foldl (fun (r : Except FaultInfo State) l =>
    match r with
    | .error f => .error f
    | .ok s =>
      let a := rowAddr e.t e.g row + 8 * l
      if e.t.lpoison.contains (a / 8) then .error { code := .poison, detail := 1, data := a }
      else
        match checkGlobal s e.x (va + 8 * l) 8 .frameStore with
        | .error f => .error f
        | .ok loc =>
          let lane := match e.g.threads[l]? with | some th => if alive th then l else e.lane | none => e.lane
          let unit (pa : Nat) : List (Nat × Byte × Byte) := fullUnit pa (e.t.lmem.readList a 8)
          match loc with
          | .mem pa ty =>
            if targetOf s pa == .hbm then
              .ok (storeHbm s e.t.die e.t.site ty (writerOf e.t e.g.idx l) false (fun _ => pageRaw s e.x (va + 8 * l)) (unit pa))
            else .ok (putStore s { e with lane := lane } 0 (va + 8 * l) loc false (fun _ => false) (unit pa))
          | .win _ _ => .ok s) (.ok s)

def fillRow (s : State) (e : Env) (row va : Nat) : Except FaultInfo State :=
  (List.range 32).foldl (fun (r : Except FaultInfo State) l =>
    match r with
    | .error f => .error f
    | .ok s =>
      match checkGlobal s e.x (va + 8 * l) 8 .frameLoad with
      | .error f => .error f
      | .ok _ =>
        match loadNow s e.x e.t.die e.t.site (va + 8 * l) 8 .frameLoad with
        | .error f => .error f
        | .ok (bs, s) => .ok (modTeam s e.t.uid (fun t => lwrite8 t (rowAddr e.t e.g row + 8 * l) (ofBytes bs)))) (.ok s)

def moveRows (one : State → Nat → Nat → Except FaultInfo State) (s : State) (rows : List Nat) (va : Nat) : Except FaultInfo State :=
  (rows.zipIdx).foldl (fun (r : Except FaultInfo State) p => match r with
    | .error f => .error f
    | .ok s => one s p.1 (va + 256 * p.2)) (.ok s)

/-- The window state after a change (R185). -/
def setWindow (s : State) (w : Where) (o res bsp : Nat) : State :=
  modGroup s w (fun g => { g with o := o, res := res, bsp := BitVec.ofNat 64 bsp })

/-- A held thread's transfer: target, code object and link (R187, R188), or the fault of its registers. -/
def windowTarget (s : State) (e : Env) (op : Nat) (f : Fld) : Except FaultInfo (Nat × Option Nat × Nat × State) :=
  match registerFault e op f with
  | some i => .error i
  | none =>
  let h := if op == 0x09 then some (readV e.t e.g e.lane 0) else if op == 0x07 then some (srcA e f) else none
  match h with
  | some h =>
    (match resolve s e.x e.t h with
     | .error f => .error f
     | .ok (target, s) =>
       if op == 0x09 then .ok (target, some (bits h 63 40), 0, s)
       else
         match handleOf s e.x e.t e.th.cid.toNat e.c.next with
         | .error f => .error f
         | .ok (link, s) => .ok (target, some (bits h 63 40), link, s))
  | none =>
    match handleOf s e.x e.t e.th.cid.toNat e.c.next with
    | .error f => .error f
    | .ok (link, s) => .ok (relTarget e.c.pc (off12 f), none, link, s)

/-- What a window operation does to the rows and the window (R187-R189): whether the limits let it, whether rows are
spilled, the rows and where they go, then o, res and bsp. -/
structure WindowPlan where
  fits : Bool
  spills : Bool
  rows : List Nat
  va : Nat
  o : Nat
  res : Nat
  bsp : Nat

def windowPlan (t : Team) (g : Group) (op n : Nat) : WindowPlan :=
  let a := ringRows t.kern
  let bsp := g.bsp.toNat
  match windowKind op with
  | 0 =>
    let k := g.res + n + t.kern.f - a
    { fits := decide (bsp + 256 * k ≤ g.bsl.toNat), spills := true, rows := (List.range k).map (fun r => g.o + a - g.res + r), va := bsp,
      o := (g.o + n) % a, res := g.res + n - k, bsp := bsp + 256 * k }
  | 1 =>
    let need := n - g.res
    { fits := need == 0 || decide (g.bsb.toNat + 256 * need ≤ bsp), spills := false,
      rows := (List.range need).map (fun r => g.o + n * a - n + r), va := bsp - 256 * need,
      o := (g.o + n * a - n) % a, res := max g.res n - n, bsp := bsp - 256 * need }
  | 2 =>
    { fits := decide (n ≤ g.res) && decide (bsp + 256 * n ≤ g.bsl.toNat), spills := true,
      rows := (List.range n).map (fun r => g.o + a - g.res + r), va := bsp, o := g.o, res := g.res - n, bsp := bsp + 256 * n }
  | _ =>
    { fits := decide (g.res + n + t.kern.f ≤ a) && decide (g.bsb.toNat + 256 * n ≤ bsp), spills := false,
      rows := (List.range n).map (fun r => g.o + a - g.res - n + r), va := bsp - 256 * n, o := g.o, res := g.res + n,
      bsp := bsp - 256 * n }

/-- The targets, code objects and links of the held threads, read before any register or window moves, or the faults. -/
def windowTargets (s : State) (op : Nat) (hs : List (Env × Fld)) : State × List (Env × Nat × Option Nat × Nat) × List (Nat × FaultInfo) :=
  hs.foldl (fun r p =>
    if windowKind op ≤ 1 then
      match windowTarget r.1 p.1 (match p.1.th.status with | .heldWindow o _ _ _ => o | _ => op) p.2 with
      | .error i => (r.1, r.2.1, r.2.2 ++ [(p.1.lane, i)])
      | .ok (tg, c, l, s) => (s, r.2.1 ++ [(p.1, tg, c, l)], r.2.2)
    else (r.1, r.2.1 ++ [(p.1, p.1.c.next, none, 0)], r.2.2)) (s, [], [])

/-- One window operation for a group, all of whose live threads stand at it (R187-R190): the limits, the rows, the targets;
a fault at any of them leaves everything as it was. -/
def windowExec (s : State) (hs : List Env) (op n : Nat) (fs : List Fld) : State :=
  match hs with
  | [] => s
  | e :: _ =>
    let w := e.c.w
    let p := windowPlan e.t e.g op n
    let fail (i : FaultInfo) : State := faultHeld s w (hs.map (·.lane)) i
    if !p.fits then fail { code := .frameLimit }
    else
      match moveRows (fun s r va => if p.spills then spillRow s e r va else fillRow s e r va) s p.rows p.va with
      | .error i => fail i
      | .ok s' =>
        match windowTargets s' op (hs.zip fs) with
        | (_, _, (l, i) :: bad) => faultHeld s w (l :: (bad.filter (fun b => b.2.code == i.code)).map (·.1)) i
        | (s', ts, []) =>
          ts.foldl (fun s q =>
            let s := if windowKind op == 0 then writeV s w q.1.lane 0 q.2.2.2 else s
            modThread s w q.1.lane (fun th => { th with
              pc := BitVec.ofNat 64 q.2.1, status := .running, last := s.tick,
              cid := match q.2.2.1 with | some c => BitVec.ofNat 24 c | none => th.cid })) (setWindow s' w p.o p.res p.bsp)

/-- Executes the window operation of a group when all its live threads are held at one (R186); that is the moment at which they
issue (R27). -/
def windowTry (s : State) (w : Where) : State :=
  match group? s w with
  | none => s
  | some g =>
    let live := liveLanes g
    let hs := live.filterMap (fun l => match g.threads[l]? with
      | some th => (match th.status with | .heldWindow op f _ _ => some (l, th, op, f) | _ => none)
      | none => none)
    if live.isEmpty || hs.length != live.length then s
    else
      match hs with
      | [] => s
      | (_, th0, op0, f0) :: _ =>
        let kind := windowKind op0
        let on := guardTrue f0 th0
        if hs.any (fun h => windowKind h.2.2.1 != kind || h.2.2.2.d != f0.d || guardTrue h.2.2.2 h.2.1 != on) then
          faultHeld s w live { code := .windowDivergence }
        else if !on then
          hs.foldl (fun s h => match h.2.1.status with
            | .heldWindow _ _ next _ => modThread (goto s w [h.1] next) w h.1 (fun th => { th with last := s.tick })
            | _ => s) s
        else
          let es := hs.filterMap (fun h => (heldAs w h.1 h.2.1).bind (fun c => env? s c h.1))
          windowExec s es op0 f0.d.toNat (hs.map (fun h => h.2.2.2))

/-- A thread of the issue group arrives at a window operation, whatever its guard (R186). -/
def windowArrive (op : Nat) (f : Fld) (s : State) : Host.Outcome State Fault Refusal :=
  withCur s (fun c =>
    windowTry (modThreads s c.w c.lanes (fun th => { th with status := .heldWindow op f c.next c.dword })) c.w)

/-! ## The end of a thread -/

/-- An ending thread leaves its barriers (R47). -/
def leaveBarriers (s : State) (t : Team) (w : Where) (lane : Nat) : State :=
  match t.role, thread? s w lane with
  | .compute, some th =>
    (allRefs s t).foldl (fun s r =>
      if bit th.arr.toNat (barIndex r) then barMod s t r (fun b => { b with count := b.count - 1 }) else s) s
  | _, _ => s

/-- Loads of an ended thread deliver nothing (R184). -/
def dropParts (lane : Nat) (g : Group) : Group :=
  { g with ops := g.ops.map (fun o => { o with parts := o.parts.filter (fun p => p.lane != lane) }) }

/-- The end of a thread (R24, R36, R47, R184, R33). -/
def endThread (s : State) (w : Where) (lane : Nat) : State :=
  match team? s w.uid with
  | none => s
  | some t =>
    let s := leaveBarriers s t w lane
    -- the slot of a queue program stays a member, and an arrival of the phase stays made (R337)
    let s := modThread s w lane (fun th => { th with
      status := .ended, watch := none, arr := (match t.role with | .queue _ => th.arr | _ => 0), anw := 0, voided := 0 })
    let s := modGroup s w (dropParts lane)
    let s := match t.role with
      | .compute => (allRefs s t).foldl (fun s r => barCheck s w.uid r) s
      | _ => s
    let held := match group? s w with
      | some g => (List.range g.threads.length).filter (fun l => match g.threads[l]? with
        | some th => (match th.status with | .heldLane m _ _ _ => bit m lane | _ => false)
        | none => false)
      | none => []
    let s := if held.isEmpty then s else faultHeld s w held { code := .crossLaneMember }
    let s := windowTry s w
    match team? s w.uid with
    | none => s
    | some t =>
      if !t.harrow.isEmpty && t.groups.all (fun g => g.threads.all (fun th => !alive th || th.status == .deposited)) then
        modTeam s t.uid (fun t => { t with harrowClosed := true })
      else s

end Sys2Proof.Machine
end

