-- ==== Sys2Proof/Machine/Control.lean ====
section
/-! DEFINITION. The control class (spec 06 R182-R201): transfers, windows, traps, special registers, SYSQ, waiting on
memory, code maintenance. -/
namespace Sys2Proof.Machine

/-- R194 NOP: nothing. -/
def execNop (f : Fld) (s : State) : Host.Outcome State Fault Refusal := runPure 0x00 f s (fun _ => .ok [])

/-- R195 TRAP n: to the handler, or the unhandled-trap fault. -/
def execTrap (f : Fld) (s : State) : Host.Outcome State Fault Refusal :=
  runSeq 0x01 f s (fun s e =>
    match trapEntry s e f.c.toNat e.c.next with
    | none => .fault s { code := .unhandledTrap, data := f.c.toNat }
    | some (.error i) => .fault s i
    | some (.ok s) => .placed s)

/-- R195 TRET: out of the handler. -/
def execTret (f : Fld) (s : State) : Host.Outcome State Fault Refusal :=
  runSeq 0x1B f s (fun s e => match trapReturn s e with | .error i => .fault s i | .ok s => .placed s)

/-- R196 BRK n: the breakpoint fault. -/
def execBrk (f : Fld) (s : State) : Host.Outcome State Fault Refusal :=
  runSeq 0x17 f s (fun s _ => .fault s { code := .breakpoint, data := f.c.toNat })

/-- R183 BRA: pc := target. -/
def execBra (f : Fld) (s : State) : Host.Outcome State Fault Refusal :=
  runPure 0x02 f s (fun e => .ok [.jump (relTarget e.c.pc (off18 f))])

/-- A transfer through a handle (R180, R183). -/
def toHandle (s : State) (e : Env) (h : Nat) (link : Option (Nat × Nat)) : StepR :=
  match resolve s e.x e.t h with
  | .error i => .fault s i
  | .ok (target, s) =>
    let s := match link with | some (n, v) => writeV s e.c.w e.lane n v | none => s
    .placed (modThread s e.c.w e.lane (fun th => { th with
      pc := BitVec.ofNat 64 target, cid := BitVec.ofNat 24 (bits h 63 40), status := .running }))

/-- R183 BRX: transfer to the handle in a. -/
def execBrx (f : Fld) (s : State) : Host.Outcome State Fault Refusal :=
  runSeq 0x03 f s (fun s e => toHandle s e (srcA e f) none)

/-- R183 RET: transfer to the handle in a. -/
def execRet (f : Fld) (s : State) : Host.Outcome State Fault Refusal :=
  runSeq 0x08 f s (fun s e => toHandle s e (srcA e f) none)

/-- R183 CALL: vd := h(next); pc := target. -/
def execCall (f : Fld) (s : State) : Host.Outcome State Fault Refusal :=
  runSeq 0x04 f s (fun s e =>
    match handleOf s e.x e.t e.th.cid.toNat e.c.next with
    | .error i => .fault s i
    | .ok (h, s) => .placed (goto (writeV s e.c.w e.lane f.d.toNat h) e.c.w [e.lane] (relTarget e.c.pc (off12 f))))

/-- R183 CALLX: the handle is read, the link written, then the transfer. -/
def execCallx (f : Fld) (s : State) : Host.Outcome State Fault Refusal :=
  runSeq 0x05 f s (fun s e =>
    match handleOf s e.x e.t e.th.cid.toNat e.c.next with
    | .error i => .fault s i
    | .ok (h, s) => toHandle s e (srcA e f) (some (f.d.toNat, h)))

/-- R183 MKH: vd := h(target). -/
def execMkh (f : Fld) (s : State) : Host.Outcome State Fault Refusal :=
  runSeq 0x0D f s (fun s e =>
    match handleOf s e.x e.t e.th.cid.toNat (relTarget e.c.pc (off12 f)) with
    | .error i => .fault s i
    | .ok (h, s) => .ok (writeV s e.c.w e.lane f.d.toNat h))

/-- R183 RDPC: the address of this instruction. -/
def execRdpc (f : Fld) (s : State) : Host.Outcome State Fault Refusal := runPure 0x0E f s (fun e => .ok [dstEff f e.c.pc])

/-- R183 BRDEC: vd := vd − 1; the target when the result is not 0. -/
def execBrdec (f : Fld) (s : State) : Host.Outcome State Fault Refusal :=
  runPure 0x18 f s (fun e =>
    let t := f.slot.toNat
    let r := tyWrite t (tyRead t (srcD e f) - 1)
    .ok ([dstEff f r] ++ (if r == 0 then [] else [Eff.jump (relTarget e.c.pc (off12 f))])))

/-- R187 CALL.W. -/
def execCallW (f : Fld) (s : State) : Host.Outcome State Fault Refusal := windowArrive 0x06 f s
/-- R187 CALLX.W. -/
def execCallxW (f : Fld) (s : State) : Host.Outcome State Fault Refusal := windowArrive 0x07 f s
/-- R188 RET.W. -/
def execRetW (f : Fld) (s : State) : Host.Outcome State Fault Refusal := windowArrive 0x09 f s
/-- R189 SPILL. -/
def execSpill (f : Fld) (s : State) : Host.Outcome State Fault Refusal := windowArrive 0x0B f s
/-- R189 FILL. -/
def execFill (f : Fld) (s : State) : Host.Outcome State Fault Refusal := windowArrive 0x0C f s

/-- A copy's fault that no WAIT has taken is recorded for the group (R252): I is the EXIT, and no thread stops. -/
def recordAtExit (s : State) (e : Env) (i : FaultInfo) : State :=
  let rcd := faultRecord s e.t e.x e.c [e.lane] e.th.cid.toNat i
  queueFault (modGroup s e.c.w (fun g => { g with frec := rcd })) e.x.id rcd

/-- R184 EXIT: answers of UALink stores are awaited and failures reported (R402, R403), other recorded faults are taken
(R289, R379), those of copies are recorded (R252), then the thread ends. -/
def execExit (f : Fld) (s : State) : Host.Outcome State Fault Refusal :=
  runSeq 0x0A f s (fun s e =>
    if s.outReqs.any (fun r => r.posted && r.copy.isNone && r.w == e.c.w && r.lane == e.lane) then .wait s .resource
    else
      match linkFault s e with
      | some r => r
      | none =>
        match e.th.late.find? (fun l => match l.1 with | .copy _ => false | _ => true) with
        | some l => .fault (modThread s e.c.w e.lane (fun th => { th with late := th.late.erase l })) l.2
        | none =>
          let s := e.th.late.foldl (fun s l => recordAtExit s e l.2) s
          let s := modThread s e.c.w e.lane (fun th => { th with late := [] })
          let s := match e.t.role with
            | .queue q => modQueue s q (fun r => { r with state := 5, run := false, pc := BitVec.ofNat 56 e.c.next })
            | _ => s
          .placed (endThread s e.c.w e.lane))

/-- The physical places of n bytes at an address under an access (R225 steps 1 and 4-6). -/
def placesOf (s : State) (c : Ctx) (va n : Nat) (acc : Acc) : Except FaultInfo (List Nat) :=
  (sectorRuns (n / 16 + 2) va n).foldl (fun (r : Except FaultInfo (List Nat)) run => match r with
    | .error f => .error f
    | .ok ps =>
      match locate s c run.1 acc with
      | .error f => .error f
      | .ok (.mem pa _) => .ok (ps ++ (List.range run.2).map (fun i => pa + i))
      | .ok (.win _ _) => .error { code := .memoryType, data := run.1 }) (.ok [])

/-- What a woken PARK does (R199): an acquire at system scope, no instruction-cache copies of the context's code, and a
fresh fetch at the same address. -/
def parkWoken (s : State) (e : Env) : State :=
  let s := acquire s e.t 6
  let s := modCore s e.t.die e.t.site (fun c => { c with icache := c.icache.filter (fun i => i.ctx != e.x.id) })
  goto s e.c.w [e.lane] e.c.pc

/-- R199 PARK: waits for a store to its own bytes; a store that the fetch did not see wakes it at once. -/
def execPark (f : Fld) (s : State) : Host.Outcome State Fault Refusal :=
  runSeq 0x0F f s (fun s e =>
    match placesOf s e.x e.c.pc (e.c.next - e.c.pc) .park with
    | .error i => .fault s i
    | .ok pas =>
      let stale := (core s e.t.die e.t.site).icache.any (fun i => i.ctx == e.x.id
        && pas.any (fun p => p / 16 == i.pa && i.bytes.getD (p % 16) 0 != s.home.get p))
      if stale then .placed (parkWoken s e)
      else
        let s := match e.t.role with | .queue q => modQueue s q (fun r => { r with state := 2 }) | _ => s
        .placed (modThread s e.c.w e.lane (fun th => { th with status := .waiting .park, watch := some (.parked pas false) })))

/-- R198 WAITMEM: the home tests the word; the wait ends at WAITMEM_SATISFIED when a value passes later. -/
def execWaitmem (f : Fld) (s : State) : Host.Outcome State Fault Refusal :=
  let low : Nat := match s.cur with | some c => (active s c f).headD 0 | none => 0
  runSeq 0x10 f s (fun s e =>
    let t := f.slot.toNat
    let n := tyWidth t / 8
    let va := srcA e f
    match checkGlobal s e.x va n .monitor with
    | .error i => .fault s i
    | .ok (.win _ _) => .fault s { code := .memoryType, data := va }
    | .ok (.mem pa _) =>
      if poisoned s pa n then .fault s (poisonFault s pa n va)
      else
        let v := s.home.readN pa n
        let cmp := srcB e f
        let cc := bits f.c.toNat 2 0
        let g := fldBit f 4
        let dst := if g && (e.lane != low || e.c.noG) then none else some (g, f.d.toNat)
        if compareCc cc (tyRead t v) (tyRead t cmp) then
          let s := match dst with
            | some (g, d) => writeReg s e true g d (tyWrite t (tyRead t v))
            | none => s
          .ok (acquire s e.t (bits f.m.toNat 2 0))
        else
          let s := match e.t.role with | .queue q => modQueue s q (fun r => { r with state := 3 }) | _ => s
          .placed (modThread s e.c.w e.lane (fun th => { th with
            status := .waiting .monitor, watch := some (.word pa n t cc cmp dst e.c.next none) })))

/-- R194 ELECT: the lowest-numbered guard-true lane. In deterministic mode it waits for the whole subset. -/
def execElect (f : Fld) (s : State) : Host.Outcome State Fault Refusal :=
  runOnce 0x19 f s (fun s e act =>
    let low := act.headD 0
    let late := (List.range e.g.threads.length).any (fun l => match e.g.threads[l]? with
      | some th => !e.c.lanes.contains l && th.pc.toNat == e.c.pc && alive th && th.status != .deposited && guardTrue f th
      | none => false)
    if e.x.det && late then .wait s .resource
    else .ok (act.foldl (fun s l =>
      modThread (writeV s e.c.w l f.d.toNat low) e.c.w l (setPred f.a.toNat (l == low))) s))

/-- R194 IDLE: the thread issues nothing for min(b, 65,535) clk. -/
def execIdle (f : Fld) (s : State) : Host.Outcome State Fault Refusal :=
  runPure 0x1A f s (fun e => .ok [.idle (min (srcBz e f) 65535)])

/-- R194 ICPF: a hint. -/
def execIcpf (f : Fld) (s : State) : Host.Outcome State Fault Refusal := runPure 0x1D f s (fun _ => .ok [])

/-- R197 FREC: word b of the group's fault record; 0 beyond word 7. -/
def execFrec (f : Fld) (s : State) : Host.Outcome State Fault Refusal :=
  runPure 0x1C f s (fun e => .ok [dstEff f ((e.g.frec.getD (srcBz e f) 0).toNat)])

/-! ## Special registers -/

/-- Three fields of 16 bits (R23). -/
def triple16 (d : Nat × Nat × Nat) : Nat := d.1 % 2 ^ 16 + d.2.1 % 2 ^ 16 * 2 ^ 16 + d.2.2 % 2 ^ 16 * 2 ^ 32

/-- The value of a special source (R191); `cyc` is the clk count read now. None for what a queue program or emulation code
may not read (R334). -/
def special (s : State) (e : Env) (cyc : Word) (sel : Nat) : Option Nat :=
  let k := e.t.kern
  if e.t.role != .compute then
    match sel with
    | 2 => some 1
    | 0x18 => some cyc.toNat
    | 0x19 => some e.x.id
    | _ => if sel ≤ 8 then some 0 else none
  else
    some (match sel with
      | 0x00 => e.lane
      | 0x01 => e.g.idx
      | 0x02 => k.ngroups
      | 0x03 => e.t.k % max 1 k.cw + e.t.k / max 1 k.cw * 16
      | 0x04 => k.cw + k.ch * 16
      | 0x05 => triple16 e.t.cluster
      | 0x06 => triple16 e.t.gdim
      | 0x07 => e.t.cls
      | 0x08 => b2n e.x.det
      | 0x09 => ubase k e.g.idx + 512 + 256 * e.g.o
      | 0x0A => ubase k e.g.idx
      | 0x0B => e.th.cid.toNat
      | 0x0C => e.g.o + e.g.res * 2 ^ 16 + ringRows k * 2 ^ 32
      | 0x0D => e.g.bsb.toNat % 2 ^ 56
      | 0x0E => e.g.bsl.toNat % 2 ^ 56
      | 0x0F => e.g.bsp.toNat % 2 ^ 56
      | 0x10 => e.th.nf.toNat
      | 0x11 => e.th.smst.toNat
      | 0x12 => e.th.sx.toNat
      | 0x13 => e.x.srk.toNat
      | 0x14 => e.x.srw.toNat
      | 0x15 => e.x.thand.toNat
      | 0x16 => e.th.tpc.toNat
      | 0x17 => e.th.tcause.toNat + b2n e.th.intrap * 2 ^ 63
      | 0x18 => cyc.toNat
      | 0x19 => e.x.id
      | _ =>
        let n (c : Ctr) : Nat := ctrCount s e.c.w e.g.ops c
        n .loads + n .stores * 2 ^ 8 + n .copies * 2 ^ 16 + n .tiles * 2 ^ 24)

/-- R191 MOVS, read. -/
def execMovsRead (f : Fld) (s : State) : Host.Outcome State Fault Refusal :=
  let (cyc, s) := if f.c.toNat == 0x18 then drawCycles s else (0, s)
  runPure 0x12 f s (fun e => match special s e cyc f.c.toNat with
    | some v => .ok [dstEff f v]
    | none => .error { code := .headlandSubset })

/-- The written special registers (R191, R192, R263): thread registers, and context registers, in ascending lane order. Every
other thread sees a new srk, srw or s.thand at once: R192 leaves the old or the new value open before an acquire (the model's
choice, log 35). -/
def writeSpecial (s : State) (e : Env) (sel v : Nat) : State :=
  let th (g : Thread → Thread) : State := modThread s e.c.w e.lane g
  match sel with
  | 0x10 => th (fun th => { th with nf := BitVec.ofNat 9 v })
  | 0x11 => th (fun th => { th with smst := BitVec.ofNat 64 (setBits v 31 14 0) })
  | 0x12 => th (fun th => { th with sx := BitVec.ofNat 64 v })
  | 0x13 => modCtx s e.x.id (fun x => { x with srk := BitVec.ofNat 64 v })
  | 0x14 => modCtx s e.x.id (fun x => { x with srw := BitVec.ofNat 32 v })
  | 0x15 => modCtx s e.x.id (fun x => { x with thand := BitVec.ofNat 64 v })
  | _ => th (fun th => { th with tpc := BitVec.ofNat 64 v })

/-- R191 MOVS, write. -/
def execMovsWrite (f : Fld) (s : State) : Host.Outcome State Fault Refusal :=
  runSeq 0x13 f s (fun s e => .ok (writeSpecial s e f.c.toNat (srcA e f)))

/-! ## SYSQ -/

/-- The image that a container's core matches under; headland cores have no slots and read the package's image. -/
def imageOf (s : State) (t : Team) : Option Patch × BitVec 16 :=
  match t.role with
  | .compute => patchCfg s (core s t.die t.site).patchGen
  | _ => (s.patch, s.regs.patchEn)

/-- Whether an image's slots are active for a context (R389). -/
def imageActive (p : Patch) (x : Ctx) : Bool := !(x.det && !p.rp)

/-- SYSQ selector 8 (R193). -/
def imageWord (p : Option Patch) : Nat :=
  match p with
  | some p => p.id % 2 ^ 32 + p.ver % 2 ^ 16 * 2 ^ 32 + b2n p.rp * 2 ^ 48 + 2 ^ 63
  | none => 0

/-- SYSQ selectors 16-31 (R193, R399). -/
def slotStatus (c : Option Patch × BitVec 16) (x : Ctx) (n : Nat) : Nat :=
  match c.1 with
  | none => 0
  | some p =>
    match p.slots[n]? with
    | none => 0
    | some r => r.pid % 2 ^ 16 + r.prio % 16 * 2 ^ 16 + r.act % 4 * 2 ^ 20 + b2n r.fp * 2 ^ 22
        + b2n (bit c.2.toNat n && imageActive p x) * 2 ^ 23

/-- The device's level for a context (R398). -/
def levelFor (p : Option Patch) (x : Ctx) : Nat :=
  match p with
  | some p => if imageActive p x then max 1 p.lvl else 1
  | none => 1

/-- The physical site of a logical site (R344). -/
def physOf (s : State) (die site : Nat) : Nat :=
  match s.regs.phys.find? (fun p => p.1 == die && p.2.1 == site) with
  | some p => p.2.2
  | none => site

def sysqValue (s : State) (e : Env) (sel : Nat) : Nat :=
  let img := imageOf s e.t
  if sel == 0 then 0xBF70 + levelFor img.1 e.x % 256 * 2 ^ 24
  else if sel == 1 then
    let dies := (List.range 8).filter (fun d => decide ((s.regs.unavail.filter (fun u => u.1 == d)).length < 168))
    (1344 - s.regs.unavail.length) + dies.length * 2 ^ 16
  else if sel == 2 then
    match e.t.role with
    | .compute => let p := physOf s e.t.die e.t.site; e.t.die + p % 12 * 2 ^ 4 + p / 12 * 2 ^ 8
    | .queue q => q / 128 + 8 + q / 8 % 16 * 2 ^ 4
    | .patch i => (Config.patchCorePosition i).toNat
  else if sel == 8 then imageWord img.1
  else if 16 ≤ sel && sel ≤ 31 then (if e.t.role == .compute then slotStatus img e.x (sel - 16) else 0)
  else 0

/-- R193 SYSQ. -/
def execSysq (f : Fld) (s : State) : Host.Outcome State Fault Refusal :=
  runPure 0x11 f s (fun e => .ok [dstEff f (sysqValue s e f.c.toNat)])

/-! ## Code maintenance -/

/-- The cores that a scope contains (R120, R200). -/
def coreInScope (s : State) (t : Team) (scope : Nat) (c : Core) : Bool :=
  if scope ≤ 2 then c.die == t.die && c.site == t.site
  else if scope == 3 then (c.die == t.die && c.site == t.site)
    || s.teams.any (fun u => sameCluster t u && u.die == c.die && u.site == c.site)
  else if scope == 4 then c.die == t.die
  else true

/-- R200 ICINV: copies of bytes in the range, and every kept code-object entry (R181), on the cores in scope. A length of 0 does
nothing, the kept entries included (R200 before R181: the model's choice, log 35). -/
def execIcinv (f : Fld) (s : State) : Host.Outcome State Fault Refusal :=
  runSeq 0x14 f s (fun s e =>
    let va := srcA e f
    let n := srcBz e f
    if n == 0 then .ok s
    else if 2 ^ 56 < va + n then .fault s { code := .address, data := va }
    else .ok { s with cores := updIf (coreInScope s e.t (bits f.m.toNat 2 0)) (fun c =>
      { c with
        icache := c.icache.filter (fun i => !(i.ctx == e.x.id && decide (va / 16 ≤ i.va) && decide (i.va ≤ (va + n - 1) / 16))),
        codes := [] }) s.cores })

/-- R200 FBAR: nothing is fetched ahead in the model, and every ICINV is complete. -/
def execFbar (f : Fld) (s : State) : Host.Outcome State Fault Refusal := runPure 0x15 f s (fun _ => .ok [])

/-- Performs the dirty bytes of a range page by page (R200); the pages before a translation fault are done. -/
def cwbPages : Nat → State → Env → Nat → Nat → State × Option FaultInfo
  | 0, s, _, _, _ => (s, none)
  | fuel + 1, s, e, va, n =>
    if n == 0 then (s, none)
    else
      let k := min n (4096 - va % 4096)
      match findWindow e.x.wd va with
      | some _ => cwbPages fuel s e (va + k) (n - k)
      | none =>
        match locate s e.x va .cwb with
        | .ok (.mem pa ty) =>
          let s := if ty < 2 then performWhere s e.t.die e.t.site (fun d => decide (pa ≤ d.pa) && decide (d.pa < pa + k)) else s
          cwbPages fuel s e (va + k) (n - k)
        | .error i => if i.code == .translation then (s, some i) else cwbPages fuel s e (va + k) (n - k)
        | .ok (.win _ _) => cwbPages fuel s e (va + k) (n - k)

/-- R200 CWB. -/
def execCwb (f : Fld) (s : State) : Host.Outcome State Fault Refusal :=
  runSeq 0x16 f s (fun s e =>
    let va := srcA e f
    let n := srcBz e f
    if n == 0 then .ok s
    else if 2 ^ 56 < va + n then .fault s { code := .address, data := va }
    else
      match cwbPages (n / 4096 + 2) s e va n with
      | (s, none) => .ok s
      | (s, some i) => .fault s i)

end Sys2Proof.Machine
end

