-- ==== Sys2Proof/Machine/Links.lean ====
section
/-! DEFINITION. Shared operations of the memory instructions: counted operations and their parts (spec 08 R243), stores and
loads at their places (03 R97, 04 R123, 16 R401, R402), copies of bytes to links. -/
namespace Sys2Proof.Machine

/-- Runs a counted instruction (R243): at 63 it does not issue; the body learns whether its thread is the one whose value
a g destination takes (R175), and the operation's number. -/
def runMem (op : Nat) (f : Fld) (s : State) (ctr : Ctr) (body : State → Env → Bool → Nat → StepR) :
    Host.Outcome State Fault Refusal :=
  match s.cur with
  | none => .fault .noIssueGroup
  | some c =>
    let act := active s c f
    if !act.isEmpty && ctrFull s c.w ctr then .next (c.lanes.foldl (fun s l => setWait s c.w l .resource) s)
    else
      let low := act.headD 0
      let id := nextOpId s c.w
      runSeq op f s (fun s e => body s e (e.lane == low && !c.noG) id)

/-- The operation of an issue, made by its first thread (R243). -/
def opFor (s : State) (w : Where) (id : Nat) (ctr : Ctr) (kind : OpKind) (done : Bool) : State :=
  if nextOpId s w ≤ id then (addOp s w ctr kind [] done).2 else s

/-- An issue that is complete at once still waits for the earlier ones of its counter (R243). -/
def noteDone (s : State) (w : Where) (id : Nat) (ctr : Ctr) : State := opFor s w id ctr .parts true

def modOp (s : State) (w : Where) (id : Nat) (f : Op → Op) : State :=
  modGroup s w (fun g => { g with ops := updIf (fun o => o.id == id) f g.ops })

/-- A thread's part of an operation. -/
def addPart (s : State) (w : Where) (id : Nat) (ctr : Ctr) (p : Part) : State :=
  modOp (opFor s w id ctr .parts false) w id (fun o => { o with parts := o.parts ++ [p] })

/-- The block that one request may not leave: 256 bytes on UALink (R416), 4 KiB on a PCIe port (R404). -/
def requestBlock (s : State) (pa : Nat) : Nat := match targetOf s pa with | .ualink _ => 256 | _ => 4096

/-- The requests for some link bytes: first position and address, and length, one for each block (R404, R416). -/
def linkRuns (s : State) (links : List (Nat × Nat)) : List (Nat × Nat × Nat) :=
  let key (l : Nat × Nat) : Nat := l.2 / requestBlock s l.2
  ((links.map key).eraseDups).filterMap (fun k =>
    match links.filter (fun l => key l == k) with
    | [] => none
    | l :: ls => some (l.1, l.2, (ls.foldl (fun m x => max m x.2) l.2) + 1 - l.2))

/-- The page type of a place. -/
def locType : Loc → Nat
  | .mem _ ty => ty
  | .win _ _ => 0

/-- The part of a load: its bytes, and requests for those that a link supplies (R402). -/
def loadPart (s : State) (e : Env) (id : Nat) (ctr : Ctr) (va ty acq : Nat) (bs : List Byte) (links : List (Nat × Nat)) (form : RForm) : State :=
  let s := (linkRuns s links).foldl (fun s r => (sendReq s e id (va + r.1) r.2.1 r.2.2 ty [] false none).2) s
  addPart s e.c.w id ctr { lane := e.lane, bytes := bs, links := links, form := form, ready := links.isEmpty, nf := 0, acq := acq, o := e.g.o }

/-- The compressible bit of the page of each address in some runs is 0: every run under its own page (R90). -/
def runsRaw (s : State) (c : Ctx) (runs : List (Nat × Nat × Loc)) (pa : Nat) : Bool :=
  runs.any (fun r => match r.2.2 with
    | .mem q _ => decide (q ≤ pa) && decide (pa < q + r.2.1) && pageRaw s c r.1
    | _ => false)

/-- Bytes of a store laid over the places that the checks found: offset of each run, run length and place. -/
def putRuns (s : State) (e : Env) (id base : Nat) (nt : Bool) (runs : List (Nat × Nat × Loc)) (bs : List (Byte × Byte)) : State :=
  -- runs that reach HBM pages of one type are one store
  let hbm := runs.filter (fun r => match r.2.2 with | .mem pa _ => targetOf s pa == .hbm | _ => false)
  let unitOf (r : Nat × Nat × Loc) : List (Nat × Byte × Byte) := match r.2.2 with
    | .mem pa _ => (List.range r.2.1).map (fun i => let b := bs.getD (r.1 - base + i) (0, 0); (pa + i, b.1, b.2))
    | _ => []
  let tyOf (r : Nat × Nat × Loc) : Nat := match r.2.2 with | .mem _ ty => ty | _ => 0
  let raw := runsRaw s e.x runs
  let s := (hbm.map tyOf).eraseDups.foldl (fun s ty =>
    match hbm.filter (fun r => tyOf r == ty) with
    | [] => s
    | r :: rs => putStore s e id r.1 r.2.2 nt raw ((r :: rs).flatMap unitOf)) s
  -- runs that reach a link make one request for each block (R416)
  let links := runs.filter (fun r => match r.2.2 with | .mem pa _ => targetOf s pa != .hbm | _ => false)
  let key (r : Nat × Nat × Loc) : Nat × Nat := match r.2.2 with | .mem pa ty => (pa / requestBlock s pa, ty) | _ => (0, 0)
  ((links.map key).eraseDups).foldl (fun s k =>
    match links.filter (fun r => key r == k) with
    | [] => s
    | r :: rs => putStore s e id r.1 r.2.2 nt raw ((r :: rs).flatMap unitOf)) s

/-- The form of a load's register: nothing for a g register that a lower lane writes (R175). -/
def regForm (g low : Bool) (form : RForm) : RForm := if g && !low then .none else form

end Sys2Proof.Machine
end

