-- ==== Sys2Proof/Machine/Atomics.lean ====
section
/-! DEFINITION. Atomics, reductions and deques (spec 04 R132-R135, R145, R146; 08 R233-R239): their issue, and their
execution at a sync engine, at a unified store or at a link's target. -/
namespace Sys2Proof.Machine

/-- The new value of an integer atomic on w bits (R234); none where no store is performed. -/
def atomNew (k : AtomKind) (t old b c : Nat) : Option Nat :=
  let w := tyWidth t
  let o := old % 2 ^ w
  let b := b % 2 ^ w
  match k with
  | .add => some ((o + b) % 2 ^ w)
  | .min => some (if tyRead t b < tyRead t o then b else o)
  | .max => some (if tyRead t o < tyRead t b then b else o)
  | .and => some (Nat.land o b)
  | .or => some (Nat.lor o b)
  | .xor => some (Nat.xor o b)
  | .xchg => some b
  | .cas => if o == b then some (c % 2 ^ w) else none
  | .inc => some (if b ≤ o then 0 else o + 1)
  | .dec => some (if o == 0 || b < o then b else o - 1)
  | _ => none

/-- The new code of a format atomic and its nf bits (R235). -/
def atomFmtNew (k : AtomKind) (fd : Nat) (fi fo : Bool) (old b : Nat) : Nat × Nat :=
  let f := fdrOf fd
  let (x, f1) := readCode f fi (old % 2 ^ f.w)
  let (y, f2) := readCode f fi (b % 2 ^ f.w)
  let r := match k with
    | .fadd => let (v, fl) := sumVals [x, y] f.rnd; let r := flushOut f fo (roundVal f v f.rnd 0); (r.1, r.2 ||| fl)
    | .fmin => writeVal f fo (minmaxVal false false x y)
    | _ => writeVal f fo (minmaxVal true false x y)
  (r.1, r.2 ||| f1 ||| f2)

def AtomKind.isFmt : AtomKind → Bool | .fadd | .fmin | .fmax => true | _ => false

/-- What an atomic does to an element's bits: the bits to store, if any, and nf bits. -/
def atomStep (k : AtomKind) (ty fd : Nat) (fi fo : Bool) (old b c : Nat) : Option Nat × Nat :=
  if k.isFmt then let r := atomFmtNew k fd fi fo old b; (some r.1, r.2) else (atomNew k ty old b c, 0)

/-! ## Issue -/

/-- An atomic of another team of a deterministic context is on its way to a line: which team will hold the line is not yet
decided (R145, R146). -/
def claimOpen (s : State) (x : Ctx) (w : Writer) (line : Nat) : Bool :=
  let rival (i : SyncItem) : Bool := i.pa / 128 == line && i.writer.graded
    && (match ctx? s i.writer.ctx with | some y => y.det | none => false)
    && !(x.det && i.writer.ctx == x.id && i.writer.acc == w.acc && i.writer.cix == w.cix && i.writer.k == w.k)
    && (!x.det || i.writer.ctx == x.id)
  s.syncQ.any rival || s.outReqs.any (fun r => match r.atomic with | some i => rival i | none => false)

/-- R145, R146: whether a writer of a context may reduce into a line: the fault it takes, or whether it waits until an
earlier atomic has decided the claim. -/
def claimFor (s : State) (x : Ctx) (w : Writer) (pa va : Nat) (fmt01 : Bool) : Except FaultInfo Bool :=
  if !w.graded then .ok false
  else if x.det then
    match x.claims.find? (fun c => c.1 == pa / 128) with
    | some c => if c.2 == (w.acc, w.cix, w.k) then .ok false else .error { code := .crossTeamAtomic, data := va }
    | none => .ok (claimOpen s x w (pa / 128))
  else if !fmt01 then .ok false
  else if s.ctxs.any (fun y => y.det && y.claims.any (fun c => c.1 == pa / 128)) then .error { code := .determinismGuard, data := va }
  else .ok (claimOpen s x w (pa / 128))

/-- The claim that an executed operation makes for its team (R145). -/
def setClaim (s : State) (w : Writer) (pa : Nat) : State :=
  match ctx? s w.ctx with
  | some x =>
    if w.graded && x.det && !x.claims.any (fun c => c.1 == pa / 128) then
      modCtx s x.id (fun x => { x with claims := (pa / 128, w.acc, w.cix, w.k) :: x.claims })
    else s
  | none => s

def claimLine (s : State) (e : Env) (pa va : Nat) (fmt01 : Bool) : Except FaultInfo Bool :=
  claimFor s ((ctx? s e.x.id).getD e.x) (writerOf e.t e.g.idx e.lane) pa va fmt01

/-- The issuing core performs its own dirty bytes of an element at the home, those of its poisoned sectors whole, and drops its
copies (R132, R377). -/
def flushElement (s : State) (die site pa n : Nat) : State :=
  let s := performWhere (cleanSectors s die site pa n) die site (fun d => decide (pa ≤ d.pa) && decide (d.pa < pa + n))
  modCore s die site (fun c => { c with clean := c.clean.filter (fun k => !(linesOf pa n).contains k.line) })

/-- An item for a sync engine or a link's target. -/
def syncItem (s : State) (e : Env) (f : Fld) (reqId opId : Nat) (op : SyncOp) (pa va size : Nat) (acquires : Bool) (scope : Nat)
    (redirect : Option (Nat × Nat)) (instr : Nat) : SyncItem :=
  { id := reqId, cur := { e.c with lanes := [e.lane] }, die := homeDie s pa, w := e.c.w, lane := e.lane, opId := opId,
    writer := writerOf e.t e.g.idx e.lane, op := op, pa := pa, va := va, size := size, ty := f.slot.toNat,
    fd := BitVec.ofNat 64 (slotWord e.x f.slot.toNat), fi := fiOf f, fo := foOf f, acquire := acquires, scope := scope,
    redirect := redirect, instr := instr,
    rel := decide (0xAD ≤ instr) && decide (2 ≤ bits f.m.toNat 4 3) && scope != 0 && (match op with | .atomic _ _ _ => true | _ => false) }

/-- A part that an execution fills later. -/
def pendingPart (e : Env) (form : RForm) (links : List (Nat × Nat)) : Part :=
  { lane := e.lane, bytes := [], links := links, form := form, ready := false, nf := 0, acq := 0, o := e.g.o }

/-- A reduction meets poison (R379): not executed, kind 5 logged, the fault recorded for the thread. -/
def reductionLost (s : State) (w : Where) (lane ctx pa die : Nat) (i : FaultInfo) : State :=
  lateFault (logLocated s (some ctx) 5 pa die) w lane .reduction i

/-- An ATOMRD's old value goes on its way to its target (R134, R237). -/
def redirectOld (s : State) (w : Writer) (size old die rank word1 : Nat) : State :=
  let (did, s) := reqUp s
  { s with deliveries := s.deliveries ++ [{ id := did, ctx := w.ctx, acc := w.acc, bar := bits word1 24 21, off := bits word1 20 0,
                                            size := size, old := old, rank := rank, word1 := word1, die := die }] }

/-- An atomic at the unified store of the core that holds its bytes (R88): executed at once. A destination form of `.none`
is a reduction. -/
def atomicLocal (s : State) (e : Env) (f : Fld) (id : Nat) (ctr : Ctr) (k : AtomKind) (n b c : Nat) (form : RForm)
    (redirect : Option (Nat × Nat)) : StepR :=
  let va := srcA e f
  let scope := bits f.m.toNat 2 0
  let ord := bits f.m.toNat 4 3
  let w := writerOf e.t e.g.idx e.lane
  if e.x.det && (match clusterOwner s e.t va with | some (u, _) => u.uid != e.t.uid | none => false) then
    .fault s { code := .crossTeamAtomic, data := va }
  else
    match localLoad s e.x e.t.uid va n n with
    | .error i =>
      if i.code == .poison && form == .none then
        .ok (noteDone (reductionLost s e.c.w e.lane e.x.id va e.t.die i) e.c.w id ctr)
      else .fault s i
    | .ok (bs, s) =>
      match (if 2 ≤ ord then release s e scope else .ok s) with
      | .ok s =>
        let old := ofBytes bs
        let (new, nf) := atomStep k f.slot.toNat (slotWord e.x f.slot.toNat) (fiOf f) (foOf f) old b c
        (match (match new with
            | some x => localStore s e.t.uid w va n n (fullUnit va (leBytes n x))
            | none => .ok s) with
         | .error i => .fault s i
         | .ok s =>
           let s := match redirect with
             | some (rank, word1) => redirectOld s { w with ctx := e.x.id, acc := e.t.acc } n old e.t.die rank word1
             | none => s
           let s := if ord == 1 || ord == 3 then acquire s e.t scope else s
           if form == .none then .ok (noteDone s e.c.w id ctr)
           else .ok (addPart s e.c.w id ctr { lane := e.lane, bytes := bs, links := [], form := form, ready := true, nf := nf, acq := 0, o := e.g.o }))
      | r => r

/-- An atomic on a global address (R132, R233): checks, claim, release, and the item on its way to the sync engine, or to the
target of a link. -/
def atomicGlobal (s : State) (e : Env) (f : Fld) (id : Nat) (ctr : Ctr) (k : AtomKind) (n b c : Nat) (form : RForm)
    (redirect : Option (Nat × Nat)) (instr : Nat) : StepR :=
  let va := srcA e f
  let scope := bits f.m.toNat 2 0
  let ord := bits f.m.toNat 4 3
  match checkGlobal s e.x va n (if instr == 0xAF then .atomrd else if form == .none then .red k else .atomic k) with
  | .error i => .fault s i
  | .ok (.win _ _) => .fault s { code := .windowStore, data := va }
  | .ok (.mem pa ty) =>
    -- the core's own stores come before the atomic (R132): a sector that they fill meets no poison (R377)
    let s0 := s
    let s := if targetOf s pa == .hbm then cleanSectors s e.t.die e.t.site pa n else s
    if targetOf s pa == .hbm && form != .none && poisoned s pa n then .fault s0 (poisonFault s pa n va)
    else
      match claimLine s e pa va k.isFmt with
      | .error i => .fault s i
      | .ok true => .wait s .resource
      | .ok false =>
        match (if 2 ≤ ord then release s e scope else .ok s) with
        | .ok s =>
          let item (rid : Nat) : SyncItem := syncItem s e f rid id (.atomic k b c) pa va n (ord == 1 || ord == 3) scope redirect instr
          let hbm := targetOf s pa == .hbm
          let (rid, s) : Nat × State :=
            if hbm then (let (rid, s) := reqUp (flushElement s e.t.die e.t.site pa n); (rid, { s with syncQ := s.syncQ ++ [item rid] }))
            else sendReq s e id va pa n ty [] (form == .none) (some (item 0))
          if form == .none then
            let s := opFor s e.c.w id ctr (.pending []) false
            .ok (modOp s e.c.w id (fun o => { o with kind := match o.kind with | .pending xs => .pending (xs ++ [rid]) | x => x }))
          else .ok (addPart s e.c.w id ctr (pendingPart e form (if hbm then [] else [(0, pa)])))
        | r => r

/-- An atomic, reduction or ATOMRD of a thread (R233): `.loc` addresses the local space. -/
def atomicAt (s : State) (e : Env) (f : Fld) (id : Nat) (ctr : Ctr) (k : AtomKind) (n b c : Nat) (form : RForm)
    (redirect : Option (Nat × Nat)) (instr : Nat) : StepR :=
  if fldBit f 5 then atomicLocal s e f id ctr k n b c form redirect
  else atomicGlobal s e f id ctr k n b c form redirect instr

/-- Operand b of an integer atomic: a v register, or the literal extended by the type (R160, R233). -/
def atomB (e : Env) (f : Fld) : Nat := if f.form == .w96 then srcB e f else srcV e f.b.toNat

/-- The integer atomics (R234). -/
def atomInt (op : Nat) (f : Fld) (s : State) (k : AtomKind) : Host.Outcome State Fault Refusal :=
  runMem op f s .loads (fun s e _ id =>
    atomicAt s e f id .loads k (tyWidth f.slot.toNat / 8) (atomB e f) (if k == .cas then srcV e f.c.toNat else 0)
      (.typed false f.d.toNat f.slot.toNat) none op)

/-- Slots of the format atomics (R235). -/
def atomFormat (k : Fdr) : Bool :=
  (k.kind == 0 || k.kind == 1) && (k.w == 8 || k.w == 16 || k.w == 32 || k.w == 64) && k.rnd != 5

/-- The format atomics (R235). -/
def atomFmt (op : Nat) (f : Fld) (s : State) (k : AtomKind) : Host.Outcome State Fault Refusal :=
  runMem op f s .loads (fun s e _ id =>
    match slotFor e f.slot.toNat 0 atomFormat with
    | .error i => .fault s i
    | .ok sl => atomicAt s e f id .loads k (sl.w / 8)
        (if f.form == .w96 then slotLiteral sl f.lit.toNat else srcV e f.b.toNat) 0 (.elem f.d.toNat sl.w) none op)

/-- The operation codes of RED and ATOMRD (R236). -/
def redKind (d : Nat) : AtomKind :=
  match d with
  | 0 => .add
  | 1 => .min
  | 2 => .max
  | 3 => .and
  | 4 => .or
  | 5 => .xor
  | 6 => .inc
  | _ => .dec

/-- A deque operation of a thread (R239): header checks, claim, and the item on its way. -/
def dequeAt (s : State) (e : Env) (f : Fld) (id instr : Nat) (op : SyncOp) (form : RForm) : StepR :=
  let va := srcA e f
  match checkGlobal s e.x va 128 .deque with
  | .error i => .fault s i
  | .ok (.win _ _) => .fault s { code := .windowStore, data := va }
  | .ok (.mem pa _) =>
    let s0 := s
    let s := cleanSectors s e.t.die e.t.site pa 128
    if poisoned s pa 128 then .fault s0 (poisonFault s pa 128 va)
    else if instr != 0xB0 && !s.deques.any (fun d => d.1 == pa / 128) then .fault s { code := .deque, data := va }
    else
      match claimLine s e pa va false with
      | .error i => .fault s i
      | .ok true => .wait s .resource
      | .ok false =>
        let s := flushElement s e.t.die e.t.site pa 128
        let (rid, s) := reqUp s
        let item := syncItem s e f rid id op pa va 128 (instr == 0xB2 || instr == 0xB3) 5 none instr
        .ok (addPart { s with syncQ := s.syncQ ++ [item] } e.c.w id .loads (pendingPart e form []))

/-! ## Execution -/

/-- The bytes that a returning operation brings back to its part. -/
def fillPart (s : State) (w : Where) (opId lane : Nat) (bs : List Byte) (nf : Nat) : State :=
  modOp s w opId (fun o => { o with parts := updIf (fun p => p.lane == lane) (fun p => { p with bytes := bs, links := [], ready := true, nf := nf }) o.parts })

/-- The part goes when its thread faults at the execution. -/
def cancelPart (s : State) (w : Where) (opId lane : Nat) : State :=
  modOp s w opId (fun o => { o with parts := o.parts.filter (fun p => p.lane != lane) })

/-- The acquire that follows an execution (R132). -/
def syncAcquire (s : State) (i : SyncItem) : State :=
  if i.acquire then (match team? s i.w.uid with | some t => acquire s t i.scope | none => s) else s

/-- The issuing core of an operation keeps no copy of the line of an address (R122, R132). -/
def dropLine (s : State) (w : Where) (pa : Nat) : State :=
  match team? s w.uid with
  | some t =>
    if (core s t.die t.site).clean.any (fun e => e.line == pa / 128) then
      modCore s t.die t.site (fun c => { c with clean := c.clean.filter (fun e => e.line != pa / 128) })
    else s
  | none => s

/-- One deque operation at its header (R239): the value, the predicate, the state; or a fault. -/
def dequeRun (s : State) (i : SyncItem) (x : Ctx) : Except FaultInfo (Nat × Bool × State) :=
  let h := s.home.readN i.pa 128
  let top := bits h 63 0
  let bot := bits h 127 64
  let arr := bits h 191 128
  let cap := bits h 223 192
  -- a store of the operation through the page of an address (R90), its bytes those of the context (R378)
  let put (s : State) (pa va : Nat) (bs : List Byte) : State :=
    setForm (homeStoreFor s (fullUnit pa bs) none (some x.id)) (pageRaw s x va) [pa]
  let putHeader (s : State) (off v : Nat) : State := put s (i.pa + off) i.va (leBytes 8 v)
  let entry (j : Nat) (k : Nat → Nat → Except FaultInfo (Nat × Bool × State)) : Except FaultInfo (Nat × Bool × State) :=
    let va := ofInt 64 (arr + 8 * (j % max 1 cap))
    match checkGlobal s x va 8 .deque with
    | .error f => .error f
    | .ok (.win _ _) => .error { code := .windowStore, data := va }
    | .ok (.mem pa _) => if poisoned s pa 8 then .error (poisonFault s pa 8 va) else k pa va
  match i.op with
  | .dqinit a c =>
    if !(isPow2 c && decide (2 ≤ c) && decide (c ≤ 2 ^ 20)) || a % 8 != 0 then .ok (1, false, s)
    else
      let hdr := a * 2 ^ 128 + c * 2 ^ 192
      let s := put s i.pa i.va (leBytes 128 hdr)
      .ok (0, false, { s with deques := (i.pa / 128, x.id) :: s.deques.filter (fun d => d.1 != i.pa / 128) })
  | .dqpush v _ =>
    if !s.deques.any (fun d => d.1 == i.pa / 128) then .error { code := .deque, data := i.va }
    else if (bot + 2 ^ 64 - top) % 2 ^ 64 == cap then .ok (1, false, s)
    else entry bot (fun pa va =>
      .ok (0, false, putHeader (dropLine (put s pa va (leBytes 8 v)) i.w pa) 8 ((bot + 1) % 2 ^ 64)))
  | .dqpop =>
    if !s.deques.any (fun d => d.1 == i.pa / 128) then .error { code := .deque, data := i.va }
    else if bot == top then .ok (0, false, s)
    else entry ((bot + 2 ^ 64 - 1) % 2 ^ 64) (fun pa _ =>
      .ok (s.home.readN pa 8, true, putHeader s 8 ((bot + 2 ^ 64 - 1) % 2 ^ 64)))
  | .dqsteal =>
    if !s.deques.any (fun d => d.1 == i.pa / 128) then .error { code := .deque, data := i.va }
    else if bot == top then .ok (0, false, s)
    else entry top (fun pa _ => .ok (s.home.readN pa 8, true, putHeader s 0 ((top + 1) % 2 ^ 64)))
  | .atomic _ _ _ => .ok (0, false, s)

/-- The write part of an atomic at its home: the bytes, the form of their granule (R90), and no copy of the line left in the
issuing core (R132). -/
def atomicStore (s : State) (i : SyncItem) (v : Nat) : State :=
  let s := homeStoreFor s (fullUnit i.pa (leBytes i.size v)) none (some i.writer.ctx)
  match ctx? s i.writer.ctx with
  | some x => if targetOf s i.pa == .hbm then setForm s (pageRaw s x i.va) [i.pa] else s
  | none => s

/-- The issuing core keeps no copy of the line that an operation executed on (R122, R132). -/
def dropCopy (s : State) (i : SyncItem) : State := dropLine s i.w i.pa

/-- A sync engine, or the target behind a link, executes one item indivisibly (R132). -/
def runItem (s : State) (i : SyncItem) : State :=
  let ctx := match team? s i.w.uid with | some t => ctxOf s t | none => ctx? s i.writer.ctx
  match i.op with
  | .atomic k b c =>
    let returning := i.instr < 0xAD
    if targetOf s i.pa == .hbm && poisoned s i.pa i.size then
      let p := poisonFault s i.pa i.size i.va
      if returning then takeFault (cancelPart s i.w i.opId i.lane) i.cur [i.lane] p
      else reductionLost s i.w i.lane i.writer.ctx i.pa i.die p
    else
      let old := s.home.readN i.pa i.size
      let (new, nf) := atomStep k i.ty i.fd.toNat i.fi i.fo old b c
      let s := dropCopy (setClaim s i.writer i.pa) i
      let s := match new with
        | some x => atomicStore s i x
        | none => s
      let s := if returning then fillPart s i.w i.opId i.lane (leBytes i.size old) nf else s
      let s := match i.redirect with
        | some (rank, word1) => redirectOld s i.writer i.size old i.die rank word1
        | none => s
      syncAcquire s i
  | _ =>
    match ctx with
    | none => s
    | some x =>
      match dequeRun s i x with
      | .error f => takeFault (cancelPart s i.w i.opId i.lane) i.cur [i.lane] f
      | .ok (v, p, s) =>
        syncAcquire (fillPart (dropCopy (setClaim s i.writer i.pa) i) i.w i.opId i.lane (leBytes 8 v ++ [if p then 1 else 0]) 0) i

/-- R234 ATOM.ADD. -/
def execAtomAdd (f : Fld) (s : State) : Host.Outcome State Fault Refusal :=
  atomInt 0xA0 f s .add

/-- R234 ATOM.MIN. -/
def execAtomMin (f : Fld) (s : State) : Host.Outcome State Fault Refusal :=
  atomInt 0xA1 f s .min

/-- R234 ATOM.MAX. -/
def execAtomMax (f : Fld) (s : State) : Host.Outcome State Fault Refusal :=
  atomInt 0xA2 f s .max

/-- R234 ATOM.AND. -/
def execAtomAnd (f : Fld) (s : State) : Host.Outcome State Fault Refusal :=
  atomInt 0xA3 f s .and

/-- R234 ATOM.OR. -/
def execAtomOr (f : Fld) (s : State) : Host.Outcome State Fault Refusal :=
  atomInt 0xA4 f s .or

/-- R234 ATOM.XOR. -/
def execAtomXor (f : Fld) (s : State) : Host.Outcome State Fault Refusal :=
  atomInt 0xA5 f s .xor

/-- R234 ATOM.XCHG. -/
def execAtomXchg (f : Fld) (s : State) : Host.Outcome State Fault Refusal :=
  atomInt 0xA6 f s .xchg

/-- R234 ATOM.CAS. -/
def execAtomCas (f : Fld) (s : State) : Host.Outcome State Fault Refusal :=
  atomInt 0xA7 f s .cas

/-- R234 ATOM.INC. -/
def execAtomInc (f : Fld) (s : State) : Host.Outcome State Fault Refusal :=
  atomInt 0xA8 f s .inc

/-- R234 ATOM.DEC. -/
def execAtomDec (f : Fld) (s : State) : Host.Outcome State Fault Refusal :=
  atomInt 0xA9 f s .dec

/-- R235 ATOM.FADD. -/
def execAtomFadd (f : Fld) (s : State) : Host.Outcome State Fault Refusal :=
  atomFmt 0xAA f s .fadd

/-- R235 ATOM.FMIN. -/
def execAtomFmin (f : Fld) (s : State) : Host.Outcome State Fault Refusal :=
  atomFmt 0xAB f s .fmin

/-- R235 ATOM.FMAX. -/
def execAtomFmax (f : Fld) (s : State) : Host.Outcome State Fault Refusal :=
  atomFmt 0xAC f s .fmax

/-- R236 RED: an integer reduction that returns nothing. -/
def execRed (f : Fld) (s : State) : Host.Outcome State Fault Refusal :=
  runMem 0xAD f s .stores (fun s e _ id =>
    atomicAt s e f id .stores (redKind f.d.toNat) (tyWidth f.slot.toNat / 8) (atomB e f) 0 .none none 0xAD)

/-- R236 RED.F: a format reduction that returns nothing. -/
def execRedF (f : Fld) (s : State) : Host.Outcome State Fault Refusal :=
  runMem 0xAE f s .stores (fun s e _ id =>
    match slotFor e f.slot.toNat 0 atomFormat with
    | .error i => .fault s i
    | .ok k => atomicAt s e f id .stores (match f.d.toNat with | 0 => .fadd | 1 => .fmin | _ => .fmax) (k.w / 8)
        (if f.form == .w96 then slotLiteral k f.lit.toNat else srcV e f.b.toNat) 0 .none none 0xAE)

/-- R237 ATOMRD: a reduction whose old value goes to a scratchpad of a team of the grid. -/
def execAtomrd (f : Fld) (s : State) : Host.Outcome State Fault Refusal :=
  runMem 0xAF f s .stores (fun s e _ id =>
    let rank := srcV e f.c.toNat
    let word1 := srcV e (f.c.toNat + 1)
    if word1 / 2 ^ 25 != 0 then .fault s { code := .address, data := srcA e f }
    else if e.x.det && rank != e.t.rank then .fault s { code := .crossTeamAtomic, data := srcA e f }
    else atomicAt s e f id .stores (redKind f.d.toNat) (tyWidth f.slot.toNat / 8) (atomB e f) 0 .none (some (rank, word1)) 0xAF)

/-- R239 DQINIT: writes and marks a header, or answers 1. -/
def execDqinit (f : Fld) (s : State) : Host.Outcome State Fault Refusal :=
  runMem 0xB0 f s .loads (fun s e _ id =>
    dequeAt s e f id 0xB0 (.dqinit (srcV e f.b.toNat) (srcV e f.c.toNat)) (.word f.d.toNat))

/-- R239 DQPUSH: a release, then the push. -/
def execDqpush (f : Fld) (s : State) : Host.Outcome State Fault Refusal :=
  runMem 0xB1 f s .loads (fun s e _ id =>
    match release s e 5 with
    | .ok s => dequeAt s e f id 0xB1 (.dqpush (srcV e f.b.toNat) 0) (.word f.d.toNat)
    | r => r)

/-- R239 DQPOP: the owner end; an acquire. -/
def execDqpop (f : Fld) (s : State) : Host.Outcome State Fault Refusal :=
  runMem 0xB2 f s .loads (fun s e _ id => dequeAt s e f id 0xB2 .dqpop (.wordPred f.d.toNat (bits f.c.toNat 2 0)))

/-- R239 DQSTEAL: the thief end; an acquire. -/
def execDqsteal (f : Fld) (s : State) : Host.Outcome State Fault Refusal :=
  runMem 0xB3 f s .loads (fun s e _ id => dequeAt s e f id 0xB3 .dqsteal (.wordPred f.d.toNat (bits f.c.toNat 2 0)))

end Sys2Proof.Machine
end

