-- ==== Sys2Proof/Machine/Memory.lean ====
section
/-! DEFINITION. Loads and stores (spec 08 R224-R232): plain, local, paired, packed, MX, non-temporal, ordered, and the two
cache instructions. -/
namespace Sys2Proof.Machine

/-- A plain load of a type (R225, R227). -/
def loadTyped (s : State) (e : Env) (f : Fld) (low : Bool) (id acq : Nat) : StepR :=
  let t := f.slot.toNat
  let n := tyWidth t / 8
  let va := effAddr e f
  match checkGlobal s e.x va n .load with
  | .error i => .fault s i
  | .ok l =>
    match loadLoc s e.t.die e.t.site va n l with
    | .error i => .fault s i
    | .ok (bs, links, s) =>
      .ok (loadPart s e id .loads va (locType l) acq bs links (regForm (fldBit f 4) low (.typed (fldBit f 4) f.d.toNat t)))

/-- R227 LD. -/
def execLd (f : Fld) (s : State) : Host.Outcome State Fault Refusal :=
  runMem 0x90 f s .loads (fun s e low id => loadTyped s e f low id 0)

/-- The acquire that ends an instruction of several loads: one for the issue group, after every thread's load has taken its
bytes (R127, R226, R426). -/
def acquireAfter (o : Host.Outcome State Fault Refusal) (s0 : State) (scope : Nat) : Host.Outcome State Fault Refusal :=
  match o, s0.cur with
  | .next s, some c =>
    (match team? s0 c.w.uid with
     | some t => .next (if nextOpId s c.w == nextOpId s0 c.w then s else acquire s t scope)
     | none => o)
  | _, _ => o

/-- R232 LDACQ: a load, then the acquire. -/
def execLdacq (f : Fld) (s : State) : Host.Outcome State Fault Refusal :=
  let scope := bits f.m.toNat 2 0
  acquireAfter (runMem 0x9A f s .loads (fun s e low id => loadTyped s e f low id scope)) s scope

/-- A plain store of n bytes (R225, R227). -/
def storePlain (s : State) (e : Env) (id va n : Nat) (nt : Bool) (bs : List Byte) : Except FaultInfo (Loc × State) :=
  match checkGlobal s e.x va n .store with
  | .error i => .error i
  | .ok l =>
    match l with
    | .mem pa _ => .ok (l, putStore s e id va l nt (fun _ => pageRaw s e.x va) (fullUnit pa bs))
    | .win _ _ => .ok (l, s)

/-- R227 ST. -/
def execSt (f : Fld) (s : State) : Host.Outcome State Fault Refusal :=
  runMem 0x91 f s .stores (fun s e _ id =>
    let n := tyWidth f.slot.toNat / 8
    match storePlain s e id (effAddr e f) n false (leBytes n (srcD e f)) with
    | .error i => .fault s i
    | .ok (_, s) => .ok (noteDone s e.c.w id .stores))

/-- R227 LDL. -/
def execLdl (f : Fld) (s : State) : Host.Outcome State Fault Refusal :=
  runMem 0x92 f s .loads (fun s e low id =>
    let t := f.slot.toNat
    let n := tyWidth t / 8
    match localLoad s e.x e.t.uid (effAddr e f) n n with
    | .error i => .fault s i
    | .ok (bs, s) => .ok (loadPart s e id .loads 0 0 0 bs [] (regForm (fldBit f 4) low (.typed (fldBit f 4) f.d.toNat t))))

/-- R227 STL. -/
def execStl (f : Fld) (s : State) : Host.Outcome State Fault Refusal :=
  runMem 0x93 f s .stores (fun s e _ id =>
    let n := tyWidth f.slot.toNat / 8
    let a := effAddr e f
    match localStore s e.t.uid (writerOf e.t e.g.idx e.lane) a n n (fullUnit a (leBytes n (srcD e f))) with
    | .error i => .fault s i
    | .ok s => .ok (noteDone s e.c.w id .stores))

/-- R227 LDW: 16 bytes into vd and v(d + 1). -/
def execLdw (f : Fld) (s : State) : Host.Outcome State Fault Refusal :=
  runMem 0x9C f s .loads (fun s e low id =>
    let va := effAddr e f
    match checkGlobal s e.x va 16 .load with
    | .error i => .fault s i
    | .ok l =>
      match loadLoc s e.t.die e.t.site va 16 l with
      | .error i => .fault s i
      | .ok (bs, links, s) =>
        .ok (loadPart s e id .loads va (locType l) 0 bs links (regForm (fldBit f 4) low (.pair (fldBit f 4) f.d.toNat))))

/-- R227 STW: vd and v(d + 1) as 16 bytes. -/
def execStw (f : Fld) (s : State) : Host.Outcome State Fault Refusal :=
  runMem 0x9D f s .stores (fun s e _ id =>
    match storePlain s e id (effAddr e f) 16 false (leBytes 8 (srcD e f) ++ leBytes 8 (regOf e (fldBit f 4) (f.d.toNat + 1))) with
    | .error i => .fault s i
    | .ok (_, s) => .ok (noteDone s e.c.w id .stores))

/-- R232 STREL: the release, then the store, which is its release point. -/
def execStrel (f : Fld) (s : State) : Host.Outcome State Fault Refusal :=
  let scope := bits f.m.toNat 2 0
  runMem 0x9B f s .stores (fun s e _ id =>
    let n := tyWidth f.slot.toNat / 8
    let va := effAddr e f
    match checkGlobal s e.x va n .store with
    | .error i => .fault s i
    | .ok l =>
      match release s e scope with
      | .ok s =>
        (match l with
         | .win _ _ => .ok (noteDone s e.c.w id .stores)
         | .mem pa _ =>
           let s := putStore s e id va l false (fun _ => pageRaw s e.x va) (fullUnit pa (leBytes n (srcD e f)))
           let s := { s with outReqs := updIf (fun r => r.posted && r.opId == id && r.w == e.c.w && r.lane == e.lane) (fun r => { r with rel := scope != 0 }) s.outReqs }
           let s := if scope < 3 then s else performWhere s e.t.die e.t.site (fun d => decide (pa ≤ d.pa) && decide (d.pa < pa + n))
           .ok (noteDone s e.c.w id .stores))
      | r => r)

/-- R232 STNT: a store outside every release set until drained; ordinary on DEVICE and STRONG pages (R89). -/
def execStnt (f : Fld) (s : State) : Host.Outcome State Fault Refusal :=
  runMem 0x98 f s .stores (fun s e _ id =>
    let n := tyWidth f.slot.toNat / 8
    match storePlain s e id (effAddr e f) n true (leBytes n (srcD e f)) with
    | .error i => .fault s i
    | .ok (_, s') =>
      -- the number that the store took, if the core keeps it
      let sids := if s'.tick == s.tick then [] else [s.tick]
      let s' := opFor s' e.c.w id .stores (.nt []) false
      .ok (modOp s' e.c.w id (fun o => { o with kind := match o.kind with | .nt ps => .nt (ps ++ sids) | k => k })))

/-- R232 NTDRAIN: the thread's STNT stores, and its combined lines (R137), are performed; failures are reported (R403). -/
def execNtdrain (f : Fld) (s : State) : Host.Outcome State Fault Refusal :=
  runSeq 0x99 f s (fun s e =>
    match linkFault s e with
    | some r => r
    | none =>
      if s.outReqs.any (fun r => r.posted && r.copy.isNone && r.w == e.c.w && r.lane == e.lane) then .wait s .resource
      else
        let mine (d : Dirty) : Bool := (d.nt || d.comb) && d.w.uid == e.t.uid && d.w.group == e.g.idx && d.w.lane == e.lane
        .ok (performWhere s e.t.die e.t.site mine))

/-! ## Packed streams -/

/-- The stream bits of LDP and STP (R229): first byte, bit offset in it, bytes touched, element count. -/
def streamSpan (a b w n : Nat) : Nat × Nat × Nat :=
  let first := b * w
  (a + first / 8, first % 8, (first % 8 + n * w + 7) / 8)

/-- The element count of LDP and STP; above L a format fault (R229). -/
def streamCount (k : Fdr) (c : Nat) : Option Nat :=
  let l := elems k
  if c == 0 then some l else if c ≤ l then some c else none

/-- The page type at an address; 0 where none is (window bytes). -/
def pageType (s : State) (c : Ctx) (va : Nat) : Nat :=
  match leafOf s c va with
  | .ok l => bits l.pte 8 7
  | .error _ => 0

/-- R229 LDP. -/
def execLdp (f : Fld) (s : State) : Host.Outcome State Fault Refusal :=
  runMem 0x94 f s .loads (fun s e low id =>
    match slotFor e f.slot.toNat 0 anyFormat with
    | .error i => .fault s i
    | .ok k =>
      match streamCount k f.c.toNat with
      | none => .fault s (formatFault 0)
      | some n =>
        let (va, off, len) := streamSpan (srcA e f) (srcBz e f) k.w n
        let form := regForm (fldBit f 4) low (.packed (fldBit f 4) f.d.toNat k.w n off)
        if fldBit f 3 then
          match localLoad s e.x e.t.uid va len 1 with
          | .error i => .fault s i
          | .ok (bs, s) => .ok (loadPart s e id .loads 0 0 0 bs [] form)
        else
          match loadBytes s e.x e.t.die e.t.site va len .load with
          | .error i => .fault s i
          | .ok (bs, links, s) => .ok (loadPart s e id .loads va (pageType s e.x va) 0 bs links form))

/-- The bytes and bit masks that n elements of width w cover from a bit offset (R229, R230). -/
def streamBytes (w off n x len : Nat) : List (Byte × Byte) :=
  let v := (x % 2 ^ (n * w)) * 2 ^ off
  let m := ones (n * w) * 2 ^ off
  (List.range len).map (fun i => (BitVec.ofNat 8 (v / 2 ^ (8 * i)), BitVec.ofNat 8 (m / 2 ^ (8 * i))))

/-- R229, R230 STP: only the covered bits are stored. -/
def execStp (f : Fld) (s : State) : Host.Outcome State Fault Refusal :=
  runMem 0x95 f s .stores (fun s e _ id =>
    match slotFor e f.slot.toNat 0 anyFormat with
    | .error i => .fault s i
    | .ok k =>
      match streamCount k f.c.toNat with
      | none => .fault s (formatFault 0)
      | some n =>
        let (va, off, len) := streamSpan (srcA e f) (srcBz e f) k.w n
        let bs := streamBytes k.w off n (srcD e f) len
        if fldBit f 3 then
          match localStore s e.t.uid (writerOf e.t e.g.idx e.lane) va len 1 (bs.zipIdx.map (fun p => (va + p.2, p.1.1, p.1.2))) with
          | .error i => .fault s i
          | .ok s => .ok (noteDone s e.c.w id .stores)
        else
          match storeLocs s e.x va len .store with
          | .error i => .fault s i
          | .ok runs => .ok (noteDone (putRuns s e id va false runs bs) e.c.w id .stores))

/-! ## MX pairs -/

/-- Slots of MX pairs: kind 0, 2 or 4 of width 4, 6 or 8 (R231). -/
def mxFormat (k : Fdr) : Bool := (k.kind == 0 || k.kind == 2 || k.kind == 4) && (k.w == 4 || k.w == 6 || k.w == 8)

/-- Registers of the block (R231). -/
def mxRegs (w : Nat) : Nat := (32 + 64 / w - 1) / (64 / w)

/-- The checks of LDMX and STMX that both make before the accesses: slot, registers, line (R231, R110). -/
def mxCheck (e : Env) (f : Fld) : Except FaultInfo Fdr :=
  match slotFor e f.slot.toNat 0 mxFormat with
  | .error i => .error i
  | .ok k =>
    let va := srcA e f
    let last := f.d.toNat + mxRegs k.w
    if 255 < last || e.t.kern.f ≤ last then .error { code := .registerRange }
    else if 2 ^ 56 ≤ va then .error { code := .address, data := va }
    else if 128 < va % 128 + 4 * k.w then .error { code := .alignment, data := va }
    else .ok k

/-- A pair is read at the homes in one event: cached copies of its lines go first (R110). -/
def dropSectors (s : State) (e : Env) (runs : List (Nat × Nat × Loc)) : State :=
  let lines := runs.filterMap (fun r => match r.2.2 with | .mem pa _ => some (pa / 128) | .win _ _ => none)
  modCore s e.t.die e.t.site (fun c => { c with clean := c.clean.filter (fun k => !lines.contains k.line) })

/-- The places of a load at any alignment. -/
def loadLocs (s : State) (c : Ctx) (va n : Nat) (acc : Acc) : Except FaultInfo (List (Nat × Nat × Loc)) :=
  if 2 ^ 56 ≤ va || 2 ^ 56 < va + n then .error { code := .address, data := va }
  else
    (sectorRuns (n / 16 + 2) va n).foldl (fun (r : Except FaultInfo (List (Nat × Nat × Loc))) run => match r with
      | .error f => .error f
      | .ok ls =>
        match locate s c run.1 acc with
        | .error f => .error f
        | .ok l => .ok (ls ++ [(run.1, run.2, l)])) (.ok [])

/-- R231 LDMX. -/
def execLdmx (f : Fld) (s : State) : Host.Outcome State Fault Refusal :=
  runMem 0x96 f s .loads (fun s e _ id =>
    match mxCheck e f with
    | .error i => .fault s i
    | .ok k =>
      let va := srcA e f
      let sv := srcBz e f
      match loadLocs s e.x va (4 * k.w) .mxLoad, loadLocs s e.x sv 1 .mxLoad with
      | .error i, _ => .fault s i
      | _, .error i => .fault s i
      | .ok r1, .ok r2 =>
        let s := dropSectors s e (r1 ++ r2)
        match loadBytes s e.x e.t.die e.t.site va (4 * k.w) .mxLoad with
        | .error i => .fault s i
        | .ok (b1, _, s) =>
          match loadBytes s e.x e.t.die e.t.site sv 1 .mxLoad with
          | .error i => .fault s i
          | .ok (b2, _, s) => .ok (loadPart s e id .loads va 0 0 (b1 ++ b2) [] (.mx f.d.toNat k.w)))

/-- R231 STMX: block and scale as one event. -/
def execStmx (f : Fld) (s : State) : Host.Outcome State Fault Refusal :=
  runMem 0x97 f s .stores (fun s e _ id =>
    match mxCheck e f with
    | .error i => .fault s i
    | .ok k =>
      let va := srcA e f
      let sv := srcBz e f
      match storeLocs s e.x va (4 * k.w) .mxStore, storeLocs s e.x sv 1 .mxStore with
      | .error i, _ => .fault s i
      | _, .error i => .fault s i
      | .ok r1, .ok r2 =>
        match regPoison e.t e.g e.lane [(false, f.d.toNat, mxRegs k.w + 1)] with
        | some i => .fault s i
        | none =>
        let l := 64 / k.w
        let els := (List.range 32).map (fun i => elemAt k.w (srcV e (f.d.toNat + i / l)) (i % l))
        let bytes := leBytes (4 * k.w) (packElems k.w els)
        let scale : Byte := BitVec.ofNat 8 (srcV e (f.d.toNat + mxRegs k.w))
        let unit1 := r1.flatMap (fun r => match r.2.2 with
          | .mem pa _ => (List.range r.2.1).map (fun i => (pa + i, bytes.getD (r.1 - va + i) 0, (0xFF : Byte)))
          | .win _ _ => [])
        let unit2 := r2.flatMap (fun r => match r.2.2 with
          | .mem pa _ => [(pa, scale, (0xFF : Byte))]
          | .win _ _ => [])
        let unit := unit1 ++ unit2
        let s := if unit.isEmpty then s else storeHbm s e.t.die e.t.site 0 (writerOf e.t e.g.idx e.lane) false
          (fun p => if unit2.any (fun u => u.1 == p) then pageRaw s e.x sv else pageRaw s e.x va) unit
        .ok (noteDone s e.c.w id .stores))

/-! ## Cache instructions -/

/-- R228 PREF: no architectural effect and no fault, that of a register included. -/
def execPref (_f : Fld) (s : State) : Host.Outcome State Fault Refusal :=
  withCur s (fun c => goto s c.w c.lanes c.next)

/-- The physical runs of a CDISC range, up to the first fault (R228). -/
def discPages : Nat → State → Env → Nat → Nat → List (Nat × Nat) → List (Nat × Nat) × Option FaultInfo
  | 0, _, _, _, _, ps => (ps, none)
  | fuel + 1, s, e, va, n, ps =>
    if n == 0 then (ps, none)
    else
      let k := min n (4096 - va % 4096)
      match locate s e.x va .cdisc with
      | .error i => (ps, some i)
      | .ok (.win _ _) => (ps, some { code := .memoryType, data := va })
      | .ok (.mem pa _) => discPages fuel s e (va + k) (n - k) (ps ++ [(pa, k)])

/-- Drops the dirty bytes and clean copies of physical runs from a core (R228). -/
def dropRuns (s : State) (die site : Nat) (ps : List (Nat × Nat)) : State :=
  let inside (pa : Nat) : Bool := ps.any (fun p => decide (p.1 ≤ pa) && decide (pa < p.1 + p.2))
  modCore s die site (fun c =>
    { c with dirty := c.dirty.filter (fun d => !inside d.pa),
             clean := c.clean.filter (fun k => !(List.range 8).any (fun i => inside (128 * k.line + 16 * i))) })

/-- R228 CDISC: bytes dropped before a translation fault stay dropped; any other fault leaves everything. -/
def execCdisc (f : Fld) (s : State) : Host.Outcome State Fault Refusal :=
  runSeq 0x9F f s (fun s e =>
    let va := srcA e f
    let n := srcBz e f
    if va % 16 != 0 || n % 16 != 0 then .fault s { code := .alignment, data := va }
    else if 2 ^ 56 < va + n then .fault s { code := .address, data := va }
    else
      match discPages (n / 4096 + 2) s e va n [] with
      | (ps, none) => .ok (dropRuns s e.t.die e.t.site ps)
      | (ps, some i) => .fault (if i.code == .translation then dropRuns s e.t.die e.t.site ps else s) i)

end Sys2Proof.Machine
end

