-- ==== Sys2Proof/Machine/Mob.lean ====
section
/-! DEFINITION. The operand buffer (spec 09 R271-R276, 03 R103-R107): reservations, their records and rows, OPRDY. -/
namespace Sys2Proof.Machine

/-- Rows of a core's MOB (R103). -/
def mobRows : Nat := 30720

/-- Local addresses of MOB rows (R104). -/
def mobBase : Nat := 0x1000000
def mobSpan : Nat := 0x1000000
def mobRowAddr (rng row : Nat) : Nat := mobBase + 0x200000 * rng + 64 * row

/-- Whether an instruction uses MOB rows (R274). -/
def usesMob (m : MInstr) : Bool := m.opcode == 0xD0 || m.opcode == 0xD1 || m.opcode == 0xD2

/-- A team whose rows and tiles are still in use: it runs, or its issued matrix-engine instructions do. -/
def holdsEngine (t : Team) : Bool := !teamEnded t || !t.mq.isEmpty

/-- Rows of a core that are not free: base and length (R105, R107, R274). -/
def mobTaken (s : State) (die site : Nat) : List (Nat × Nat) :=
  let here (t : Team) : Bool := t.role == .compute && t.die == die && t.site == site && holdsEngine t
  (s.teams.filter here).flatMap (fun t => (t.resv.filter (·.valid)).map (fun r => (r.base, r.nrows)))
  ++ ((core s die site).lingering.filter (fun l => match team? s l.uid with
        | some t => t.mq.any (fun m => m.opcode != 0xD9 && decide (m.seq < l.upto))     -- a sequenced one, no ACWR (R274, R277)
        | none => false)).map (fun l => (l.base, l.nrows))

/-- Runs of free rows in ascending order, from a row on. -/
def mobGapsFrom : List (Nat × Nat) → Nat → List (Nat × Nat)
  | [], pos => if pos < mobRows then [(pos, mobRows - pos)] else []
  | (b, n) :: rest, pos => (if pos < b then [(pos, b - pos)] else []) ++ mobGapsFrom rest (max pos (b + n))

def mobGaps (taken : List (Nat × Nat)) : List (Nat × Nat) := mobGapsFrom (sortBy (fun a b => decide (a.1 ≤ b.1)) taken) 0

/-- The ranges of a request placed in ascending m, each at the lowest free row that fits (R107); none if one does not. -/
def mobPlace : List Nat → List (Nat × Nat) → Option (List Nat)
  | [], _ => some []
  | n :: rest, taken =>
    if n == 0 then (mobPlace rest taken).map (fun bs => 0 :: bs)
    else match (mobGaps taken).find? (fun g => decide (n ≤ g.2)) with
      | none => none
      | some g => (mobPlace rest ((g.1, n) :: taken)).map (fun bs => g.1 :: bs)

/-- Fields of a request word (R272). -/
def reqRows (w : Nat) : Nat := bits w 14 0
def reqSofs (w : Nat) : Nat := bits w 30 16
def reqEofs (w : Nat) : Nat := bits w 46 32
def reqGlen (w : Nat) : Nat := bits w 54 52

/-- Whether a request word breaks a limit of R273's status 3. -/
def reqBad (w : Nat) : Bool :=
  bits w 63 55 != 0 || bit w 47 || bit w 31 || bit w 15
  || (reqRows w != 0 && (decide (4 < reqGlen w) || decide (mobRows < reqRows w)
      || (reqSofs w != 0x7FFF && decide (reqRows w ≤ reqSofs w)) || (reqEofs w != 0x7FFF && decide (reqRows w ≤ reqEofs w))
      || (reqGlen w == 0 && (reqSofs w != 0x7FFF || reqEofs w != 0x7FFF))))

/-- The record of a granted range (R105). -/
def grantRecord (w base : Nat) : Resv :=
  if reqRows w == 0 then resv0
  else { valid := true, glen := reqGlen w, fslot := bits w 51 48, eofs := reqEofs w, sofs := reqSofs w,
         nrows := reqRows w, base := base }

/-- The team without the contents of its MOB rows. -/
def clearMob (t : Team) : Team :=
  { t with lmem := t.lmem.clearRange mobBase mobSpan,
           lpoison := t.lpoison.filter (fun p => !(decide (mobBase / 8 ≤ p) && decide (p < (mobBase + mobSpan) / 8))) }

/-- RESV's status and effect (R273). -/
def reserve (s : State) (t : Team) (words : List Nat) : Nat × State :=
  if t.resv.any (·.valid) then (1, s)
  else
    match mobPlace (words.map reqRows) (mobTaken s t.die t.site) with
    | none => (2, s)
    | some bases =>
      if words.any reqBad || words.all (fun w => reqRows w == 0) then (3, s)
      else (0, modTeam s t.uid (fun t => { clearMob t with resv := (words.zip bases).map (fun p => grantRecord p.1 p.2) }))

/-- A status for every guard-true thread (R271). -/
def giveStatus (s : State) (e : Env) (act : List Nat) (f : Fld) (x : Nat) : State :=
  if fldBit f 4 then writeG s e.c.w f.d.toNat x else act.foldl (fun s l => writeV s e.c.w l f.d.toNat x) s

/-- R273 RESV: all ranges or none. -/
def execResv (f : Fld) (s : State) : Host.Outcome State Fault Refusal :=
  runOnce 0xCC f s (fun s e act =>
    match localLoad s e.x e.t.uid (srcA e f) 64 64 with
    | .error i => .fault s i
    | .ok (bs, s) =>
      let req := ofBytes bs
      match team? s e.t.uid with
      | none => .ok s
      | some t =>
        let (st, s) := reserve s t ((List.range 8).map (fun m => bits req (64 * m + 63) (64 * m)))
        .ok (giveStatus s e act f st))

/-- RELV's effect (R274): the records go; rows that issued instructions still use keep their contents for them. -/
def releaseMob (s : State) (t : Team) : State :=
  let inUse := t.mq.any (fun m => usesMob m && m.mobGen == 0)
  let (gen, s) := tickUp s
  let gen := gen + 1
  let s := modTeam s t.uid (fun t =>
    let old := t.lmem.filter (fun c => decide (mobBase ≤ c.1) && decide (c.1 < mobBase + mobSpan))
    let bad := t.lpoison.filter (fun p => decide (mobBase / 8 ≤ p) && decide (p < (mobBase + mobSpan) / 8))
    let t := { clearMob t with resv := List.replicate 8 resv0,
                               mq := updIf (fun m => m.mobGen == 0) (fun m => { m with mobGen := gen }) t.mq }
    if inUse then
      { t with lmem := old.foldl (fun (m : Mem) c => m.set (c.1 + 2 ^ 40 * gen) c.2) t.lmem,
               lpoison := t.lpoison ++ bad.map (fun p => p + 2 ^ 37 * gen) }
    else t)
  if t.mq.isEmpty then s
  else
    let rows : List Lingering := (t.resv.filter (·.valid)).map (fun r => { uid := t.uid, base := r.base, nrows := r.nrows, upto := gen })
    modCore s t.die t.site (fun c => { c with lingering := c.lingering ++ rows })

/-- R274 RELV. -/
def execRelv (f : Fld) (s : State) : Host.Outcome State Fault Refusal :=
  runOnce 0xCD f s (fun s e act =>
    if !e.t.resv.any (·.valid) then .ok (giveStatus s e act f 1)
    else .ok (giveStatus (releaseMob s e.t) e act f 0))

/-- The 128 bits of a record, its base read as 0 (R105, R275). -/
def recordWords (r : Resv) (base : Nat) : Nat × Nat :=
  if !r.valid then (0, 0)
  else (r.eofs % 2 ^ 15 * 2 ^ 48 + r.sofs % 2 ^ 15 * 2 ^ 32 + r.nrows % 2 ^ 15 * 2 ^ 16 + base % 2 ^ 15,
        2 ^ 63 + r.glen % 8 * 2 ^ 4 + r.fslot % 16)

/-- R275 RESQ: a record, or with .free the longest run and the total of free rows. -/
def execResq (f : Fld) (s : State) : Host.Outcome State Fault Refusal :=
  runPure 0xCE f s (fun e =>
    let (lo, hi) :=
      if fldBit f 6 then
        let gaps := mobGaps (mobTaken s e.t.die e.t.site)
        (gaps.foldl (fun m g => max m g.2) 0, gaps.foldl (fun n g => n + g.2) 0)
      else recordWords (e.t.resv.getD f.c.toNat resv0) 0
    .ok [.v f.d.toNat lo, .v (f.d.toNat + 1) hi])

/-- R276 OPRDY: a thread's stores to MOB rows are performed in the core when they are made, so it ends at once. -/
def execOprdy (f : Fld) (s : State) : Host.Outcome State Fault Refusal := runPure 0xCF f s (fun _ => .ok [])

end Sys2Proof.Machine
end

