-- ==== Sys2Proof/Machine/MatrixEngine.lean ====
section
/-! DEFINITION. The matrix engine (spec 09 R277-R290, 01 R44-R46, 02 R76-R83): the checks at issue, power tokens, the
steps of MMA and MMAS, the accumulator instructions, ACRD and ACWR, ACLD and ACST. -/
namespace Sys2Proof.Machine

/-! ## Power tokens (R46, R349) -/

/-- Tokens held now, package-wide. -/
def tokensUsed (s : State) : Nat :=
  sumNat (s.teams.map (fun t => (t.mq.filter (·.token)).length + sumNat (t.groups.map (·.tokenHeld))))

/-- The pool that grants are measured against: the driver's size under the governor's cap. -/
def poolSize (s : State) : Nat := min s.regs.pool s.regs.cap

/-- Groups that wait for tokens: place, since when, how many they need and hold. -/
def tokenWaiters (s : State) : List (Where × Nat × Nat × Nat) :=
  s.teams.flatMap (fun t => t.groups.filterMap (fun g => g.tokenWait.map (fun p => ({ uid := t.uid, group := g.idx }, p.1, p.2, g.tokenHeld))))

/-- Takes n tokens for a group's instruction, or none while earlier groups wait or the pool is short (R46). -/
def takeTokens (s : State) (w : Where) (n : Nat) : Option State :=
  match group? s w with
  | none => none
  | some g =>
    let mine := match g.tokenWait with | some p => p.1 | none => s.tick
    let earlier := (tokenWaiters s).any (fun x => x.1 != w && decide (x.2.1 < mine) && decide (x.2.2.2 < x.2.2.1))
    if n ≤ g.tokenHeld || (!earlier && decide (tokensUsed s + (n - g.tokenHeld) ≤ poolSize s)) then
      some (modGroup s w (fun g => { g with tokenWait := none, tokenHeld := 0 }))
    else none

/-- The group waits for n tokens, since the first time it asked. -/
def awaitTokens (s : State) (w : Where) (n : Nat) : State :=
  let (now, s) := tickUp s
  modGroup s w (fun g => { g with tokenWait := some ((match g.tokenWait with | some p => p.1 | none => now), n) })

/-- R46: one token for the group that has waited longest. -/
def grantToken (s : State) : Option State :=
  if poolSize s ≤ tokensUsed s then none
  else
    let ws := (tokenWaiters s).filter (fun x => decide (x.2.2.2 < x.2.2.1))
    match ws with
    | [] => none
    | w :: rest =>
      let first := rest.foldl (fun b x => if x.2.1 < b.2.1 then x else b) w
      some (modGroup s first.1 (fun g => { g with tokenHeld := g.tokenHeld + 1 }))

/-! ## Tiles (R279) -/

/-- n bytes of a memory from an address on, in one pass. -/
def denseBytes (m : Mem) : Nat → Nat → List Byte
  | _, 0 => []
  | x, n + 1 =>
    match m with
    | [] => memDefault :: denseBytes [] (x + 1) n
    | (a, b) :: rest => if a = x then b :: denseBytes rest (x + 1) n else memDefault :: denseBytes ((a, b) :: rest) (x + 1) n

/-- The bytes of a range of a memory. -/
def rangeBytes (m : Mem) (x n : Nat) : List Byte :=
  denseBytes (m.filter (fun c => decide (x ≤ c.1) && decide (c.1 < x + n))) x n

/-- The memory that holds some bytes from an address on. -/
def ofDense (x : Nat) (bs : List Byte) : Mem :=
  (bs.zipIdx.map (fun p => (x + p.2, p.1))).filter (fun c => c.2 != memDefault)

def words32 : List Byte → List Nat
  | a :: b :: c :: d :: rest => ofBytes [a, b, c, d] :: words32 rest
  | _ => []

/-- The 4,096 cells of a tile, row by row. -/
def cellsOf (m : Mem) : List Nat := words32 (denseBytes m 0 16384)
def ofCells (cs : List Nat) : Mem := ofDense 0 (cs.flatMap (leBytes 4))

def tileAt (t : Team) (n : Nat) : Tile := t.tiles.getD n tile0

/-- Physical tiles of a core that are free, of its 32 (R279). -/
def freeTiles (s : State) (die site : Nat) : Nat :=
  32 - sumNat ((s.teams.filter (fun t => t.role == .compute && t.die == die && t.site == site && holdsEngine t)).map
    (fun t => (t.tiles.filter (·.bound)).length))

/-- The logical tile that an instruction writes. -/
def tileWritten (m : MInstr) : Option Nat :=
  match m.opcode with
  | 0xD0 => some (bits m.block 3 0)
  | 0xD1 => some (bits m.block 3 0)
  | 0xD2 => none
  | 0xD3 => if bit m.m 6 then none else some m.d
  | 0xD9 => some m.a
  | 0xDB => none
  | _ => some m.d

/-- A poisoned sector of a tile holds a cell (R380): four cells to a sector. -/
def cellBad (t : Tile) (i : Nat) : Bool := t.poison.contains (i / 4)

/-! ## Operands of MMA and MMAS (R283, R285) -/

/-- Slot acceptance of R280. -/
def accFormat (k : Fdr) : Bool := (k.kind == 0 && decide (16 ≤ k.w) && decide (k.w ≤ 32)) || ((k.kind == 2 || k.kind == 4) && k.w == 32)
def elemFormat (k : Fdr) : Bool := k.kind != 1 && decide (k.w ≤ 32)
def cellFormat (k : Fdr) : Bool := decide (k.w ≤ 32)

/-- One operand: slot, flush-in, range and record, first block, stride, first scale group, reduction length. -/
structure MOperand where
  f : Fdr
  fi : Bool
  rng : Nat
  r : Resv
  blk : Nat
  str : Nat
  grp : Nat
  k : Nat

/-- An element as the engine reads it: value, nf bits, poisoned. -/
abbrev MElem := Val × Nat × Bool

/-- A byte of the MOB as read lies in a poisoned sector. -/
def snapBad (m : MInstr) (addr : Nat) : Bool := m.snapPoison.any (fun p => p / 2 == addr / 16)

/-- Bits [271:0] of a row as read: elements, then the two scale bytes (R103, R104). -/
def snapRow (m : MInstr) (rng row : Nat) : Nat := ofBytes (rangeBytes m.snap (mobRowAddr rng row) 34)

/-- Rows of a block, elements in a row, bits from element to element (R103). -/
def blockShape (w : Nat) : Nat × Nat × Nat :=
  if w ≤ 8 then (1, 32, w) else if w ≤ 16 then (2, 16, 16) else (4, 8, 32)

/-- First row of block β, and bit offset of its elements in the row (R103, R283). -/
def blockPlace (w b : Nat) : Nat × Nat := if w ≤ 4 then (b / 2, 128 * (b % 2)) else ((blockShape w).1 * b, 0)

/-- The 32 element codes of block β, each with whether a sector under it is poisoned. -/
def blockCodes (m : MInstr) (o : MOperand) (b : Nat) : List (Nat × Bool) :=
  let w := o.f.w
  let (p, per, step) := blockShape w
  let (row, off) := blockPlace w b
  let rows := (List.range p).map (fun r => snapRow m o.rng (row + r))
  (List.range 32).map (fun e =>
    let lo := off + step * (e % per)
    let base := mobRowAddr o.rng (row + e / per)
    (rows.getD (e / per) 0 / 2 ^ lo % 2 ^ w, snapBad m (base + lo / 8) || snapBad m (base + (lo + w - 1) / 8)))

/-- The scale byte of group s (R106), whose first block is b. -/
def scaleByte (m : MInstr) (o : MOperand) (s b : Nat) : Nat × Bool :=
  if o.r.glen == 0 then (127, false)
  else if o.r.sofs == 0x7FFF then
    let (row, _) := blockPlace o.f.w b
    let byte := if o.f.w ≤ 4 then 32 + b % 2 else 32
    (snapRow m o.rng row / 2 ^ (8 * byte) % 256, snapBad m (mobRowAddr o.rng row + byte))
  else
    let row := o.r.sofs + s / 32
    (snapRow m o.rng row / 2 ^ (8 * (s % 32)) % 256, snapBad m (mobRowAddr o.rng row + s % 32))

/-- Entry k of the side list of group s (R106): a binary32 code. -/
def sideEntry (m : MInstr) (o : MOperand) (s k : Nat) : Nat × Bool :=
  let row := o.r.eofs + s / 2
  let at' := 16 * (s % 2) + 4 * k
  (snapRow m o.rng row / 2 ^ (8 * at') % 2 ^ 32, snapBad m (mobRowAddr o.rng row + at'))

/-- An element of group s (R76-R79, R283): its code under the scale, or the value of the nth escape; NaN under a NaN scale
(R78). -/
def elemValue (m : MInstr) (o : MOperand) (s : Nat) (scale : Nat × Bool) (nth : Nat) (code : Nat × Bool) : MElem :=
  let isEsc := (codeVal o.f code.1).2
  if code.2 then (.nan, 0, true)
  else if isEsc && decide (4 ≤ nth) then (.nan, nfES ||| nfIV, false)
  else
    let side := sideEntry m o s nth
    if isEsc && side.2 then (.nan, nfES, true)
    else if scale.2 then (.nan, 0, true)
    else
      let (v, fl) := if isEsc then ((codeVal fdBinary32 side.1).1, nfES) else readCode o.f o.fi code.1
      let v : Val := if scale.1 == 0xFF then .nan
        else if isEsc then v
        else match v with | .fin g q => .fin g (qMul q (qPow2 ((scale.1 : Int) - 127))) | x => x
      (v, fl, false)

/-- Group length G in elements; 32 stands for none. -/
def groupLen (r : Resv) : Nat := 32 * max 1 r.glen

/-- Elements lo … hi − 1 of row (or column) i of a dense operand; lo … hi − 1 lies in one block of 32. -/
def denseElems (m : MInstr) (o : MOperand) (i lo hi : Nat) : List MElem :=
  let g := groupLen o.r
  let start := if o.f.esc then lo / g * g else lo
  let s := o.grp + i * ((o.k + g - 1) / g) + lo / g
  let scale := scaleByte m o s (o.blk + lo / g * g / 32 * o.str + i)
  let codes := (List.range ((hi - start + 31) / 32)).flatMap (fun t => blockCodes m o (o.blk + (start / 32 + t) * o.str + i))
  (codes.zipIdx.foldl (fun (r : List MElem × Nat) c =>
    let k := start + c.2
    if hi ≤ k then r
    else
      let isEsc := (codeVal o.f c.1.1).2
      (if lo ≤ k then elemValue m o s scale r.2 c.1 :: r.1 else r.1, if isEsc then r.2 + 1 else r.2)) ([], 0)).1.reverse

/-- The stored values of block t of row i of a sparse A (R285): dense position and element. -/
def sparseElems (m : MInstr) (o : MOperand) (sparse mrng mrow i t : Nat) : List (Nat × MElem) :=
  let r := if sparse == 1 then 2 else 4
  let g := groupLen o.r
  let b := o.blk + t * o.str + i
  let mr := mrow + b / 4
  let meta' := snapRow m mrng mr / 2 ^ (64 * (b % 4)) % 2 ^ 64
  let metaBad := snapBad m (mobRowAddr mrng mr + 8 * (b % 4))
  let dense (e : Nat) : Nat := if sparse == 1 then 4 * (e / 2) else 4 * e
  let start := if o.f.esc then dense (32 * t) / g * g / r / 32 else t
  let codes := (List.range (t + 1 - start)).flatMap (fun u => blockCodes m o (o.blk + (start + u) * o.str + i))
  let groups := (o.k + g - 1) / g
  (codes.zipIdx.foldl (fun (acc : List (Nat × MElem) × Nat × Nat) c =>
    let e := 32 * start + c.2
    let gi := dense e / g
    let nth := if gi == acc.2.1 then acc.2.2 else 0
    let isEsc := (codeVal o.f c.1.1).2
    let next := if isEsc then nth + 1 else nth
    if e < 32 * t then (acc.1, gi, next)
    else
      let x := meta' / 2 ^ (2 * (e % 32)) % 4
      let k := dense e + x
      if o.k ≤ k then (acc.1, gi, next)
      else
        let s := o.grp + i * groups + gi
        ((k, elemValue m o s (scaleByte m o s 0) nth (c.1.1, c.1.2 || metaBad)) :: acc.1, gi, next))
    ([], 0, 0)).1.reverse

/-- An exact block sum (R81, R82, R216): `missing` adds the +0 of absent positions. -/
def blockSum (mode : Nat) (ps : List (Val × Val)) (missing : Bool) : Val × Nat :=
  if ps.any (fun p => p.1.isNan || p.2.isNan) then (.nan, 0)
  else
    let r := sumVals (ps.map (fun p => (mulVal p.1 p.2).1) ++ (if missing then [Val.fin false (qOf 0)] else [])) mode
    (r.1, if r.1.isNan then nfIV else 0)

/-- Fields of the parameter block (R281). -/
def pbTile (b : Nat) : Nat := bits b 3 0
def pbAcc (b : Nat) : Nat := bits b 7 4
def pbZero (b : Nat) : Bool := bit b 8
def pbSparse (b : Nat) : Nat := bits b 10 9
def pbRnd (b : Nat) : Nat := bits b 15 13
def pbM (b : Nat) : Nat := bits b 30 24
def pbN (b : Nat) : Nat := bits b 38 32
def pbK (b : Nat) : Nat := bits b 63 40
def pbMrng (b : Nat) : Nat := bits b 194 192
def pbMrow (b : Nat) : Nat := bits b 214 200
def pbSw (b : Nat) : Nat := bits b 287 256
def pbOperandA (b : Nat) (f : Fdr) (rs : List Resv) : MOperand :=
  { f := f, fi := bit b 16, rng := bits b 66 64, r := rs.getD (bits b 66 64) resv0, blk := bits b 87 72, str := bits b 103 88,
    grp := bits b 119 104, k := pbK b }
def pbOperandB (b : Nat) (f : Fdr) (rs : List Resv) : MOperand :=
  { f := f, fi := bit b 16, rng := bits b 130 128, r := rs.getD (bits b 130 128) resv0, blk := bits b 151 136, str := bits b 167 152,
    grp := bits b 183 168, k := pbK b }

/-- Dense K of a step: one block of 32, or the span of a stored block (R285, R286). -/
def stepSpan (b : Nat) : Nat := match pbSparse b with | 0 => 32 | 1 => 64 | _ => 128
def mmaSteps (b : Nat) : Nat := (pbK b + stepSpan b - 1) / stepSpan b

/-- A block of 32 positions of A for one row: the stored values at each position; a skipped position of a sparse A stands
as a +0 code (R83). -/
def positions (lo hi : Nat) (es : List (Nat × MElem)) : List (List Val) :=
  (List.range (hi - lo)).map (fun p =>
    match es.filterMap (fun e => if e.1 == lo + p then some e.2.1 else none) with
    | [] => [.fin false (qOf 0)]
    | vs => vs)

/-- One dense block of 32 accumulated into the cells (R284): cells and tile flags. -/
def accumulate (m : MInstr) (acc : Fdr) (mode jj : Nat) (missing : Bool) (as bs : List (List (List Val))) (bad : Nat → Nat → Bool)
    (st : List Nat × Nat) : List Nat × Nat :=
  let b := m.block
  let res := st.1.zipIdx.map (fun c =>
    let i := c.2 / 64
    let n := c.2 % 64
    if pbM b ≤ i || pbN b ≤ n then (c.1, 0)
    else
      let ps := ((as.getD i []).zip (bs.getD n [])).flatMap (fun p => p.1.flatMap (fun a => p.2.map (fun v => (a, v))))
      let t := if bad i n then (Val.nan, 0) else blockSum mode ps missing
      let (av, fa) := readCode acc false (c.1 % 2 ^ acc.w)
      let x := sumVals [av, t.1] mode
      let u := if mode == 5 then sowDraw (4096 * jj + c.2) (pbAcc b) (pbSw b) m.srk.toNat else 0
      let r := flushOut acc (bit b 17) (roundVal acc x.1 mode u)
      (r.1, r.2 ||| x.2 ||| t.2 ||| fa))
  (res.map (·.1), st.2 ||| orAll (res.map (·.2)))

/-- A cell, and a 16-byte sector of a tile, within the M rows and N columns of a parameter block. -/
def blockCell (b i : Nat) : Bool := decide (i / 64 < pbM b) && decide (i % 64 < pbN b)
def blockSector (b q : Nat) : Bool := (List.range 4).all (fun i => blockCell b (4 * q + i))

/-- The accumulators, tile flags and poison that a step of MMA or MMAS starts from (R284): +0 at the first step of zero = 1,
NaN for a cell in a poisoned sector (R380), else the tile's cells. A sector that the block covers in part keeps its poison
after the first step, which has dealt with it. -/
def mmaCells (tile : Tile) (m : MInstr) : List Nat × Nat × Bool :=
  let b := m.block
  let acc := fdrOf (m.fds.getD 0 0).toNat
  let zero := pbZero b && m.step == 0
  let bad (i : Nat) : Bool := blockCell b i && cellBad tile i && (m.step == 0 || blockSector b (i / 4))
  let nan := (nanCode acc).getD 0
  ((cellsOf tile.cells).zipIdx.map (fun c =>
      if zero && blockCell b c.2 then zeroCode acc false else if tile.poison != [] && bad c.2 then nan else c.1),
    if zero then 0 else tile.tf.toNat,
    !zero && tile.poison != [] && (List.range 4096).any bad)

/-- One step of MMA or MMAS (R284-R286): the tile after it, and whether poison was met. -/
def mmaStep (tile : Tile) (m : MInstr) : Tile × Bool :=
  let b := m.block
  let acc := fdrOf (m.fds.getD 0 0).toNat
  let oa := pbOperandA b (fdrOf (m.fds.getD 1 0).toNat) m.resv
  let ob := pbOperandB b (fdrOf (m.fds.getD 2 0).toNat) m.resv
  let mode := modeOf acc (pbRnd b)
  let k := pbK b
  let sparse := pbSparse b
  let j0 := m.step * stepSpan b / 32
  let blocks := (List.range (stepSpan b / 32)).filter (fun u => decide (32 * (j0 + u) < k))
  let rowsA := (List.range (pbM b)).map (fun i =>
    if sparse == 0 then ((denseElems m oa i (32 * j0) (min k (32 * j0 + 32))).zipIdx.map (fun e => (32 * j0 + e.2, e.1)))
    else sparseElems m oa sparse (pbMrng b) (pbMrow b) i m.step)
  let r := blocks.foldl (fun (st : List Nat × Nat × Bool) u =>
    let jj := j0 + u
    let lo := 32 * jj
    let hi := min k (lo + 32)
    let ra := rowsA.map (fun es => es.filter (fun e => decide (lo ≤ e.1) && decide (e.1 < hi)))
    let rb := (List.range (pbN b)).map (fun n => denseElems m ob n lo hi)
    let badA := ra.map (fun es => es.any (fun e => e.2.2.2))
    let badB := rb.map (fun es => es.any (fun e => e.2.2))
    let fl := orAll (ra.map (fun es => orAll (es.map (fun e => e.2.2.1)))) ||| orAll (rb.map (fun es => orAll (es.map (fun e => e.2.1))))
    let (cells, tf) := accumulate m acc mode jj (hi - lo != 32) (ra.map (positions lo hi)) (rb.map (fun es => es.map (fun e => [e.1])))
      (fun i n => badA.getD i false || badB.getD n false) (st.1, st.2.1 ||| fl)
    (cells, tf, st.2.2 || badA.any id || badB.any id)) (mmaCells tile m)
  ({ bound := true, cells := ofCells r.1, tf := BitVec.ofNat 9 r.2.1, poison := tile.poison.filter (fun q => !blockSector b q) }, r.2.2)

/-- The engine reads the MOB rows of an instruction, each sector once. R276 lets each sector have its own moment, up to the
instruction's completion: the model reads them all at its first step (the model's choice, log 35). -/
def mmaStart (t : Team) (m : MInstr) : MInstr :=
  let off := 2 ^ 40 * m.mobGen
  { m with started := true,
           snap := (t.lmem.filter (fun c => decide (off + mobBase ≤ c.1) && decide (c.1 < off + mobBase + mobSpan))).map (fun c => (c.1 - off, c.2)),
           snapPoison := (t.lpoison.filter (fun p => decide ((off + mobBase) / 8 ≤ p) && decide (p < (off + mobBase + mobSpan) / 8))).map (fun p => p - off / 8) }

/-! ## Checks at issue -/

def mparam : FaultInfo := { code := .matrixParameter }

/-- First stage of R282. -/
def mmaBlockOk (e : Env) (op b : Nat) : Bool :=
  let sparse := op == 0xD1
  let ra := e.t.resv.getD (bits b 66 64) resv0
  let rb := e.t.resv.getD (bits b 130 128) resv0
  let rm := e.t.resv.getD (pbMrng b) resv0
  bits b 511 288 == 0 && bits b 255 215 == 0 && bits b 199 195 == 0 && bits b 191 184 == 0 && bits b 135 131 == 0
  && bits b 127 120 == 0 && bits b 71 67 == 0 && !bit b 39 && !bit b 31 && bits b 23 18 == 0
  && (sparse || (pbMrow b == 0 && pbMrng b == 0))
  && decide (1 ≤ pbM b) && decide (pbM b ≤ 64) && decide (1 ≤ pbN b) && decide (pbN b ≤ 64) && pbK b != 0
  && decide (pbM b ≤ bits b 103 88) && decide (pbN b ≤ bits b 167 152)
  && pbRnd b != 7 && bits b 12 11 != 3 && pbSparse b != 3 && (sparse == (pbSparse b != 0))
  && ra.valid && rb.valid && (!sparse || (rm.valid && !(ra.glen != 0 && ra.sofs == 0x7FFF)))

/-- A slot through its definition (R280, R59). -/
def engineSlot (e : Env) (n role : Nat) (accepts : Fdr → Bool) : Except FaultInfo Word :=
  match slotFor e n role accepts with
  | .error i => .error i
  | .ok _ => .ok (BitVec.ofNat 64 (slotWord e.x n))

/-- The range's slot, whose escapes need a side list (R106). -/
def rangeSlot (e : Env) (r : Resv) : Except FaultInfo Word :=
  engineSlot e r.fslot 4 (fun k => elemFormat k && !(k.esc && r.eofs == 0x7FFF))

/-- Third stage of R282: the highest row that an operand of cnt rows and n blocks each reads. -/
def operandRows (o : MOperand) (cnt n : Nat) : Nat :=
  let last := o.blk + (n - 1) * o.str + cnt - 1
  let (p, _, _) := blockShape o.f.w
  let g := groupLen o.r
  let s := o.grp + cnt * ((o.k + g - 1) / g) - 1
  let top := (blockPlace o.f.w last).1 + (p - 1)
  let top := if o.r.glen != 0 && o.r.sofs != 0x7FFF then max top (o.r.sofs + s / 32) else top
  if o.r.glen != 0 && o.f.esc then max top (o.r.eofs + s / 2) else top

def engineInstr (e : Env) (op : Nat) (f : Fld) : MInstr :=
  { seq := 0, group := e.g.idx, lane := e.lane, opId := 0, opcode := op, addr := e.c.pc, handle := 0, d := f.d.toNat,
    a := f.a.toNat, b := f.b.toNat, m := f.m.toNat, block := f.c.toNat + 256 * f.slot.toNat, fds := [], srk := e.x.srk,
    srw := e.x.srw.toNat, resv := e.t.resv, lanes := 0, step := 0, started := false, token := true, waited := 0, snap := [],
    snapPoison := [], mobGen := 0, work := [], tf := 0, paused := none, poisoned := false }

/-- MMA and MMAS at issue (R281, R282). -/
def mmaPrep (op : Nat) (f : Fld) (s : State) (e : Env) : Except FaultInfo (MInstr × State) :=
  match localLoad s e.x e.t.uid (srcA e f) 64 64 with
  | .error i => .error i
  | .ok (bs, s) =>
    let b := ofBytes bs
    if !mmaBlockOk e op b then .error mparam
    else
      let ra := e.t.resv.getD (bits b 66 64) resv0
      let rb := e.t.resv.getD (bits b 130 128) resv0
      match engineSlot e (pbAcc b) 4 accFormat, rangeSlot e ra, rangeSlot e rb with
      | .error i, _, _ => .error i
      | _, .error i, _ => .error i
      | _, _, .error i => .error i
      | .ok fc, .ok fa, .ok fb =>
        let oa := pbOperandA b (fdrOf fa.toNat) e.t.resv
        let ob := pbOperandB b (fdrOf fb.toNat) e.t.resv
        let lastA := oa.blk + (mmaSteps b - 1) * oa.str + pbM b - 1
        if ra.nrows ≤ operandRows oa (pbM b) (mmaSteps b) || rb.nrows ≤ operandRows ob (pbN b) ((pbK b + 31) / 32)
            || (op == 0xD1 && decide ((e.t.resv.getD (pbMrng b) resv0).nrows ≤ pbMrow b + lastA / 4)) then .error mparam
        else .ok ({ engineInstr e op f with block := b, fds := [fc, fa, fb] }, s)

/-- The places of a row-wise transfer of a tile: row, offset in the row, address, length, no run across a sector. -/
def tileRuns (w base pitch : Nat) : List (Nat × Nat × Nat × Nat) :=
  (List.range 64).flatMap (fun i =>
    let a := base + i * pitch
    (sectorRuns (8 * w / 16 + 2) a (8 * w)).map (fun r => (i, r.1 - a, r.1, r.2)))

/-- ACLD and ACST at issue (R289): slot, alignment, pitch, every byte. -/
def tileTransferPrep (op : Nat) (f : Fld) (s : State) (e : Env) : Except FaultInfo (MInstr × State) :=
  match engineSlot e f.slot.toNat 0 cellFormat with
  | .error i => .error i
  | .ok fd =>
    let w := (fdrOf fd.toNat).w
    let a := srcA e f
    let pitch := srcBz e f
    let store := op == 0xDB
    if a % 16 != 0 || pitch % 16 != 0 then .error { code := .alignment, data := a }
    else if pitch < 8 * w then .error mparam
    else
      let checkRun (r : Except FaultInfo State) (run : Nat × Nat × Nat × Nat) : Except FaultInfo State :=
        let va := run.2.2.1
        let n := run.2.2.2
        match r with
        | .error i => .error i
        | .ok s =>
          if bit f.m.toNat 3 then
            if store then
              if decide (2 ^ 32 ≤ va) || !(List.range n).all (fun i => localHeld s e.t true (va + i)) then
                .error { code := .localRange, data := va }
              else .ok s
            else (match localLoad s e.x e.t.uid va n 1 with | .error i => .error i | .ok (_, s) => .ok s)
          else if 2 ^ 56 < va + n then .error { code := .address, data := va }
          else match locate s e.x va (if store then .store else .load) with
            | .error i => .error i
            | .ok (.mem pa ty) =>
              if !store && targetOf s pa == .hbm then
                (match loadPoison s e.t.die e.t.site ty pa n with
                 | some sram => .error { code := .poison, detail := b2n sram, data := va }
                 | none => .ok s)
              else if store && s.deques.any (fun d => d.1 == pa / 128) then .error { code := .memoryType, data := va }
              else .ok s
            | .ok (.win _ _) => .ok s
      match (tileRuns w a pitch).foldl checkRun (.ok s) with
      | .error i => .error i
      | .ok s => .ok ({ engineInstr e op f with a := a, b := pitch, fds := [fd] }, s)

/-- The first row of ACRD and ACWR. -/
def rowOperand (e : Env) (f : Fld) : Nat := srcBz e f

/-! ## Execution -/

/-- A pause at a translation fault (R289, R359): the entry in the fault queue. -/
def pauseEntry (s : State) (wr : Writer) (die site addr handle va desc detail : Nat) : State :=
  queueFault s wr.ctx ([1 + detail % 2 ^ 16 * 2 ^ 16 + 2 ^ (wr.lane % 32) * 2 ^ 32, addr, handle, va, desc, wr.acc, wr.cix,
    wr.ctx + wr.k * 2 ^ 16 + wr.group * 2 ^ 20 + die * 2 ^ 28 + site * 2 ^ 32].map (BitVec.ofNat 64))

/-- The environment in which an issued instruction's thread makes its accesses. -/
def engineEnv (s : State) (t : Team) (m : MInstr) : Option Env :=
  env? s { w := { uid := t.uid, group := m.group }, lanes := [m.lane], pc := m.addr, next := m.addr, dword := 0, lit := 0,
           form := 3, noPatch := true, noG := false } m.lane

def modInstr (s : State) (uid seq : Nat) (f : MInstr → MInstr) : State :=
  modTeam s uid (fun t => { t with mq := updIf (fun m => m.seq == seq) f t.mq })

/-- A fault that the issuing thread takes later (R289, R380). -/
def engineLate (s : State) (t : Team) (m : MInstr) (i : FaultInfo) : State :=
  lateFault s { uid := t.uid, group := m.group } m.lane .engine i

/-- The end of an instruction: its token returns, the contents of a released set go when nothing uses them (R46, R274). -/
def finishInstr (s : State) (uid seq : Nat) : State :=
  match team? s uid with
  | none => s
  | some t =>
    match t.mq.find? (fun m => m.seq == seq) with
    | none => s
    | some m =>
      let s := if m.poisoned then engineLate s t m { code := .poison, detail := 1 } else s
      let s := modTeam s uid (fun t =>
        let mq := t.mq.filter (fun x => x.seq != seq)
        let gone := m.mobGen != 0 && !mq.any (fun x => x.mobGen == m.mobGen)
        { t with mq := mq, lmem := if gone then t.lmem.clearRange (2 ^ 40 * m.mobGen) (2 ^ 40) else t.lmem })
      modCore s t.die t.site (fun c => if c.running == some (uid, seq) then { c with running := none } else c)

/-- Writes a whole tile and ORs its flags (R279, R287). -/
def putTile (s : State) (uid n : Nat) (f : Tile → Tile) : State :=
  modTeam s uid (fun t => { t with tiles := t.tiles.modify n (fun x => f { x with bound := true }) })

/-- Element-wise accumulator instructions (R287): results and flags cell by cell. -/
def cellwise (m : MInstr) (k : Fdr) (slot : Nat) (g : Nat → Nat → Val × Nat) : List Nat × Nat :=
  let mode := modeOf k (bits m.m 2 0)
  let rs := (List.range 4096).map (fun i =>
    let x := g mode i
    let u := if mode == 5 then sowDraw i slot m.srw m.srk.toNat else 0
    let r := flushOut k (bit m.m 7) (roundVal k x.1 mode u)
    (r.1, r.2 ||| x.2))
  (rs.map (·.1), orAll (rs.map (·.2)))

/-- The slot number and the c field that an instruction kept. -/
def keptSlot (m : MInstr) : Nat := m.block / 256
def keptC (m : MInstr) : Nat := m.block % 256

/-- ACZ, ACMOV, ACADD, ACSCL, ACCVT (R287). -/
def accRun (s : State) (t : Team) (m : MInstr) : State :=
  let src (n : Nat) : List Nat := cellsOf (tileAt t n).cells
  let ta := tileAt t m.a
  let tb := tileAt t m.b
  let k := fdrOf (m.fds.getD 0 0).toNat
  let fi := bit m.m 8
  let read (f : Fdr) (c : Nat) : Val × Nat := readCode f fi (c % 2 ^ f.w)
  let put (r : List Nat × Nat) : State :=
    putTile s t.uid m.d (fun x => { x with cells := ofCells r.1, tf := x.tf ||| BitVec.ofNat 9 r.2, poison := [] })
  let spoil (s : State) (ts : List Tile) : State :=
    if ts.all (fun x => x.poison == []) then s else modInstr s t.uid m.seq (fun m => { m with poisoned := true })
  match m.opcode with
  | 0xD3 =>
    if bit m.m 6 then modTeam s t.uid (fun t => { t with tiles := t.tiles.set m.d tile0 })
    else putTile s t.uid m.d (fun x => { x with cells := [], tf := 0, poison := [] })
  | 0xD4 => spoil (putTile s t.uid m.d (fun x => { x with cells := ta.cells, tf := ta.tf, poison := ta.poison })) [ta]
  | 0xD5 =>
    let a := src m.a
    let b := src m.b
    spoil (put (cellwise m k (keptSlot m) (fun mode i =>
      if cellBad ta i || cellBad tb i then (.nan, 0)
      else
        let x := read k (a.getD i 0)
        let y := read k (b.getD i 0)
        let r := sumVals [x.1, y.1] mode
        (r.1, r.2 ||| x.2 ||| y.2)))) [ta, tb]
  | 0xD6 =>
    let a := src m.a
    let sc := read k m.b
    spoil (put (cellwise m k (keptSlot m) (fun _ i =>
      if cellBad ta i then (.nan, 0)
      else
        let x := read k (a.getD i 0)
        let r := mulVal x.1 sc.1
        (r.1, r.2 ||| x.2 ||| sc.2)))) [ta]
  | _ =>
    let a := src m.a
    let ks := fdrOf (m.fds.getD 1 0).toNat
    spoil (put (cellwise m k (keptSlot m) (fun _ i => if cellBad ta i then (.nan, 0) else read ks (a.getD i 0)))) [ta]

/-- TLMOV (R287): the tile becomes blocks β0 … β0 + 127 of a range. -/
def tlmovRun (s : State) (t : Team) (m : MInstr) : State :=
  let w := (fdrOf (m.fds.getD 0 0).toNat).w
  let tile := tileAt t m.a
  let cells := cellsOf tile.cells
  let tr := bit (keptC m) 0
  let off := 2 ^ 40 * m.mobGen
  let (p, per, step) := blockShape w
  let s := modTeam s t.uid (fun t => (List.range 128).foldl (fun (t : Team) n =>
    let i := n % 64
    let h := n / 64
    let (row, lo) := blockPlace w (m.b + n)
    let t := (List.range p).foldl (fun (t : Team) r =>
      let addr := off + mobRowAddr m.d (row + r)
      let old := t.lmem.readN addr 32
      let new := (List.range per).foldl (fun x q =>
        let e := per * r + q
        let c := cells.getD (if tr then 64 * (32 * h + e) + i else 64 * i + 32 * h + e) 0
        setBits x (lo + step * q + w - 1) (lo + step * q) c) old
      -- words that are written whole are poisoned no more (R380)
      let whole := (List.range (per * step / 64)).map (fun q => (addr + lo / 8) / 8 + q)
      { t with lmem := t.lmem.writeN addr 32 new, lpoison := t.lpoison.filter (fun p => !whole.contains p) }) t
    { t with lmem := t.lmem.set (off + mobRowAddr m.d row + (if w ≤ 4 then 32 + (m.b + n) % 2 else 32)) 0x7F }) t)
  if tile.poison == [] then s else modInstr s t.uid m.seq (fun m => { m with poisoned := true })

/-- Packed elements of a row of a tile (R108, R289). -/
def tileRowBytes (w : Nat) (cells : List Nat) (i : Nat) : List Byte :=
  leBytes (8 * w) (packElems w ((cells.drop (64 * i)).take 64))

/-- How a tile transfer ended: done, paused at a translation fault, or stopped. -/
inductive TransferEnd
  | done (s : State)
  | paused (s : State) (run : Nat) (i : FaultInfo)
  | stopped (s : State) (run : Nat) (i : FaultInfo)

/-- The runs of a tile transfer from run n on, each translated again (R289). -/
def transferRuns (one : State → Nat × Nat × Nat × Nat → Except FaultInfo State) : List (Nat × Nat × Nat × Nat) → Nat → State → TransferEnd
  | [], _, s => .done s
  | r :: rest, n, s =>
    match one s r with
    | .ok s => transferRuns one rest (n + 1) s
    | .error i => if i.code == .translation then .paused s n i else .stopped s n i

/-- One run of ACLD: its bytes go to the instruction's work area, at 16 bytes a run's place in the rows. -/
def acldRun (e : Env) (m : MInstr) (w : Nat) (s : State) (r : Nat × Nat × Nat × Nat) : Except FaultInfo State :=
  let keep (s : State) (bs : List Byte) : State :=
    modInstr s e.t.uid m.seq (fun m => { m with work := m.work.writeList (8 * w * r.1 + r.2.1) bs })
  if bit m.m 3 then
    match localLoad s e.x e.t.uid r.2.2.1 r.2.2.2 1 with
    | .error i => .error i
    | .ok (bs, s) => .ok (keep s bs)
  else
    match loadNow s e.x e.t.die e.t.site r.2.2.1 r.2.2.2 .load with
    | .error i => .error i
    | .ok (bs, s) => .ok (keep s bs)

/-- One run of ACST. -/
def acstRun (e : Env) (m : MInstr) (w : Nat) (cells : List Nat) (s : State) (r : Nat × Nat × Nat × Nat) : Except FaultInfo State :=
  let bs := ((tileRowBytes w cells r.1).drop r.2.1).take r.2.2.2
  if bit m.m 3 then localStore s e.t.uid (writerOf e.t e.g.idx e.lane) r.2.2.1 r.2.2.2 1 (fullUnit r.2.2.1 bs)
  else
    match storeLocs s e.x r.2.2.1 r.2.2.2 .store with
    | .error i => .error i
    | .ok runs => .ok (putRuns s e m.opId r.2.2.1 false runs (bs.map (fun b => (b, 0xFF))))

/-- The cells that the bytes below a place give (R289). -/
def acldCommit (s : State) (uid seq n w below : Nat) : State :=
  match (team? s uid).bind (fun t => t.mq.find? (fun m => m.seq == seq)) with
  | none => s
  | some m =>
    let bytes := denseBytes m.work 0 (512 * w)
    putTile s uid n (fun x =>
      let old := cellsOf x.cells
      let rows := (List.range 64).map (fun i => ofBytes ((bytes.drop (8 * w * i)).take (8 * w)))
      let cells := old.zipIdx.map (fun c =>
        let i := c.2 / 64
        let j := c.2 % 64
        if 8 * w * i + (w * j + w - 1) / 8 < below then rows.getD i 0 / 2 ^ (w * j) % 2 ^ w else c.1)
      { x with cells := ofCells cells, poison := if 512 * w ≤ below then [] else x.poison })

/-- The bytes of a run that a transfer can still move below the first that it cannot, one by one (R289): their number. -/
def transferBytes (one : State → Nat × Nat × Nat × Nat → Except FaultInfo State) (r : Nat × Nat × Nat × Nat) : Nat → Nat → State → State × Nat
  | 0, j, s => (s, j)
  | n + 1, j, s =>
    match one s (r.1, r.2.1 + j, r.2.2.1 + j, 1) with
    | .ok s => transferBytes one r n (j + 1) s
    | .error _ => (s, j)

/-- ACLD and ACST at execution (R289). -/
def transferRun (s : State) (t : Team) (m : MInstr) : State :=
  match engineEnv s t m with
  | none => finishInstr s t.uid m.seq
  | some e =>
    let w := (fdrOf (m.fds.getD 0 0).toNat).w
    let runs := tileRuns w m.a m.b
    let load := m.opcode == 0xDA
    let tile := tileAt t m.d
    let cells := cellsOf tile.cells
    let s := if load || tile.poison == [] then s else modInstr s t.uid m.seq (fun m => { m with poisoned := true })
    let place (n : Nat) : Nat := match runs[n]? with | some r => 8 * w * r.1 + r.2.1 | none => 512 * w
    let one := if load then acldRun e m w else acstRun e m w cells
    match transferRuns one (runs.drop m.step) m.step s with
    | .done s =>
      let s := if load then acldCommit s t.uid m.seq m.d w (512 * w) else s
      finishInstr s t.uid m.seq
    | .paused s n i =>
      let s := modInstr s t.uid m.seq (fun m => { m with step := n, paused := some i.data, started := true })
      let s := modCore s t.die t.site (fun c => { c with running := none })
      pauseEntry s (writerOf t m.group m.lane) t.die t.site m.addr m.handle i.data 0 i.detail
    | .stopped s n i =>
      let (s, good) := match runs[n]? with | some r => transferBytes one r r.2.2.2 0 s | none => (s, 0)
      let s := if load then acldCommit s t.uid m.seq m.d w (place n + good) else s
      finishInstr (engineLate s t m i) t.uid m.seq

/-- ACWR's cells (R288): its data are kept row by row, lane by lane. -/
def acwrRun (s : State) (t : Team) (m : MInstr) : State :=
  let lanes := (List.range 32).filter (fun l => bit m.lanes l)
  let rows := m.block
  let puts := (List.range rows).flatMap (fun r => lanes.zipIdx.map (fun l => (64 * (m.b + r) + 2 * l.1, (m.fds.getD (lanes.length * r + l.2) 0).toNat)))
  let s := putTile s t.uid m.a (fun x => { x with
    cells := puts.foldl (fun c p => c.writeN (4 * p.1) 8 p.2) x.cells,
    poison := x.poison.filter (fun q => !((List.range 4).all (fun i => puts.any (fun p => p.1 == 4 * q + i || p.1 + 1 == 4 * q + i)))) })
  finishInstr s t.uid m.seq

/-- One step of an instruction at the engine (R286). -/
def engineStep (s : State) (t : Team) (m : MInstr) : State :=
  match m.opcode with
  | 0xD2 => finishInstr (tlmovRun s t m) t.uid m.seq
  | 0xD9 => acwrRun s t m
  | 0xDA => transferRun s t m
  | 0xDB => transferRun s t m
  | 0xD3 => finishInstr (accRun s t m) t.uid m.seq
  | 0xD4 => finishInstr (accRun s t m) t.uid m.seq
  | 0xD5 => finishInstr (accRun s t m) t.uid m.seq
  | 0xD6 => finishInstr (accRun s t m) t.uid m.seq
  | 0xD7 => finishInstr (accRun s t m) t.uid m.seq
  | _ =>
    let m := if m.started then m else mmaStart t m
    let n := pbTile m.block
    let (tile, bad) := mmaStep (tileAt t n) m
    let s := modTeam s t.uid (fun t => { t with tiles := t.tiles.set n tile })
    let s := modInstr s t.uid m.seq (fun _ => { m with step := m.step + 1, poisoned := m.poisoned || bad })
    if mmaSteps m.block ≤ m.step + 1 then finishInstr s t.uid m.seq
    else modCore s t.die t.site (fun c => { c with running := some (t.uid, m.seq) })

/-- Whether an instruction at the head of its team can run its next step (R277, R279, R46, R289). R46 orders the groups that
wait for a token and does not place a displaced instruction among them: it takes the first free token, ahead of groups that
have waited longer (the model's choice, log 35). -/
def canStep (s : State) (t : Team) (m : MInstr) : Bool :=
  m.paused.isNone
  && (match tileWritten m with | some n => (tileAt t n).bound || decide (0 < freeTiles s t.die t.site) | none => true)
  && (m.token || decide (tokensUsed s < poolSize s))

/-- An uncorrectable error in a sector of a tile that an MMA is accumulating (R380): its cells there become NaN. -/
def mmaError (t : Team) (tile sector : Nat) : Team :=
  match t.mq.find? (fun m => (m.opcode == 0xD0 || m.opcode == 0xD1) && decide (0 < m.step) && pbTile m.block == tile) with
  | none => t
  | some m =>
    let nan := (nanCode (fdrOf (m.fds.getD 0 0).toNat)).getD 0
    let cells := (List.range 4).filterMap (fun i => if blockCell m.block (4 * sector + i) then some (4 * sector + i) else none)
    if cells.isEmpty then t
    else { t with
      tiles := t.tiles.modify tile (fun x => { x with cells := cells.foldl (fun c i => c.writeN (4 * i) 4 nan) x.cells }),
      mq := updIf (fun x => x.seq == m.seq) (fun x => { x with poisoned := true }) t.mq }

/-- An instruction has run a step and has not completed. -/
def underWay (m : MInstr) : Bool := m.started || decide (0 < m.step)

/-- The head of a team's sequence, and the ACWRs, which are in no sequence (R277, R288). -/
def engineHeads (t : Team) : List MInstr :=
  let sequenced := t.mq.filter (fun m => m.opcode != 0xD9)
  let acwr := t.mq.filter (fun m => m.opcode == 0xD9
    && !t.mq.any (fun x => x.opcode != 0xD9 && underWay x && tileWritten x == some m.a))
  sequenced.take 1 ++ acwr

/-- The choice of R45 among the instructions that can run a step: the oldest that 256 steps have passed over, else the
highest class, within it the one that holds the engine, else the first issued. -/
def chooseStep (running : Option (Nat × Nat)) (cs : List (Team × MInstr)) : Option (Team × MInstr) :=
  let oldest (xs : List (Team × MInstr)) : Option (Team × MInstr) :=
    xs.foldl (fun b x => match b with | none => some x | some y => if x.2.seq < y.2.seq then some x else some y) none
  match oldest (cs.filter (fun c => decide (256 ≤ c.2.waited))) with
  | some c => some c
  | none =>
    let top := cs.foldl (fun m c => max m c.1.cls) 0
    let best := cs.filter (fun c => c.1.cls == top)
    match best.find? (fun c => running == some (c.1.uid, c.2.seq)) with
    | some c => some c
    | none => oldest best

/-- One step of a core's matrix engine (R45, R284); none when nothing can run. -/
def stepEngine (s : State) (die site : Nat) : Option State :=
  let teams := s.teams.filter (fun t => t.role == .compute && t.die == die && t.site == site)
  let cs := teams.flatMap (fun t => ((engineHeads t).filter (canStep s t)).map (fun m => (t, m)))
  let running := (core s die site).running
  match chooseStep running cs with
  | none => none
  | some (t, m) =>
    -- a displaced instruction returns its token (R46)
    let s := match running with
      | some r => if r == (t.uid, m.seq) then s else modInstr s r.1 r.2 (fun x => { x with token := false })
      | none => s
    let s := modCore s die site (fun c => { c with running := none })
    let s := { s with teams := s.teams.map (fun u =>
      if u.role == .compute && u.die == die && u.site == site then
        { u with mq := u.mq.map (fun x => if u.uid == t.uid && x.seq == m.seq then { x with waited := 0, token := true } else { x with waited := x.waited + 1 }) }
      else u) }
    match team? s t.uid with
    | none => some s
    | some t =>
      match t.mq.find? (fun x => x.seq == m.seq) with
      | none => some s
      | some m => some (engineStep s t m)

/-! ## Issue -/

/-- The lanes whose own data an ACWR cannot read: a poisoned register is its thread's fault (R277, R363, R380). -/
def rowFaults (s : State) (c : Cur) (op : Nat) (f : Fld) (act : List Nat) : List (Nat × FaultInfo) :=
  if op != 0xD9 then []
  else act.filterMap (fun l => (env? s c l).bind (fun e => (regPoison e.t e.g l [(false, f.d.toNat, f.c.toNat + 1)]).map (fun i => (l, i))))

/-- The register faults of the operands that a matrix-engine instruction takes from one thread; an ACWR's data are each lane's
own. -/
def engineFault (e : Env) (op : Nat) (f : Fld) : Option FaultInfo :=
  if op != 0xD9 then registerFault e op f
  else if e.t.kern.f < vNeed op f then some { code := .registerRange }
  else regPoison e.t e.g e.lane ((srcSpans op f).drop 1)

/-- Issues a matrix-engine instruction (R277, R278): its checks, its tokens, its place in the team's sequence. -/
def issueEngine (op : Nat) (f : Fld) (s : State) (once : Bool) (prep : State → Env → List Nat → Except FaultInfo (MInstr × State)) :
    Host.Outcome State Fault Refusal :=
  withCur s (fun c =>
    let act := active s c f
    if act.isEmpty || (once && c.noG) then goto (skipFalse s c f) c.w act c.next
    else if ctrFull s c.w .tiles then c.lanes.foldl (fun s l => setWait s c.w l .resource) s
    else
      let r := (if once then act.take 1 else act).foldl (fun (r : State × List MInstr × List (Nat × FaultInfo)) l =>
        match env? r.1 c l with
        | none => r
        | some e =>
          match engineFault e op f with
          | some i => (r.1, r.2.1, r.2.2 ++ [(l, i)])
          | none => match prep r.1 e act with
            | .error i => (r.1, r.2.1, r.2.2 ++ [(l, i)])
            | .ok (m, s) => (s, r.2.1 ++ [m], r.2.2)) (s, [], [])
      let bad := r.2.2
      match bad with
      | (_, i) :: _ =>
        if once then takeFault (skipFalse s c f) c act i
        else go c act bad r.1 r.2.1
      | [] =>
        let own := rowFaults s c op f act
        go c act own r.1 (if own.length == act.length then [] else r.2.1))
where
  /-- tokens, counter, queue -/
  go (c : Cur) (act : List Nat) (bad : List (Nat × FaultInfo)) (s' : State) (ms : List MInstr) : State :=
    if ms.isEmpty then takeFaults (skipFalse s' c f) c bad
    else
      match takeTokens s' c.w ms.length with
      | none => c.lanes.foldl (fun s l => setWait s c.w l .resource) (awaitTokens s c.w ms.length)
      | some s =>
        let s := skipFalse s c f
        let s := goto s c.w (act.filter (fun l => !bad.any (fun b => b.1 == l))) c.next
        let base := s.tick
        let s := { s with tick := s.tick + ms.length }
        let (id, s) := addOp s c.w .tiles (.tile ((List.range ms.length).map (fun i => base + i))) [] false
        let h : Nat := match (env? s c (act.headD 0)).map (fun e => handleOf s e.x e.t e.th.cid.toNat c.pc) with
          | some (.ok (h, _)) => h
          | _ => 0
        let s := modTeam s c.w.uid (fun t => { t with mq := t.mq ++ ms.zipIdx.map (fun p => { p.1 with seq := base + p.2, opId := id, handle := h }) })
        takeFaults s c bad

/-- R284 MMA: a product of tiles from a parameter block, once for each guard-true thread. -/
def execMma (f : Fld) (s : State) : Host.Outcome State Fault Refusal :=
  issueEngine 0xD0 f s false (fun s e _ => mmaPrep 0xD0 f s e)

/-- R285 MMAS: the same with a sparse A. -/
def execMmas (f : Fld) (s : State) : Host.Outcome State Fault Refusal :=
  issueEngine 0xD1 f s false (fun s e _ => mmaPrep 0xD1 f s e)

/-- R287 TLMOV: a tile into the blocks of a range. -/
def execTlmov (f : Fld) (s : State) : Host.Outcome State Fault Refusal :=
  issueEngine 0xD2 f s true (fun s e _ =>
    let r := e.t.resv.getD f.d.toNat resv0
    if !r.valid then .error mparam
    else match engineSlot e r.fslot 4 cellFormat with
      | .error i => .error i
      | .ok fd =>
        let w := (fdrOf fd.toNat).w
        let b0 := srcBz e f
        if r.nrows ≤ (blockPlace w (b0 + 127)).1 + ((blockShape w).1 - 1) then .error mparam
        else .ok ({ engineInstr e 0xD2 f with b := b0, fds := [fd] }, s))

/-- R287 ACZ: a tile at 0, or unbound with .free. -/
def execAcz (f : Fld) (s : State) : Host.Outcome State Fault Refusal :=
  issueEngine 0xD3 f s true (fun s e _ => .ok (engineInstr e 0xD3 f, s))

/-- R287 ACMOV: cells and flags of another tile. -/
def execAcmov (f : Fld) (s : State) : Host.Outcome State Fault Refusal :=
  issueEngine 0xD4 f s true (fun s e _ => .ok (engineInstr e 0xD4 f, s))

/-- R287 ACADD: A + B. -/
def execAcadd (f : Fld) (s : State) : Host.Outcome State Fault Refusal :=
  issueEngine 0xD5 f s true (fun s e _ =>
    match engineSlot e f.slot.toNat 0 accFormat with
    | .error i => .error i
    | .ok fd => .ok ({ engineInstr e 0xD5 f with fds := [fd] }, s))

/-- R287 ACSCL: A × s. -/
def execAcscl (f : Fld) (s : State) : Host.Outcome State Fault Refusal :=
  issueEngine 0xD6 f s true (fun s e _ =>
    match engineSlot e f.slot.toNat 0 accFormat with
    | .error i => .error i
    | .ok fd =>
      let k := fdrOf fd.toNat
      .ok ({ engineInstr e 0xD6 f with b := srcBslot e f k % 2 ^ k.w, fds := [fd] }, s))

/-- R287 ACCVT: cells read in S, written in D. -/
def execAccvt (f : Fld) (s : State) : Host.Outcome State Fault Refusal :=
  issueEngine 0xD7 f s true (fun s e _ =>
    match engineSlot e f.slot.toNat 0 accFormat, engineSlot e (f.c.toNat % 16) 1 cellFormat with
    | .error i, _ => .error i
    | _, .error i => .error i
    | .ok fd, .ok fs => .ok ({ engineInstr e 0xD7 f with fds := [fd, fs] }, s))

/-- R289 ACLD: a tile from memory. -/
def execAcld (f : Fld) (s : State) : Host.Outcome State Fault Refusal :=
  issueEngine 0xDA f s true (fun s e _ => tileTransferPrep 0xDA f s e)

/-- R289 ACST: a tile to memory. -/
def execAcst (f : Fld) (s : State) : Host.Outcome State Fault Refusal :=
  issueEngine 0xDB f s true (fun s e _ => tileTransferPrep 0xDB f s e)

/-- R288 ACWR: rows of cells from registers; it writes at once where it can, and otherwise once its tile is bound or the
instruction that writes the tile has ended (R290). -/
def execAcwr (f : Fld) (s : State) : Host.Outcome State Fault Refusal :=
  match issueEngine 0xD9 f s true (fun s e act =>
    let k := f.c.toNat + 1
    let row := rowOperand e f
    if 64 < row + k then .error mparam
    else
      let bad := rowFaults s e.c 0xD9 f act
      let ls := act.filter (fun l => !bad.any (fun b => b.1 == l))
      let data := (List.range k).flatMap (fun r => ls.map (fun l => BitVec.ofNat 64 (readV e.t e.g l (f.d.toNat + r))))
      .ok ({ engineInstr e 0xD9 f with b := row, block := k, fds := data, lanes := laneMask ls }, s)) with
  | .next s' =>
    (match s.cur.bind (fun c => team? s' c.w.uid) with
     | none => .next s'
     | some t => .next (((engineHeads t).filter (fun m => m.opcode == 0xD9 && canStep s' t m)).foldl (fun s m =>
         match team? s t.uid with | some t => if canStep s t m then acwrRun s t m else s | none => s) s'))
  | r => r

/-- An ACRD of tile n waits: an ACWR of the team to it has not been performed, or an MMA has written a part of its steps, so
that the value is that before every instruction in flight or after one that has completed (R288, R290). -/
def acrdWaits (t : Team) (n : Nat) : Bool :=
  t.mq.any (fun m => (m.opcode == 0xD9 && m.a == n) || ((m.opcode == 0xD0 || m.opcode == 0xD1) && decide (0 < m.step) && pbTile m.block == n))

/-- R288 ACRD: rows of cells to registers, or the tile's flags. -/
def execAcrd (f : Fld) (s : State) : Host.Outcome State Fault Refusal :=
  withCur s (fun c =>
    let act := active s c f
    let all (s : State) : State := c.lanes.foldl (fun s l => setWait s c.w l .resource) s
    match act with
    | [] => skipFalse s c f
    | l :: _ =>
      match env? s c l with
      | none => s
      | some e =>
        let n := f.a.toNat
        if ctrFull s c.w .tiles || acrdWaits e.t n then all s
        else
          let k := f.c.toNat + 1
          let row := if fldBit f 6 then 0 else rowOperand e f
          let bad : Option FaultInfo := match registerFault e 0xD8 f with
            | some i => some i
            | none => if !fldBit f 6 && decide (64 < row + k) then some mparam else none
          match bad with
          | some i => takeFault (skipFalse s c f) c act i
          | none =>
            match takeTokens s c.w 1 with
            | none => all (awaitTokens s c.w 1)
            | some s =>
              let s := goto (skipFalse s c f) c.w act c.next
              let (_, s) := addOp s c.w .tiles .parts [] true
              let tile := tileAt e.t n
              if fldBit f 6 then act.foldl (fun s l => writeV s c.w l f.d.toNat tile.tf.toNat) s
              else
                let cells := rangeBytes tile.cells (256 * row) (256 * k)
                let s := act.foldl (fun s l => (List.range k).foldl (fun s r =>
                  writeV s c.w l (f.d.toNat + r) (ofBytes ((cells.drop (256 * r + 8 * l)).take 8))) s) s
                let touched := act.any (fun l => (List.range k).any (fun r => cellBad tile (64 * (row + r) + 2 * l)))
                if touched then modThread s c.w l (fun th => { th with late := th.late ++ [(.engine, { code := .poison, detail := 1 })] })
                else s)

end Sys2Proof.Machine
end

