-- ==== Sys2Proof/Machine/Sync.lean ====
section
/-! DEFINITION. Publication, fences, barriers and wait counters (spec 04 R126-R131; 08 R240-R244). -/
namespace Sys2Proof.Machine

/-- R240 PUB: a release at the scope. -/
def execPub (f : Fld) (s : State) : Host.Outcome State Fault Refusal :=
  runSeq 0xB4 f s (fun s e => release s e (bits f.m.toNat 2 0))

/-- R240 ACQ: an acquire at the scope. -/
def execAcq (f : Fld) (s : State) : Host.Outcome State Fault Refusal :=
  runSeq 0xB5 f s (fun s e => .ok (acquire s e.t (bits f.m.toNat 2 0)))

/-- R240 PHASE: a release, then an acquire. -/
def execPhase (f : Fld) (s : State) : Host.Outcome State Fault Refusal :=
  runSeq 0xB6 f s (fun s e =>
    let scope := bits f.m.toNat 2 0
    match release s e scope with
    | .ok s => .ok (acquire s e.t scope)
    | r => r)

/-- R131 FENCE: the thread's earlier reductions have been executed; at cluster scope or wider its own earlier stores are
performed at their homes. -/
def execFence (f : Fld) (s : State) : Host.Outcome State Fault Refusal :=
  runSeq 0xB7 f s (fun s e =>
    if bits f.m.toNat 2 0 == 0 then .ok s
    else if ownPending s e.c.w e.lane then .wait s .resource
    else if bits f.m.toNat 2 0 < 3 then .ok s
    else
      let w := writerOf e.t e.g.idx e.lane
      .ok (performWhere s e.t.die e.t.site (fun d => d.w.uid == w.uid && d.w.group == w.group && d.w.lane == w.lane)))

/-! ## Barriers -/

/-- The flag operand of ARRIVE and BSYNC (R241): flags and external expectation. -/
def arriveOperand (e : Env) (f : Fld) : Nat × Nat :=
  let b := srcBz e f
  (bits b 15 0 ||| (if fldBit f 6 then e.th.nf.toNat else 0), bits b 31 16)

/-- ARRIVE of R49 with the faults of R241 and the publication of R50. -/
def arriveAt (s : State) (e : Env) (f : Fld) (n : Nat) : StepR :=
  match barRef s e.t n with
  | none => .fault s { code := .barrierScope }
  | some r =>
    let (flags, x) := arriveOperand e f
    let isTeam := match r with | .team _ => true | _ => false
    if x != 0 && !isTeam then .fault s { code := .barrierScope }
    else if bit e.th.arr.toNat n then .fault s { code := .barrierOverrun }
    else
      match release s e (barScope r) with
      | .ok s => .ok (barArrive s e r flags x)
      | q => q

/-- The barrier of a BWAIT: a slot of a headland core that waits goes on waiting when its member bit is cleared (R337). -/
def waitRef (s : State) (e : Env) (n : Nat) : Option BarRef :=
  match e.t.role with
  | .queue q => if e.th.status == .waiting (.barrier n) then some (.headland (q / 8) n (q % 8)) else barRef s e.t n
  | _ => barRef s e.t n

/-- BWAIT of R241 on an arrival made: the result field once the phase is complete, and the acquire of R50. -/
def bwaitAt (s : State) (e : Env) (n : Nat) (low g : Bool) (d : Nat) : StepR :=
  match waitRef s e n, thread? s e.c.w e.lane, team? s e.t.uid with
  | some r, some th, some t =>
    if !bit th.anw.toNat n then .fault s { code := .barrierOverrun }
    else if bit th.arr.toNat n || bit th.voided.toNat n then .wait s (.barrier n)
    else
      let v := (barGet s t r).result.toNat
      let s := modThread s e.c.w e.lane (fun th => { th with anw := BitVec.ofNat 28 (setBits th.anw.toNat n n 0) })
      let s := if g && !low then s else writeReg s e true g d v
      .ok (acquire s t (barScope r))
  | _, _, _ => .fault s { code := .barrierScope }

/-- Whether a thread is the lowest guard-true lane of its issue group (R175). -/
def isLow (s : State) (f : Fld) (e : Env) : Bool := !e.c.noG && (active s e.c f).headD e.lane == e.lane

/-- R241 ARRIVE. -/
def execArrive (f : Fld) (s : State) : Host.Outcome State Fault Refusal :=
  runSeq 0xB8 f s (fun s e => arriveAt s e f f.d.toNat)

/-- R241 BWAIT. -/
def execBwait (f : Fld) (s : State) : Host.Outcome State Fault Refusal :=
  let s0 := s
  runSeq 0xB9 f s (fun s e => bwaitAt s e f.a.toNat (isLow s0 f e) (fldBit f 4) f.d.toNat)

/-- R241 BSYNC: ARRIVE, then BWAIT on the same phase; a thread that already waits is in its second half. -/
def execBsync (f : Fld) (s : State) : Host.Outcome State Fault Refusal :=
  runSeq 0xBA f s (fun s e =>
    let n := f.a.toNat
    if e.th.status == .waiting (.barrier n) || (e.th.status == .waiting .resumed && bit e.th.anw.toNat n) then bwaitAt s e n true false f.d.toNat
    else
      match arriveAt s e f n with
      | .ok s => bwaitAt s e n true false f.d.toNat
      | r => r)

/-! ## Wait counters -/

/-- Whether the counters are at or below the limits of a WAIT; 15 ignores one (R244). -/
def countersOk (s : State) (w : Where) (g : Group) (nl ns nc nt : Nat) : Bool :=
  let le (n : Nat) (k : Ctr) : Bool := n == 15 || decide (ctrCount s w g.ops k ≤ n)
  le nl .loads && le ns .stores && le nc .copies && le nt .tiles

/-- Operations of a counter that still hold it up (R243). -/
def heldOps (s : State) (w : Where) (ops : List Op) (k : Ctr) : List Nat :=
  ((ops.filter (fun o => o.ctr == k)).dropWhile (opDone s w)).map (·.id)

/-- Whether a WAIT with these limits covers a recorded fault (R252, R289, R379): that of a copy only once the copies before
it have left the counter; `held` are the operations that have not. -/
def covers (ns nc nt : Nat) (held : List Nat) : LateKind → Bool
  | .copy op => nc != 15 && (match op with | some o => !held.contains o | none => true)
  | .engine => nt != 15
  | .reduction => ns != 15

/-- R244 WAIT: recorded faults and failures of the counters it covers are taken when it ends. -/
def execWait (f : Fld) (s : State) : Host.Outcome State Fault Refusal :=
  let nl := f.d.toNat
  let ns := f.a.toNat
  let nc := f.b.toNat
  let nt := f.c.toNat
  runSeq 0xBB f s (fun s e =>
    match group? s e.c.w with
    | none => .ok s
    | some g =>
      if !countersOk s e.c.w g nl ns nc nt then .wait s (.counters nl ns nc nt)
      else
        match (if ns == 15 then none else linkFault s e) with
        | some r => r
        | none =>
          match e.th.late.find? (fun l => covers ns nc nt (heldOps s e.c.w g.ops .copies) l.1) with
          | some l => .fault (modThread s e.c.w e.lane (fun th => { th with late := th.late.erase l })) l.2
          | none => .ok (if nc == 15 then s else acquire s e.t 5))

end Sys2Proof.Machine
end

