-- ==== Sys2Proof/Machine/Copies.lean ====
section
/-! DEFINITION. Copies (spec 08 R245-R253, 04 R139): their checks at issue, their progress byte by byte, conversion with
scales, escapes and trailers, write pointers, LDCHK. -/
namespace Sys2Proof.Machine

/-! ## Conversion (R249-R251, 02 R76-R79, R85) -/

/-- Fields of the COPYQ descriptor (R249). -/
def qNe (d : Nat) : Nat := bits d 407 384
def qRows (d : Nat) : Nat := bits d 431 408
def qTr (d : Nat) : Nat := bits d 447 432
def qS (d : Nat) : Nat := bits d 452 449
def qD (d : Nat) : Nat := bits d 456 453
def qRnd (d : Nat) : Nat := bits d 459 457
def qFi (d : Nat) : Bool := bit d 460
def qFo (d : Nat) : Bool := bit d 461
/-- dir = 1: the source is grouped -/
def qIn (d : Nat) : Bool := bit d 462
def qGlen (d : Nat) : Nat := bits d 465 463
def qSw (d : Nat) : Nat := bits d 511 480
def qSrc (d : Nat) : Nat := bits d 63 0
def qDst (d : Nat) : Nat := bits d 127 64
def qGadr (d : Nat) : Nat := bits d 191 128
def qXadr (d : Nat) : Nat := bits d 255 192
def qTadr (d : Nat) : Nat := bits d 319 256
def qSpitch (d : Nat) : Int := sext (bits d 351 320) 32
def qDpitch (d : Nat) : Nat := bits d 383 352

/-- Group length, and groups of a row; without groups the row is one. -/
def qG (d : Nat) : Nat := if qGlen d == 0 then max 1 (qNe d) else 32 * qGlen d
def qGroups (d : Nat) : Nat := (qNe d + qG d - 1) / qG d

/-- The largest finite value of a slot of any kind. -/
def vmaxAny (f : Fdr) : Q :=
  match f.kind with
  | 2 => qOf (2 ^ (f.w - 1) - 1 : Nat)
  | 3 => qOf (2 ^ f.w - 1 : Nat)
  | 4 => qMul (qOf (2 ^ (f.w - 1) - 1 : Nat)) (qPow2 (-(f.mw : Int)))
  | _ => vmax f

/-- The overflow point (R70). -/
def overflowPoint (f : Fdr) : Q := qAdd (vmaxAny f) (qMul (topUlp f) (qMk 1 2))

def slotS (c : Copy) : Fdr := fdrOf c.fdS.toNat
def slotD (c : Copy) : Fdr := fdrOf c.fdD.toNat

/-- Bytes that a group of a grouped source has beside its elements: its scale, and its side list where S has escapes. -/
def auxLen (c : Copy) : Nat := if qIn c.desc && qGlen c.desc != 0 then (if (slotS c).esc then 17 else 1) else 0

/-- The values of the first m source elements of a row (R250). -/
def sourceVals (c : Copy) (m : Nat) : List Val :=
  let f := slotS c
  let g := qG c.desc
  let packed := ofBytes c.srcRow
  let grouped := qIn c.desc && qGlen c.desc != 0
  ((List.range m).foldl (fun (r : List Val × Nat) i =>
    let code := packed / 2 ^ (f.w * i) % 2 ^ f.w
    let nth := if i % g == 0 then 0 else r.2
    if !grouped then ((readCode f (qFi c.desc) code).1 :: r.1, 0)
    else
      let a := (c.aux.drop (auxLen c * (i / g))).take (auxLen c)
      let x := ofBytes (a.take 1)
      let isEsc := (codeVal f code).2
      let v : Val :=
        if x == 0xFF then .nan
        else if isEsc then
          (if nth < 4 then (codeVal fdBinary32 (ofBytes ((a.drop (1 + 4 * nth)).take 4))).1 else .nan)
        else match (readCode f (qFi c.desc) code).1 with
          | .fin n q => .fin n (qMul q (qPow2 ((x : Int) - 127)))
          | y => y
      (v :: r.1, if isEsc then nth + 1 else nth)) ([], 0)).1.reverse

/-- |x| of a finite value that is not 0. -/
def magOf : Val → Option Q
  | .fin _ q => if qIsZero q then none else some (qAbs q)
  | _ => none

/-- The scale of a group of a grouped destination, and the positions that become escapes with their side codes (R250). -/
def groupScale (f : Fdr) (xs : List Val) : Nat × List (Nat × Nat) :=
  let finite := xs.zipIdx.filterMap (fun p => (magOf p.1).map (fun q => (p.2, q)))
  let cand := if f.esc then (sortBy (fun a b => qCmp a.2 b.2 != .lt) finite).take 4 else []
  let amax := (finite.filter (fun p => !cand.any (fun c => c.1 == p.1))).foldl (fun m p => if qLt m p.2 then p.2 else m) (qOf 0)
  let x : Int := if qIsZero amax then 127 else max 0 (min 254 (qLog2 amax - qLog2 (vmaxAny f) + 127))
  let esc := cand.filter (fun p => qLe (overflowPoint f) (qMul p.2 (qPow2 (127 - x))))
  let esc := sortBy (fun a b => decide (a.1 ≤ b.1)) esc
  (x.toNat, esc.map (fun p => (p.1, (roundVal fdBinary32 (xs.getD p.1 .nan) 0 0).1)))

/-- Groups of the first m elements: start, scale and escapes. -/
def groupScales (c : Copy) (vals : List Val) : List (Nat × List (Nat × Nat)) :=
  let g := qG c.desc
  (List.range ((vals.length + g - 1) / g)).map (fun k => groupScale (slotD c) ((vals.drop (g * k)).take g))

/-- The destination elements for some values (R250): code, ST, escape. -/
def destElems (c : Copy) (vals : List Val) : List (Nat × Bool × Bool) :=
  let f := slotD c
  let d := c.desc
  let mode := modeOf f (qRnd d)
  let g := qG d
  let out := !qIn d && qGlen d != 0
  let scales := if out then groupScales c vals else []
  vals.zipIdx.map (fun p =>
    let i := p.2
    let s := scales.getD (i / g) (127, [])
    if out && s.2.any (fun e => e.1 == i % g) then (signCode f true, false, true)
    else
      let v : Val := if !out then p.1
        else match p.1 with | .fin n q => .fin n (qMul q (qPow2 (127 - (s.1 : Int)))) | y => y
      let e := c.row * qNe d + i
      let u := if mode == 5 then sowDraw e (qD d) (qSw d) c.srk.toNat else 0
      let r := flushOut f (qFo d) (roundVal f v mode u)
      (r.1, Nat.land r.2 nfST != 0, false))

/-- Bytes of n packed elements, the last byte filled with 0 (R250). -/
def packBytes (w : Nat) (codes : List Nat) : List Byte := leBytes ((codes.length * w + 7) / 8) (packElems w codes)

/-- The code of the larger of two elements by magnitude; NaN and escapes stay out, ties keep the first (R85). -/
def largerCode (f : Fdr) (best : Nat) (x : Nat × Bool × Bool) : Nat :=
  match (codeVal f x.1).1 with
  | .nan => best
  | v =>
    if x.2.2 then best
    else if valLt (match (codeVal f best).1 with | .nan => .fin false (qOf 0) | b => b.abs) v.abs then x.1 else best

/-- A code with its sign bit cleared (R85). -/
def clearSign (f : Fdr) (code : Nat) : Nat := if f.sgn then code % 2 ^ (f.w - 1) else code

/-- The register of CRC-32C after some bytes. -/
def crcStep (r : Nat) (bs : List Byte) : Nat := bs.foldl (fun r b => crcBits 8 (Nat.xor r b.toNat)) r

/-- The end of a row of COPYQ: its scales and side lists, the trailer of a tile that ends, the tile's statistics. -/
def finishRow (c : Copy) : Copy :=
  let d := c.desc
  let f := slotD c
  let vals := sourceVals c (qNe d)
  let es := destElems c vals
  let out := !qIn d && qGlen d != 0
  let grp := c.row * qGroups d
  let scales := if out then groupScales c vals else []
  let scaleBytes : List (Nat × List Byte) := if out then [(qGadr d + grp, scales.map (fun s => BitVec.ofNat 8 s.1))] else []
  let sides : List (Nat × List Byte) := if out && f.esc then
      [(qXadr d + 16 * grp, scales.flatMap (fun s => (List.range 4).flatMap (fun k => leBytes 4 (match s.2[k]? with | some e => e.2 | none => 0))))]
    else []
  let crc := crcStep c.crc c.dstRow
  let satn := c.satn + (es.filter (fun e => e.2.1)).length
  let maxmag := es.foldl (largerCode f) c.maxmag
  let ends := qTr d != 0 && ((c.row + 1) % qTr d == 0 || c.row + 1 == c.rows)
  let trailer : List (Nat × List Byte) := if ends then
      [(qTadr d + 16 * (c.row / qTr d), leBytes 8 (clearSign f maxmag) ++ leBytes 4 (min satn 0xFFFFFFFF) ++ leBytes 4 (Nat.xor crc 0xFFFFFFFF))]
    else []
  { c with row := c.row + 1, pos := 0, fetched := 0, srcRow := [], aux := [], dstRow := [], rowReady := false,
           extras := c.extras ++ scaleBytes ++ sides ++ trailer,
           crc := if ends then 0xFFFFFFFF else crc, satn := if ends then 0 else satn, maxmag := if ends then 0 else maxmag }

/-! ## Progress -/

/-- A source read: bytes at once, or a link that must answer (R402). -/
inductive SrcRead
  | bytes (bs : List Byte)
  | link (pa ty : Nat)

/-- A source byte as a load made after an acquire at device scope (R139, R115): the home's bytes. -/
def srcRead (s : State) (c : Copy) (x : Ctx) (va n : Nat) : Except FaultInfo SrcRead :=
  if 2 ^ 56 < va + n then .error { code := .address, data := va }
  else match locate s { x with wd := c.wd } va .load with
  | .error i => .error i
  | .ok (.win d off) => .ok (.bytes ((List.range n).map (fun i => windowByte d (off + i))))
  | .ok (.mem pa ty) =>
    if targetOf s pa == .hbm then
      if poisoned s pa n then .error (poisonFault s pa n va) else .ok (.bytes (s.home.readList pa n))
    else .ok (.link pa ty)

/-- A copy's request on a link; `moves` says that its answer moves the write pointer (R139, R253). -/
def copyReq (s : State) (c : Copy) (x : Ctx) (va pa len ty : Nat) (moves : Bool) (data : List (Nat × Byte × Byte))
    (atomic : Option SyncItem) : Nat × State :=
  let (id, s) := reqUp s
  let r : OutReq :=
    { id := id, cur := none, w := c.w, lane := c.lane, opId := b2n moves, writer := c.writer, va := va, pa := pa, len := len, ty := ty,
      data := data, posted := !data.isEmpty, atomic := atomic, copy := some c.id, port := linkPort s x pa }
  (id, { s with outReqs := s.outReqs ++ [r] })

/-- Destination bytes performed at their homes, or on their way to a UALink peer (R139, R115, R402). -/
def dstWrite (s : State) (c : Copy) (x : Ctx) (va : Nat) (moves : Bool) (bs : List Byte) : Except FaultInfo State :=
  if 2 ^ 56 < va + bs.length then .error { code := .address, data := va }
  else match locate s x va .store with
  | .error i => .error i
  | .ok (.win _ _) => .ok s
  | .ok (.mem pa ty) =>
    if s.deques.any (fun d => d.1 == pa / 128) then .error { code := .memoryType, data := va }
    else match targetOf s pa with
      | .ualink _ => .ok (copyReq s c x va pa bs.length ty moves (fullUnit pa bs) none).2
      | .hbm =>
        let s := homeStore s (fullUnit pa bs) (some c.writer)
        .ok (if ty < 2 then setForm s (pageRaw s x va) [pa] else s)
      | _ => .ok (homeStore s (fullUnit pa bs) (some c.writer))

/-- Destination writes of a copy that their peers have not performed. -/
def copyOutstanding (s : State) (c : Copy) : Bool := s.outReqs.any (fun r => r.copy == some c.id && r.posted)

/-- A UALink peer takes the byte at an address. -/
def peerTakes (s : State) (x : Ctx) (va : Nat) : Bool :=
  match locate s x va .store with
  | .ok (.mem pa _) => (match targetOf s pa with | .ualink _ => true | _ => false)
  | _ => false

/-- The next destination write waits: requests of the copy are outstanding and the byte is not one more for a peer, so that
writes are performed in ascending order (R139). -/
def dstWaits (s : State) (c : Copy) (x : Ctx) (va : Nat) : Bool := !peerTakes s x va && copyOutstanding s c

def modCopy (s : State) (id : Nat) (f : Copy → Copy) : State := { s with copies := updIf (fun c => c.id == id) f s.copies }

/-- The write pointer that is bound to a copy moves (R253), over bytes that have been performed. -/
def movePointer (s : State) (c : Copy) (va : Nat) : State :=
  if (core s c.die c.site).wp.any (fun p => p.2 == some c.id) then
    modCore s c.die c.site (fun k => { k with wp := updIf (fun p => p.2 == some c.id) (fun p => (BitVec.ofNat 64 va, p.2)) k.wp })
  else s

/-- What a copy does next. -/
inductive CopyNext
  /-- a byte range is read or performed -/
  | write (s : State)
  | pause (i : FaultInfo)
  | stop (i : FaultInfo)
  /-- everything is performed -/
  | done
  /-- a link has not answered, or the copy is paused -/
  | blocked

/-- A fault of a copy, once every byte below it has been performed (R139, R252). -/
def copyFault (s : State) (c : Copy) (i : FaultInfo) : CopyNext :=
  if copyOutstanding s c then .blocked else if i.code == .translation then .pause i else .stop i

/-- The pointer moves past bytes that a write has performed at once; a peer's answer moves it otherwise. -/
def passPointer (s : State) (c : Copy) (va : Nat) : State := if copyOutstanding s c then s else movePointer s c va

/-- A copy reads source bytes on a link. -/
def readLink (s : State) (c : Copy) (x : Ctx) (va pa n ty : Nat) : CopyNext :=
  let (id, s) := copyReq s c x va pa n ty false [] none
  .write (modCopy s c.id (fun c => { c with wait := some id }))

/-- The address of destination byte pos of a row, and of a source byte. -/
def dstAddr (c : Copy) : Nat := c.dst + c.row * c.dpitch + c.pos
def srcAddr (c : Copy) (off : Nat) : Nat := ((c.src : Int) + c.row * c.spitch + off).toNat

/-- Bytes of a chunk of n at most, from an address: it stays in its 16-byte sector. -/
def inSector (va n : Nat) : Nat := min n (16 - va % 16)

/-- One chunk of a plain copy. -/
def plainNext (s : State) (c : Copy) (x : Ctx) : CopyNext :=
  let d := dstAddr c
  let src := srcAddr c c.pos
  let n := inSector src (inSector d (c.rbytes - c.pos))
  let put (bs : List Byte) : CopyNext :=
    if dstWaits s c x d then .blocked
    else match dstWrite s c x d true bs with
    | .error i => copyFault s c i
    | .ok s =>
      let last := c.rbytes ≤ c.pos + n
      let s := modCopy s c.id (fun c => { c with row := if last then c.row + 1 else c.row, pos := if last then 0 else c.pos + n, got := none })
      .write (passPointer s c (d + n))
  match c.got with
  | some bs => put bs
  | none =>
    match srcRead s c x src n with
    | .error i => copyFault s c i
    | .ok (.bytes bs) => put bs
    | .ok (.link pa ty) => readLink s c x src pa n ty

/-- The source reads of a row of COPYQ in order: group bytes before the elements of the group; kind (true: group bytes),
address and length, no read across a sector. -/
def rowReads (c : Copy) : List (Bool × Nat × Nat) :=
  let d := c.desc
  let w := (slotS c).w
  let g := qG d
  let aux := auxLen c
  (List.range (qGroups d)).flatMap (fun k =>
    let grp := c.row * qGroups d + k
    let lo := if k == 0 then 0 else (k * g * w + 7) / 8
    let hi := (min (qNe d) ((k + 1) * g) * w + 7) / 8
    (if aux == 0 then [] else [(true, qGadr d + grp, 1)])
    ++ (if aux == 17 then [(true, qXadr d + 16 * grp, 16)] else [])
    ++ (sectorRuns ((hi - lo) / 16 + 2) (srcAddr c lo) (hi - lo)).map (fun r => (false, r.1, r.2)))

/-- Destination bytes that the source read so far decides. -/
def readyBytes (c : Copy) : List Byte :=
  let d := c.desc
  let g := qG d
  let m := min (qNe d) (8 * c.srcRow.length / (slotS c).w)
  let m := if !qIn d && qGlen d != 0 && m != qNe d then m / g * g else m
  let codes := (destElems c (sourceVals c m)).map (·.1)
  if m == qNe d then packBytes (slotD c).w codes else (packBytes (slotD c).w codes).take (m * (slotD c).w / 8)

/-- The next chunk of a row's destination bytes. -/
def putRow (s : State) (c : Copy) (x : Ctx) (bs : List Byte) : CopyNext :=
  let d := dstAddr c
  let n := inSector d (bs.length - c.pos)
  if dstWaits s c x d then .blocked
  else match dstWrite s c x d true ((bs.drop c.pos).take n) with
  | .error i => copyFault s c i
  | .ok s => .write (passPointer (modCopy s c.id (fun c => { c with pos := c.pos + n })) c (d + n))

/-- One part of a converting copy. -/
def convertNext (s : State) (c : Copy) (x : Ctx) : CopyNext :=
  if c.rowReady then
    if c.rbytes ≤ c.pos then .write (modCopy s c.id finishRow) else putRow s c x c.dstRow
  else
    match (rowReads c)[c.fetched]? with
    | none => .write (modCopy s c.id (fun c => { c with rowReady := true, dstRow := readyBytes c }))
    | some (isAux, va, n) =>
      let take (s : State) (bs : List Byte) : CopyNext :=
        .write (modCopy s c.id (fun c => { c with
          fetched := c.fetched + 1, got := none, srcRow := if isAux then c.srcRow else c.srcRow ++ bs,
          aux := if isAux then c.aux ++ bs else c.aux }))
      match c.got with
      | some bs => take s bs
      | none =>
        match srcRead s c x va n with
        | .ok (.bytes bs) => take s bs
        | .ok (.link pa ty) => readLink s c x va pa n ty
        | .error i =>
          let bs := readyBytes c
          if c.pos < bs.length then putRow s c x bs else copyFault s c i

/-- The signal of a COPYX (R246, R421): a RED add at the home of sadr. -/
def signalNext (s : State) (c : Copy) (x : Ctx) : CopyNext :=
  match checkGlobal s x c.sadr 8 (.red .add) with
  | .error i => copyFault s c i
  | .ok (.win _ _) => .stop { code := .windowStore, data := c.sadr }
  | .ok (.mem pa ty) =>
    let sent (s : State) : CopyNext := .write (modCopy s c.id (fun c => { c with state := .signalled }))
    if targetOf s pa == .hbm && poisoned s pa 8 then .stop (poisonFault s pa 8 c.sadr)
    else match claimFor s x c.writer pa c.sadr false with
    | .error i => .stop i
    | .ok true => .blocked
    | .ok false =>
    if targetOf s pa == .hbm then
      sent (setForm (homeStoreFor (setClaim s c.writer pa) (fullUnit pa (leBytes 8 (s.home.readN pa 8 + c.sval))) none (some c.writer.ctx)) (pageRaw s x c.sadr) [pa])
    else
      let item : SyncItem :=
        { id := 0, cur := { w := c.w, lanes := [c.lane], pc := c.addr, next := c.addr, dword := 0, lit := 0, form := 0, noPatch := true, noG := false },
          die := c.die, w := c.w, lane := c.lane, opId := 0, writer := c.writer, op := .atomic .add c.sval 0, pa := pa, va := c.sadr,
          size := 8, ty := 4, fd := 0, fi := false, fo := false, acquire := false, scope := 0, redirect := none, instr := 0xAD }
      sent (copyReq s c x c.sadr pa 8 ty false [] (some item)).2

/-- What a copy does next (R139, R246, R248, R250-R252). -/
def copyNext (s : State) (c : Copy) : CopyNext :=
  if c.held then .blocked else
  match c.state, ctx? s c.writer.ctx with
  | .paused _, _ => .blocked
  | _, none => .blocked
  | .signalled, some _ => if s.outReqs.any (fun r => r.copy == some c.id) then .blocked else .done
  | .running, some x =>
    match c.wait with
    | some id =>
      (match s.outReqs.find? (fun r => r.id == id) with
       | some r =>
         -- a host answers when its bytes are taken; a UALink peer answers with UALINK_RESPONSE
         if r.port < 16 || waitsRoom s r then .blocked
         else
           .write { modCopy s c.id (fun c => { c with wait := none, got := some (s.home.readList r.pa r.len) }) with outReqs := s.outReqs.filter (fun q => q.id != id) }
       | none => .write (modCopy s c.id (fun c => { c with wait := none })))
    | none =>
      match c.extras with
      | (a, bs) :: rest =>
        let n := inSector a bs.length
        if dstWaits s c x a then .blocked
        else
        (match dstWrite s c x a false (bs.take n) with
         | .error i => copyFault s c i
         | .ok s => .write (modCopy s c.id (fun c => { c with
             extras := if bs.length ≤ n then rest else (a + n, bs.drop n) :: rest })))
      | [] =>
        if c.row < c.rows && c.rbytes != 0 then (if c.opcode == 0xE1 then convertNext s c x else plainNext s c x)
        else if s.outReqs.any (fun r => r.copy == some c.id) then .blocked
        else if c.opcode == 0xE3 then signalNext s c x
        else .done

/-- A copy's fault waits for its thread (R252). Where the thread's Harrow round has closed meanwhile, R252 and R37 do not say whose
the fault is: the new thread at the old group and lane takes it (the model's choice, log 35). -/
def copyLate (s : State) (c : Copy) (i : FaultInfo) : State :=
  lateFault s c.w c.lane (.copy (some c.opId)) { code := .copy, detail := i.code.num, data := i.data, datum2 := c.descAddr }

/-- The end of a copy: it counts as complete (R243, R252). -/
def endCopy (s : State) (id : Nat) : State := { s with copies := s.copies.filter (fun c => c.id != id) }

/-- A copy meets a fault that stops it (R252). -/
def stopCopy (s : State) (c : Copy) (i : FaultInfo) : State := endCopy (copyLate s c i) c.id

/-- A copy pauses at a translation fault (R359). -/
def pauseCopy (s : State) (c : Copy) (i : FaultInfo) : State :=
  let s := modCopy s c.id (fun c => { c with state := .paused i.data })
  pauseEntry s c.writer c.die c.site c.addr c.handle i.data c.descAddr i.detail

/-! ## Issue -/

/-- A copy-descriptor fault (R247, R364). -/
def badDescriptor (addr : Nat) : FaultInfo := { code := .copyDescriptor, datum2 := addr }

/-- Every row of a range lies below 2^56. -/
def rangeOk (base : Nat) (pitch : Int) (rows n : Nat) : Bool :=
  let ok (j : Nat) : Bool :=
    let a : Int := (base : Int) + j * pitch
    decide (0 ≤ a) && decide (a + n ≤ (2 ^ 56 : Nat))
  ok 0 && ok (rows - 1)

/-- A copy at its first byte. -/
def newCopy (s : State) (e : Env) (op descAddr src dst rows rbytes sbytes : Nat) (spitch : Int) (dpitch sadr sval desc : Nat) : Copy :=
  let h := match handleOf s e.x e.t e.th.cid.toNat e.c.pc with | .ok (h, _) => h | .error _ => 0
  { id := s.nextReq, opcode := op, w := e.c.w, lane := e.lane, opId := 0, writer := { writerOf e.t e.g.idx e.lane with ctx := e.x.id },
    die := e.t.die, site := e.t.site, addr := e.c.pc, handle := h, descAddr := descAddr, src := src, dst := dst, rows := rows,
    rbytes := rbytes, sbytes := sbytes, spitch := spitch, dpitch := dpitch, sadr := sadr, sval := sval, desc := desc,
    fdS := BitVec.ofNat 64 (slotWord e.x (qS desc)), fdD := BitVec.ofNat 64 (slotWord e.x (qD desc)), srk := e.x.srk, wd := e.x.wd,
    row := 0, pos := 0, wait := none, got := none, fetched := 0, srcRow := [], aux := [], dstRow := [], rowReady := false,
    extras := [], crc := 0xFFFFFFFF, satn := 0, maxmag := 0, state := .running, held := false }

/-- A copy starts (R126, R243, R253): the release, the operation, the binding of its write pointer. -/
def startCopy (s : State) (e : Env) (f : Fld) (id : Nat) (mk : State → Copy) : StepR :=
  match release s e 5 with
  | .ok s =>
    let c := { mk s with opId := id }
    let s := { s with nextReq := s.nextReq + 1, copies := s.copies ++ [c] }
    let s := if bit f.d.toNat 2 then
        modCore s e.t.die e.t.site (fun k => { k with wp := k.wp.set (f.d.toNat % 4) (BitVec.ofNat 64 c.dst, some c.id) })
      else s
    let s := opFor s e.c.w id .copies (.copy []) false
    .ok (modOp s e.c.w id (fun o => { o with kind := match o.kind with | .copy cs => .copy (cs ++ [c.id]) | k => k }))
  | r => r

/-- R245 COPY: c bytes from b to a. -/
def execCopy (f : Fld) (s : State) : Host.Outcome State Fault Refusal :=
  runMem 0xE0 f s .copies (fun s e _ id =>
    let dst := srcA e f
    let src := regOf e (fldBit f 5) f.b.toNat
    let n := srcC e f
    if 2 ^ 40 < n || !rangeOk src 0 1 n || !rangeOk dst 0 1 n then .fault s (badDescriptor 0)
    else startCopy s e f id (fun s => newCopy s e 0xE0 0 src dst 1 n n 0 0 0 0 0))

/-- The descriptor of COPYS, COPYX, COPYQ and LDCHK: 64 bytes read by local loads (R245, R247). -/
def descriptorAt (s : State) (e : Env) (f : Fld) : Except FaultInfo (Nat × Nat × State) :=
  let a := srcA e f
  if a % 64 != 0 then .error (badDescriptor a)
  else match localLoad s e.x e.t.uid a 64 64 with
    | .error i => .error i
    | .ok (bs, s) => .ok (a, ofBytes bs, s)

/-- COPYS and COPYX (R246, R247). -/
def pitchedCopy (op : Nat) (f : Fld) (s : State) : Host.Outcome State Fault Refusal :=
  runMem op f s .copies (fun s e _ id =>
    match descriptorAt s e f with
    | .error i => .fault s i
    | .ok (a, d, s) =>
      let src := bits d 63 0
      let dst := bits d 127 64
      let rb := bits d 159 128
      let rows := bits d 191 160
      let sp := sext (bits d 255 192) 64
      let dp := bits d 319 256
      let sadr := bits d 383 320
      let sval := bits d 447 384
      if bits d 511 448 != 0 || rb == 0 || rows == 0 || dp < rb || !rangeOk src sp rows rb || !rangeOk dst dp rows rb
          || (if op == 0xE3 then sadr % 8 != 0 else sadr != 0 || sval != 0) then .fault s (badDescriptor a)
      else startCopy s e f id (fun s => newCopy s e op a src dst rows rb rb sp dp sadr sval 0))

/-- R246 COPYS: a row-pitched copy. -/
def execCopys (f : Fld) (s : State) : Host.Outcome State Fault Refusal := pitchedCopy 0xE2 f s

/-- R246 COPYX: a row-pitched copy and its signal. -/
def execCopyx (f : Fld) (s : State) : Host.Outcome State Fault Refusal := pitchedCopy 0xE3 f s

/-- R249, R250 COPYQ: a converting copy. -/
def execCopyq (f : Fld) (s : State) : Host.Outcome State Fault Refusal :=
  runMem 0xE1 f s .copies (fun s e _ id =>
    match descriptorAt s e f with
    | .error i => .fault s i
    | .ok (a, d, s) =>
      if bits d 479 466 != 0 || bit d 448 || 4 < qGlen d || qRnd d == 7 || qRows d == 0 || qNe d == 0 || qTadr d % 16 != 0 || qXadr d % 16 != 0 then
        .fault s (badDescriptor a)
      else match slotFor e (qD d) 4 anyFormat, slotFor e (qS d) 4 anyFormat with
        | .error i, _ => .fault s i
        | _, .error i => .fault s i
        | .ok fd, .ok fs =>
          let rb := (qNe d * fd.w + 7) / 8
          let sb := (qNe d * fs.w + 7) / 8
          if qDpitch d < rb || !rangeOk (qSrc d) (qSpitch d) (qRows d) sb || !rangeOk (qDst d) (qDpitch d) (qRows d) rb then .fault s (badDescriptor a)
          else startCopy s e f id (fun s => newCopy s e 0xE1 a (qSrc d) (qDst d) (qRows d) rb sb (qSpitch d) (qDpitch d) 0 0 d))

/-- R253 WPLD: the pointer, and an acquire of the bytes below it while it is bound. -/
def execWpld (f : Fld) (s : State) : Host.Outcome State Fault Refusal :=
  let s0 := s
  runSeq 0xE4 f s (fun s e =>
    let p := (core s e.t.die e.t.site).wp.getD (f.a.toNat % 4) (0, none)
    let s := if p.2.isSome then acquire s e.t 5 else s
    .ok (writeReg s e (isLow s0 f e) (fldBit f 4) f.d.toNat p.1.toNat))

/-- R253 WPSET: sets a pointer and unbinds it. -/
def execWpset (f : Fld) (s : State) : Host.Outcome State Fault Refusal :=
  runSeq 0xE5 f s (fun s e =>
    .ok (modCore s e.t.die e.t.site (fun k => { k with wp := k.wp.set (f.d.toNat % 4) (BitVec.ofNat 64 (srcA e f), none) })))

/-- Bytes of n rows as loads of the thread, each row at its place. -/
def loadRows (s : State) (e : Env) (dst dpitch rb : Nat) : List Nat → Except FaultInfo (List Byte × State)
  | [] => .ok ([], s)
  | j :: rest =>
    match loadNow s e.x e.t.die e.t.site (dst + j * dpitch) rb .load with
    | .error i => .error i
    | .ok (bs, s) =>
      match loadRows s e dst dpitch rb rest with
      | .error i => .error i
      | .ok (more, s) => .ok (bs ++ more, s)

/-- R251 LDCHK: a tile's bytes against its trailer; vd := maxmag. -/
def execLdchk (f : Fld) (s : State) : Host.Outcome State Fault Refusal :=
  runMem 0xE6 f s .loads (fun s e low id =>
    match descriptorAt s e f with
    | .error i => .fault s i
    | .ok (a, d, s) =>
      let j := srcBz e f
      let tr := qTr d
      if tr == 0 || (qRows d + tr - 1) / tr ≤ j then .fault s (badDescriptor a)
      else match slotFor e (qD d) 4 anyFormat with
        | .error i => .fault s i
        | .ok fd =>
          let rb := (qNe d * fd.w + 7) / 8
          let rows := (List.range (min (qRows d) ((j + 1) * tr) - j * tr)).map (fun r => j * tr + r)
          match loadRows s e (qDst d) (qDpitch d) rb rows with
          | .error i => .fault s i
          | .ok (bs, s) =>
            match loadNow s e.x e.t.die e.t.site (qTadr d + 16 * j) 16 .load with
            | .error i => .fault s i
            | .ok (t, s) =>
              let t := ofBytes t
              if crc32c bs != bits t 127 96 then .fault s { code := .tileCheck, datum2 := j }
              else .ok (noteDone (writeReg s e low (fldBit f 4) f.d.toNat (bits t 63 0)) e.c.w id .loads))

end Sys2Proof.Machine
end

