-- ==== Sys2Proof/Machine/Engines.lean ====
section
/-! DEFINITION. Core queues (spec 08 R254), windows (R255, 03 R113, R116), launches (R256, R257, 01 R39-R43) and the
deposit of a thread with Harrow (R259, 01 R36). -/
namespace Sys2Proof.Machine

/-- A queue operation (R254): the local address is checked, then the queue acts; the status goes to vd. -/
def queueOp (op : Nat) (f : Fld) (s : State)
    (act : State → Env → Nat → List (List Byte) → Except FaultInfo (Nat × State)) : Host.Outcome State Fault Refusal :=
  runMem op f s .loads (fun s e _ id =>
    match act s e (regOf e (fldBit f 5) f.b.toNat) ((core s e.t.die e.t.site).queues.getD f.a.toNat []) with
    | .error i => .fault s i
    | .ok (st, s) => .ok (noteDone (writeV s e.c.w e.lane f.d.toNat st) e.c.w id .loads))

def setQueue (s : State) (e : Env) (n : Nat) (q : List (List Byte)) : State :=
  modCore s e.t.die e.t.site (fun k => { k with queues := k.queues.set n q })

/-- The head of a queue stored at a local address, or the check alone where the queue is empty. -/
def takeHead (s : State) (e : Env) (a : Nat) (q : List (List Byte)) : Except FaultInfo State :=
  localStore s e.t.uid (writerOf e.t e.g.idx e.lane) a 64 64 (match q with | h :: _ => fullUnit a h | [] => [])

/-- R254 QPUSH: 1 when full, else the 64 bytes are appended. -/
def execQpush (f : Fld) (s : State) : Host.Outcome State Fault Refusal :=
  queueOp 0xE7 f s (fun s e a q =>
    match localLoad s e.x e.t.uid a 64 64 with
    | .error i => .error i
    | .ok (bs, s) => if 64 ≤ q.length then .ok (1, s) else .ok (0, setQueue s e f.a.toNat (q ++ [bs])))

/-- R254 QPOP: 1 when empty, else the head is removed into memory. -/
def execQpop (f : Fld) (s : State) : Host.Outcome State Fault Refusal :=
  queueOp 0xE8 f s (fun s e a q =>
    match takeHead s e a q with
    | .error i => .error i
    | .ok s => if q.isEmpty then .ok (1, s) else .ok (0, setQueue s e f.a.toNat q.tail))

/-- R254 QPEEK: as QPOP, without removing. -/
def execQpeek (f : Fld) (s : State) : Host.Outcome State Fault Refusal :=
  queueOp 0xE9 f s (fun s e a q =>
    match takeHead s e a q with
    | .error i => .error i
    | .ok s => .ok (if q.isEmpty then 1 else 0, s))

/-- R254 QSTAT: the number of entries. -/
def execQstat (f : Fld) (s : State) : Host.Outcome State Fault Refusal :=
  runPure 0xEA f s (fun e => .ok [dstEff f ((core s e.t.die e.t.site).queues.getD f.a.toNat []).length])

/-- n bytes at a global address that the instruction aligns to 64, read as a NORMAL load of the thread (R255, R256). -/
def loadBlock (s : State) (e : Env) (va n : Nat) : Except FaultInfo (List Byte × State) :=
  if 2 ^ 56 ≤ va then .error { code := .address, data := va }
  else if va % 64 != 0 then .error { code := .alignment, data := va }
  else loadNow s e.x e.t.die e.t.site va n .frameLoad

/-- Every L1 copy on a core where a context has a thread goes (R116): the copies of the old and the new range of a window are
among them. -/
def dropCopies (s : State) (id : Nat) : State :=
  let here (c : Core) : Bool := s.teams.any (fun t => t.die == c.die && t.site == c.site && (ctxOf s t).any (fun x => x.id == id))
  { s with cores := updIf here (fun c => { c with clean := [] }) s.cores }

/-- R255 WINSET: a descriptor from memory, checked under R113; the lowest guard-true thread's image counts. The descriptor is
in force for every thread at once, where R116 leaves to other threads the old or the new one until they acquire (the
model's choice, log 35). -/
def execWinset (f : Fld) (s : State) : Host.Outcome State Fault Refusal :=
  runOnce 0xEB f s (fun s e _ =>
    match loadBlock s e (srcA e f) 64 with
    | .error i => .fault s i
    | .ok (bs, s) =>
      let d := ofBytes bs
      let n := f.d.toNat
      let others := (e.x.wd.zipIdx.filter (fun p => p.2 != n)).map (·.1)
      if !windowOk d others then .fault s { code := .windowSet }
      else .ok (modCtx (dropCopies s e.x.id) e.x.id (fun x => { x with wd := x.wd.set n (BitVec.ofNat 512 d) })))

/-- R255 WINGET: a descriptor to memory, as a plain store. -/
def execWinget (f : Fld) (s : State) : Host.Outcome State Fault Refusal :=
  runSeq 0xEC f s (fun s e =>
    match storePlain s e (nextOpId s e.c.w) (srcA e f) 64 false (leBytes 64 (e.x.wd.getD f.d.toNat 0).toNat) with
    | .error i => .fault s i
    | .ok (_, s) => .ok s)

/-! ## Launches -/

/-- Fields of the launch descriptor (R257). -/
def ldKern (d : Nat) : Nat := bits d 63 0
def ldArgs (d : Nat) : Nat := bits d 127 64
def ldGdim (d : Nat) : Nat × Nat × Nat := (bits d 143 128, bits d 159 144, bits d 175 160)
def ldKind (d : Nat) : Nat := bits d 193 192
def ldClass (d : Nat) : Nat := bits d 195 194
def ldBsa (d : Nat) : Nat := bits d 319 256
def ldBsz (d : Nat) : Nat := bits d 383 320
def ldCadr2 (d : Nat) : Nat := bits d 447 384
def ldCval (d : Nat) : Nat := bits d 479 448
def ldPred (d i : Nat) : Nat := if i == 0 then bits d 575 512 else bits d 639 576
def ldPval (d i : Nat) : Nat := if i == 0 then bits d 671 640 else bits d 703 672
def ldCadr (d : Nat) : Nat := bits d 767 704

/-- The rules of R257 on a descriptor. -/
def launchOk (d : Nat) (indirect : Bool) : Bool :=
  bits d 1023 768 == 0 && bits d 255 196 == 0 && bits d 191 176 == 0 && bits d 511 480 == 0
  && ldArgs d % 8 == 0 && ldCadr2 d % 8 == 0 && ldBsz d % 256 == 0 && ldKind d != 3
  && (!indirect || (ldCadr d % 4 == 0 && bits d 175 128 == 0))

/-- The class under which a launch is made (R42, R339). -/
def launchClass (s : State) (t : Team) : Nat :=
  match t.role with
  | .queue q => (queueRec s q).prio.toNat / 2
  | _ => t.cls

/-- A launch goes on its way to the arbiter, from the die of its thread, with the instruction that made it. -/
def launchAt (s : State) (e : Env) (f : Fld) (id : Nat) (d : List Byte) (indirect : Bool) : State :=
  let req : LaunchReq :=
    { w := e.c.w, lane := e.lane, opId := id, ctx := e.x.id, cls := launchClass s e.t, desc := d, indirect := indirect,
      die := e.t.die, cur := some { e.c with lanes := [e.lane] } }
  addPart { s with launchQ := s.launchQ ++ [req] } e.c.w id .loads (pendingPart e (.word f.d.toNat) [])

/-- A LAUNCHI that names no predecessor: its counts are read at its acceptance, by its thread (R40, R43). -/
def readsCounts (r : LaunchReq) : Bool :=
  let d := ofBytes r.desc
  r.indirect && ldPred d 0 == 0 && ldPred d 1 == 0 && launchOk d true

/-- The three counts of a LAUNCHI (R40, R257). -/
def countsOf (bs : List Byte) : Nat × Nat × Nat := (ofBytes (bs.take 4), ofBytes ((bs.drop 4).take 4), ofBytes ((bs.drop 8).take 4))

/-- R256 LAUNCH: the descriptor is read, released at device scope and sent to the arbiter; the status comes back. -/
def execLaunch (f : Fld) (s : State) : Host.Outcome State Fault Refusal :=
  runMem 0xED f s .loads (fun s e _ id =>
    match loadBlock s e (srcA e f) 128 with
    | .error i => .fault s i
    | .ok (bs, s) =>
      match release s e 5 with
      | .ok s => .ok (launchAt s e f id bs false)
      | r => r)

/-- R256 LAUNCHI: as LAUNCH; its counts are read when the launch is accepted or passes its gate (R40). -/
def execLaunchi (f : Fld) (s : State) : Host.Outcome State Fault Refusal :=
  runMem 0xEE f s .loads (fun s e _ id =>
    match loadBlock s e (srcA e f) 128 with
    | .error i => .fault s i
    | .ok (bs, s) =>
      match release s e 5 with
      | .ok s => .ok (launchAt s e f id bs true)
      | r => r)

/-! ## Harrow -/

/-- The round closes when every live thread of the team has deposited (R36). -/
def harrowCheck (s : State) (uid : Nat) : State :=
  match team? s uid with
  | none => s
  | some t =>
    if !t.harrow.isEmpty && t.groups.all (fun g => g.threads.all (fun th => !alive th || th.status == .deposited)) then
      modTeam s uid (fun t => { t with harrowClosed := true })
    else s

/-- R259 REGRP: a release at team scope and a deposit; the thread waits for its round (R36). -/
def execRegrp (f : Fld) (s : State) : Host.Outcome State Fault Refusal :=
  let r := runSeq 0xEF f s (fun s e =>
    let cont := srcC e f
    match resolve s e.x e.t cont with
    | .error i => .fault s i
    | .ok (_, s) =>
      match team? s e.t.uid with
      | none => .ok s
      | some t =>
        if t.harrowCont.isSome && t.harrowCont != some (BitVec.ofNat 64 cont) then .fault s { code := .regroupContinuation }
        else
          match release s e 2 with
          | .ok s =>
            let dep : Deposit :=
              { payload := BitVec.ofNat 64 (srcBz e f), key := BitVec.ofNat 16 (srcA e f), nf := e.th.nf, cont := BitVec.ofNat 64 cont,
                index := 32 * e.g.idx + e.lane }
            let s := modTeam s t.uid (fun t => { t with harrow := t.harrow ++ [dep], harrowCont := some (BitVec.ofNat 64 cont) })
            .placed (modThread s e.c.w e.lane (fun th => { th with pc := BitVec.ofNat 64 e.c.next, status := .deposited }))
          | r => r)
  match r, s.cur with
  | .next s', some c => .next (harrowCheck s' c.w.uid)
  | r, _ => r

end Sys2Proof.Machine
end

