-- ==== Sys2Proof/Machine/Launches.lean ====
section
/-! DEFINITION. Launches and placement (spec 13 R339-R352; 01 R20-R25, R40-R43; 08 R257, R258; 12 R318; 03 R92-R94, R100): the
launch arbiter, gates, the placer, retirement and completion of grids, the event ring and the fault queues. -/
namespace Sys2Proof.Machine

/-! ## Kernel records -/

/-- A kernel record's fields (R318). -/
def kernOf (raw : List Byte) : Kern :=
  let r := ofBytes raw
  { f := bits r 111 96, w := bits r 127 112, ngroups := bits r 79 72, s := bits r 191 128, t := bits r 255 192, cw := bits r 87 80,
    ch := bits r 95 88, gmap := (List.range 64).map (fun i => bits r (1024 + 16 * i + 15) (1024 + 16 * i)),
    stash := (List.range 8).map (fun i => let e := bits r (512 + 64 * i + 63) (512 + 64 * i); (bits e 23 0, bits e 47 24, bits e 63 48)),
    bars := bits r 287 256, raw := raw }

def roundPage (n : Nat) : Nat := roundUp n 4096

/-- Unified-store bytes of a team, each region rounded (R92). -/
def teamBytes (k : Kern) : Nat := roundPage (k.ngroups * blockBytes k) + roundPage k.s + roundPage k.t

/-- Bytes of the unified store that teams can take (R93). -/
def storeRoom : Nat := 1792 * 1024

/-- Two stash entries of a record overlap (R100). -/
def stashOverlap : List (Nat × Nat × Nat) → Bool
  | [] => false
  | a :: rest => rest.any (fun b => decide (a.1 < b.1 + b.2.1) && decide (b.1 < a.1 + a.2.1)) || stashOverlap rest

/-- The shape of a kernel keeps R20, R22, R93, R94 and R100. -/
def kernOk (k : Kern) : Bool :=
  let st := k.stash.filter (fun e => e.2.1 != 0)
  decide (1 ≤ k.ngroups) && decide (k.ngroups ≤ 32) && decide (1 ≤ k.cw) && decide (1 ≤ k.ch) && decide (k.cw * k.ch ≤ 12)
  && decide (1 ≤ k.f) && decide (k.f ≤ 256) && k.w % 8 == 0 && decide (teamBytes k ≤ storeRoom)
  && st.all (fun e => decide (16 * (e.1 + e.2.1) ≤ k.t) && decide (e.2.1 ≤ 131072)) && !stashOverlap st

/-- A barrier level that the launch's kind does not allow is declared (R48). -/
def barsBad (k : Kern) (kind : Nat) : Bool := (k.cw * k.ch == 1 && bits k.bars 23 16 != 0) || (kind != 2 && bits k.bars 27 24 != 0)

/-! ## The mesh -/

/-- Dies of a context's partition in ascending number (R343). -/
def partitionDies (x : Ctx) : List Nat := (List.range 8).filter (fun d => bit x.part.toNat d)

def siteAvail (s : State) (die site : Nat) : Bool := decide (site < 168) && !s.regs.unavail.any (fun u => u.1 == die && u.2 == site)

/-- Sites of a w × h rectangle at (x0, y0), cluster core 0 first (R99, R344). -/
def rectSites (w h x0 y0 : Nat) : List Nat := (List.range (w * h)).map (fun k => 12 * (y0 + k / w) + x0 + k % w)

/-- The corners of the rectangles of a die, smallest y0 first, then smallest x0 (R343, R346). -/
def corners (w h : Nat) : List (Nat × Nat) :=
  (List.range (15 - h)).flatMap (fun y => (List.range (13 - w)).map (fun x => (x, y)))

/-- The first rectangle whose sites all have room. -/
def findRect (w h : Nat) (room : Nat → Bool) : Option (List Nat) :=
  ((corners w h).map (fun c => rectSites w h c.1 c.2)).find? (fun ss => ss.all room)

/-- Groups of a team in a quadrant (R21). -/
def inQuadrant (n q : Nat) : Nat := (n + 3 - q) / 4

/-- Teams that hold room on a core: those that have not ended (R24, R92). -/
def residents (s : State) (die site : Nat) : List Team :=
  s.teams.filter (fun t => t.role == .compute && t.die == die && t.site == site && !teamEnded t)

/-- Whether a core has room for a team of a context (R22, R93, R371); `keepsQueues` for a block that brings core queues. -/
def coreFits (s : State) (ctx : Nat) (k : Kern) (keepsQueues : Bool) (die site : Nat) : Bool :=
  let ts := residents s die site
  siteAvail s die site && ts.all (fun t => t.ctx == ctx) && !(keepsQueues && !ts.isEmpty)
  && decide (sumNat (ts.map (fun t => teamBytes t.kern)) + teamBytes k ≤ storeRoom)
  && (List.range 4).all (fun q =>
      decide (sumNat (ts.map (fun t => (t.groups.filter (fun g => g.idx % 4 == q && g.threads.any alive)).length)) + inQuadrant k.ngroups q ≤ 24))

/-! ## The placement curve (R348) -/

/-- The loop of hd from side s downward. -/
def hilbert (n : Nat) : Nat → Nat → Nat → Nat → Nat → Nat
  | 0, _, _, _, d => d
  | fuel + 1, s, x, y, d =>
    if s == 0 then d
    else
      let rx := b2n (Nat.land x s != 0)
      let ry := b2n (Nat.land y s != 0)
      let d := d + s * s * Nat.xor (3 * rx) ry
      let (x, y) := if ry == 0 then (if rx == 1 then (n - 1 - y, n - 1 - x) else (y, x)) else (x, y)
      hilbert n fuel (s / 2) x y d

/-- The smallest power of two at or above m. -/
def pow2Above (m : Nat) : Nat := if m ≤ 1 then 1 else 2 ^ (Nat.log2 (m - 1) + 1)

def hd (gx gy x y : Nat) : Nat := let n := pow2Above (max gx gy); hilbert n 17 (n / 2) x y 0

/-- The positions of one layer of a grid, by cluster index. -/
def layerOrder (gx gy : Nat) : List (Nat × Nat) :=
  sortBy (fun a b => decide (hd gx gy a.1 a.2 ≤ hd gx gy b.1 b.2)) ((List.range (gx * gy)).map (fun i => (i % gx, i / gx)))

/-- The cluster with an index (R346, R348). -/
def clusterAt (det : Bool) (g : Nat × Nat × Nat) (cix : Nat) : Nat × Nat × Nat :=
  let layer := g.1 * g.2.1
  let i := cix % max 1 layer
  let p := if det then (layerOrder g.1 g.2.1).getD i (0, 0) else (i % max 1 g.1, i / max 1 g.1)
  (p.1, p.2, cix / max 1 layer)

/-- The index of the cluster that a team rank lies in (R237). -/
def cixOfRank (det : Bool) (g : Grid) (rank : Nat) : Nat :=
  let lin := rank / max 1 (g.kern.cw * g.kern.ch)
  if !det then lin
  else
    let layer := g.gdim.1 * g.gdim.2.1
    let i := lin % max 1 layer
    let p := (i % max 1 g.gdim.1, i / max 1 g.gdim.1)
    lin / max 1 layer * layer + ((layerOrder g.gdim.1 g.gdim.2.1).findIdx? (· == p)).getD 0

/-- The die of a cluster in a deterministic context (R348). -/
def curveDie (dies : List Nat) (n u : Nat) : Nat := dies.getD (u * dies.length / max 1 n) 0

/-! ## Status of a launch (R43) -/

/-- Teams of one kernel that an empty core holds. -/
def coreCapacity (k : Kern) : Nat :=
  ((List.range 4).filter (fun q => inQuadrant k.ngroups q != 0)).foldl (fun m q => min m (24 / inQuadrant k.ngroups q))
    (storeRoom / max 1 (teamBytes k))

/-- Teams counted by die and site. -/
abbrev Used := List (Nat × Nat × Nat)
def usedAt (us : Used) (die site : Nat) : Nat :=
  match us.find? (fun e => e.1 == die && e.2.1 == site) with
  | some e => e.2.2
  | none => 0

/-- The sites of a die on which one more cluster of a kernel fits, beside those counted. -/
def packDie (s : State) (k : Kern) (us : Used) (die : Nat) : Option (Nat × List Nat) :=
  (findRect k.cw k.ch (fun site => siteAvail s die site && Nat.blt (usedAt us die site) (coreCapacity k))).map (fun ss => (die, ss))

/-- The procedure of R343 for a grid's clusters on an empty package, from cluster u on. -/
def packs (s : State) (det : Bool) (dies : List Nat) (k : Kern) (n : Nat) : Nat → Nat → Used → Bool
  | 0, _, _ => true
  | fuel + 1, u, us =>
    match (if det then [curveDie dies n u] else dies).findSome? (packDie s k us) with
    | none => false
    | some (d, ss) =>
      packs s det dies k n fuel (u + 1)
        (ss.foldl (fun us x => (d, x, usedAt us d x + 1) :: us.filter (fun e => !(e.1 == d && e.2.1 == x))) us)

/-- The check of status 1: a co-resident grid must pack (R43, R343). -/
def coResident (s : State) (x : Ctx) (k : Kern) (n : Nat) : Bool :=
  let dies := partitionDies x
  !dies.isEmpty && decide (n ≤ dies.length * 168 * coreCapacity k) && packs s x.det dies k n n 0 []

def dimsOk (g : Nat × Nat × Nat) : Bool :=
  let ok (n : Nat) : Bool := decide (1 ≤ n) && decide (n ≤ 65535)
  ok g.1 && ok g.2.1 && ok g.2.2

/-- The kernel that a handle names, when the handle resolves (R181, R258) and the loader gave its record. -/
def kernelFor (s : State) (x : Ctx) (handle : Nat) : Option Kern :=
  match codeEntry s x 8 17 (bits handle 63 40) with
  | .error _ => none
  | .ok (e, _) =>
    if e.len ≤ bits handle 39 0 then none
    else (x.kernels.find? (fun k => k.1 == handle)).map (fun k => kernOf k.2)

/-- The status of a launch whose counts may still be unknown (R43): the first check that fails, in the order 2, 4, 1, 3. -/
def launchStatus (s : State) (x : Ctx) (d : Nat) (indirect : Bool) (counts : Option (Nat × Nat × Nat)) : Nat × Option Kern :=
  if !launchOk d indirect then (2, none)
  else
    match kernelFor s x (ldKern d) with
    | none => (2, none)
    | some k =>
      let n := match counts with | some g => g.1 * g.2.1 * g.2.2 | none => 0
      let dims := match counts with | some g => dimsOk g | none => true
      if !kernOk k || !dims then (2, none)
      else if barsBad k (ldKind d) then (4, none)
      else if ldKind d != 0 && counts.isSome && !coResident s x k n then (1, none)
      else if 4096 ≤ x.launches.length + x.grids.length then (3, none)
      else (0, some k)

/-- The counts of a launch as its acceptance finds them: those of the descriptor, those that a LAUNCHI with no predecessor
reads now, as a load of its thread after a device-scope acquire (R40, R43), or none before its gate has passed. -/
def takeCounts (s : State) (r : LaunchReq) : Except FaultInfo (Option (Nat × Nat × Nat) × State) :=
  let d := ofBytes r.desc
  if !r.indirect then .ok (some (ldGdim d), s)
  else if !readsCounts r then .ok (none, s)
  else
    match r.cur.bind (fun c => env? s c r.lane) with
    | none => .ok (none, s)
    | some e =>
      if 2 ^ 56 < ldCadr d + 12 then .error { code := .address, data := ldCadr d }
      else (loadNow (acquire s e.t 5) e.x e.t.die e.t.site (ldCadr d) 12 .load).map (fun p => (some (countsOf p.1), p.2))

/-- The arbiter checks a launch (R43): status to vd, a number if accepted (R340). -/
def acceptLaunch (s : State) (r : LaunchReq) (counts : Option (Nat × Nat × Nat)) : State :=
  match ctx? s r.ctx with
  | none => s
  | some x =>
    let d := ofBytes r.desc
    let (status, kern) := launchStatus s x d r.indirect counts
    let s := fillPart s r.w r.opId r.lane (leBytes 8 status) 0
    match kern with
    | none => emit s 8 1 x.id 0 0 status
    | some k =>
      let l : Launch :=
        { acc := x.nextAcc, order := s.accOrder, cls := min (ldClass d) r.cls, desc := r.desc, indirect := r.indirect, kern := k,
          pass0 := ldPred d 0 == 0, pass1 := ldPred d 1 == 0, counts := counts, watch0 := none, watch1 := none, parked := none, heldForGood := false }
      let s := modCtx s x.id (fun x => { x with nextAcc := x.nextAcc + 1, launches := x.launches ++ [l] })
      emit { s with accOrder := s.accOrder + 1 } 8 0 x.id x.nextAcc 0 0

/-- The arbiter takes the launch that has come first (R340). A fault in reading its counts is its thread's, at the LAUNCHI,
and nothing is launched (R43). -/
def takeLaunch (s : State) (r : LaunchReq) : State :=
  match takeCounts s r with
  | .ok (counts, s) => acceptLaunch s r counts
  | .error i => (match r.cur with
    | some c => takeFault (cancelPart s r.w r.opId r.lane) c [r.lane] i
    | none => s)

def launchArrives (s : State) : Option State :=
  match s.launchQ with
  | [] => none
  | r :: rest => some (takeLaunch { s with launchQ := rest } r)

/-! ## Gates (R258, R341, R43) -/

def modLaunch (s : State) (ctx acc : Nat) (f : Launch → Launch) : State :=
  modCtx s ctx (fun x => { x with launches := updIf (fun l => l.acc == acc) f x.launches })
def dropLaunch (s : State) (ctx acc : Nat) : State :=
  modCtx s ctx (fun x => { x with launches := x.launches.filter (fun l => l.acc != acc) })

/-- A fault-queue entry for a gate: word 0 holds the code alone, words 3, 5 and 7 the address, the number and the context. -/
def gateEntry (s : State) (ctx acc code va : Nat) : State :=
  queueFault s ctx ([code, 0, 0, va, 0, acc, 0, ctx].map (BitVec.ofNat 64))

/-- A completion word goes out on a UALink port as a posted store of the context (R402, R417). -/
def sendWord (s : State) (x : Ctx) (va pa ty : Nat) (unit : List (Nat × Byte × Byte)) : State :=
  let (id, s) := reqUp s
  { s with outReqs := s.outReqs ++ [
      { id := id, cur := none, w := completionWhere, lane := 0, opId := 0,
        writer := { uid := completionWhere.uid, group := 0, lane := 0, ctx := x.id, acc := 0, cix := 0, k := 0, graded := false },
        va := va, pa := pa, len := unit.length, ty := ty, data := unit, posted := true, atomic := none, copy := none,
        port := linkPort s x pa }] }

/-- The completion word (R258): written through the context's translation as a system-scope release, or logged. On a UALink
window it is a request that its target performs (R402). -/
def completionWord (s : State) (x : Ctx) (cadr cval status : Nat) : State :=
  if cadr == 0 then s
  else
    let bytes := leBytes 8 (cval + status * 2 ^ 32)
    match checkGlobal s x cadr 8 .store with
    | .ok (.mem pa ty) =>
      (match targetOf s pa with
       | .ualink _ => sendWord s x cadr pa ty (fullUnit pa bytes)
       | .hbm =>
         let s := homeStoreFor s (fullUnit pa bytes) none (some x.id)
         if ty ≤ 1 then setForm s (pageRaw s x cadr) [pa] else s
       | _ => homeStoreFor s (fullUnit pa bytes) none (some x.id))
    | .ok (.win _ _) => s
    | .error _ => logError s (some x.id) 7 cadr 0 8

/-- A word that a gate reads at its home (R198, R258): its physical address and its low 32 bits. -/
def gateWord (s : State) (x : Ctx) (va : Nat) : Except FaultInfo (Nat × Nat) :=
  match checkGlobal s x va 8 .monitor with
  | .error i => .error i
  | .ok (.win _ _) => .error { code := .memoryType, data := va }
  | .ok (.mem pa _) => if poisoned s pa 8 then .error (poisonFault s pa 8 va) else .ok (pa, s.home.readN pa 4)

/-- A launch passes its gate: its clusters join the waiting ones (R341), or its counts fail the checks of R43. -/
def openGrid (s : State) (x : Ctx) (l : Launch) (g : Nat × Nat × Nat) : State :=
  let d := ofBytes l.desc
  let s := dropLaunch s x.id l.acc
  let refuse (status : Nat) : State := completionWord s x (ldCadr2 d) (ldCval d) status
  if !dimsOk g then refuse 2
  else if l.indirect && (ldPred d 0 != 0 || ldPred d 1 != 0) && ldKind d != 0 && !coResident s x l.kern (g.1 * g.2.1 * g.2.2) then refuse 1
  else
    let grid : Grid :=
      { acc := l.acc, order := l.order, cls := l.cls, kind := ldKind d, kern := l.kern, desc := l.desc, gdim := g,
        gbs := List.replicate 4 barrier0, next := 0, waiting := [], live := [], away := [], retired := [], nextRetire := 0 }
    modCtx s x.id (fun x => { x with grids := x.grids ++ [grid] })

/-- One advance of a gate; none while it must go on waiting. -/
def gateStep (s : State) (ctx acc : Nat) : Option State :=
  match ctx? s ctx with
  | none => none
  | some x =>
    match x.launches.find? (fun l => l.acc == acc) with
    | none => none
    | some l =>
      let d := ofBytes l.desc
      if l.heldForGood || l.parked.isSome then none
      else
        let stop (i : FaultInfo) (va : Nat) (good : Bool) : State :=
          gateEntry (modLaunch s ctx acc (fun l =>
            if i.code == .translation then { l with parked := some i.data } else { l with heldForGood := good })) ctx acc i.code.num va
        -- a word that does not show its value is watched at its home from now on (R341)
        let look (i : Nat) : Option State :=
          let va := ldPred d i
          match gateWord s x va with
          | .error f => some (stop f va true)
          | .ok (pa, v) =>
            if v == ldPval d i then
              some (modLaunch s ctx acc (fun l => if i == 0 then { l with pass0 := true } else { l with pass1 := true }))
            else if (if i == 0 then l.watch0 else l.watch1) == some (pa, ldPval d i) then none
            else
              some (modLaunch s ctx acc (fun l => if i == 0 then { l with watch0 := some (pa, ldPval d i) } else { l with watch1 := some (pa, ldPval d i) }))
        match (if l.pass0 then none else look 0) with
        | some s => some s
        | none =>
          match (if l.pass1 then none else look 1) with
          | some s => some s
          | none =>
            if !(l.pass0 && l.pass1) then none
            else
              match l.counts with
              | some g => some (openGrid s x l g)
              | none =>
                let va := ldCadr d
                -- the acquire of the gate (R40, R258) comes before the counts are read
                match loadNow (dropClean s 8 17) x 8 17 va 12 .load with
                | .ok (bs, s) => some (openGrid s x l (countsOf bs))
                | .error f =>
                  if f.code == .translation then some (stop f va true)
                  else some (completionWord (dropLaunch (gateEntry s ctx acc f.code.num va) ctx acc) x (ldCadr2 d) (ldCval d) 2)

/-! ## Placement -/

/-- The stash entries of a team before their addresses are read (R100). -/
def stashStart (k : Kern) : List StashEntry :=
  (k.stash.filter (fun e => e.2.1 != 0)).map (fun e => { valid := false, gva := 0, nsec := e.2.1, loff := e.1 })

/-- Team k of a cluster at its placement (R23, R25, R257). -/
def newTeam (x : Ctx) (g : Grid) (uid cix k die site : Nat) : Team :=
  let d := ofBytes g.desc
  let c := clusterAt x.det g.gdim cix
  let rank := ((c.2.2 * g.gdim.2.1 + c.2.1) * g.gdim.1 + c.1) * (g.kern.cw * g.kern.ch) + k
  let bsb (i : Nat) : Nat := ldBsa d + ldBsz d * (rank * g.kern.ngroups + i)
  { soloTeam uid .compute x.id die site g.kern.f g.kern.s with
    acc := g.acc, cix := cix, k := k, cls := g.cls, kind := g.kind, rank := rank, cluster := c, gdim := g.gdim, kern := g.kern,
    args := ldArgs d, bsa := ldBsa d, bsz := ldBsz d, stash := stashStart g.kern,
    groups := (List.range g.kern.ngroups).map (fun i =>
      groupStart i (List.replicate 32 (threadStart 0 (bits (ldKern d) 63 40))) (bsb i) (bsb i + ldBsz d)) }

/-- The queues and write pointers of a core that a team is placed on (R25, R371), and a fresh view of memory (R141). -/
def prepareCore (s : State) (ctx die site : Nat) (saved : Option (List (List (List Byte)) × List (Word × Option Nat))) : State :=
  let s := dropClean s die site
  match saved with
  | some (q, wp) => modCore s die site (fun c => { c with queues := q, wp := wp })
  | none =>
    if (residents s die site).any (fun t => t.ctx == ctx) then s
    else modCore s die site (fun c => { c with queues := List.replicate 8 [], wp := List.replicate 4 (0, none) })

/-- Places the teams of a cluster on their sites: kind-2 event, the context's previous die (R346, R352). -/
def placeTeams (s : State) (x : Ctx) (g : Grid) (cix die : Nat) (sites : List Nat) (ts : List Team)
    (saved : List (Nat × List (List (List Byte)) × List (Word × Option Nat))) : State :=
  let s := ts.foldl (fun s t =>
    let s := prepareCore s x.id die t.site ((saved.find? (fun q => q.1 == t.k)).map (·.2))
    { s with teams := s.teams ++ [t] }) s
  let s := { s with nextUid := s.nextUid + ts.length }
  let s := modCtx s x.id (fun x => { x with prevDie := die })
  let s := modGrid s x.id g.acc (fun g => { g with live := g.live.filter (fun c => c != cix) ++ [cix] })
  let s := { s with placerHold := s.placerHold.filter (fun h => h.2 != (x.id, g.acc, cix)) }
  emit s die 2 x.id g.acc cix (sites.headD 0)

/-- A cluster that waits: fresh, or restored with its teams. -/
inductive Waiting
  | fresh (cix : Nat)
  | saved (p : Pending)
  deriving DecidableEq, Repr

def Waiting.cix : Waiting → Nat
  | .fresh c => c
  | .saved p => p.cix

/-- The waiting clusters of a grid that a restore has brought back, by cluster index (R346, R376). -/
def gridRestored (g : Grid) : List Waiting := (sortBy (fun a b => decide (a.cix ≤ b.cix)) g.waiting).map .saved
/-- The next cluster of a grid that has never been placed: each waits until the one before it has been (R346, R348). -/
def gridFresh (g : Grid) : List Waiting := if g.next < gridClusters g then [.fresh g.next] else []
/-- The waiting clusters of a grid: restored ones first (R376), then the next fresh one. -/
def gridWaiting (g : Grid) : List Waiting := gridRestored g ++ gridFresh g

/-- Copies that paused with their team go on with it (R53). -/
def rebindCopies (s : State) (t : Team) : State :=
  let mine (c : Copy) : Bool := c.held && c.writer.graded && c.writer.ctx == t.ctx && c.writer.acc == t.acc && c.writer.cix == t.cix && c.writer.k == t.k
  let move (c : Copy) : Copy :=
    { c with w := { uid := t.uid, group := c.w.group }, writer := { c.writer with uid := t.uid }, die := t.die, site := t.site, held := false }
  { s with copies := updIf mine move s.copies }

/-- Rows of the valid ranges of a set. -/
def setRows (rs : List Resv) : List Nat := rs.map (fun r => if r.valid then r.nrows else 0)

/-- The released sets that a team's instructions still use: the first sequence number past them, and rows (R274). -/
def releasedSets (t : Team) : List (Nat × List Nat) :=
  (((t.mq.filter (fun m => m.mobGen != 0)).map (·.mobGen)).eraseDups).map (fun gen =>
    let ms := t.mq.filter (fun m => m.mobGen == gen)
    (ms.foldl (fun u m => max u (m.seq + 1)) 0, match ms with | m :: _ => setRows m.resv | [] => []))

/-- A restored team takes physical rows of its core afresh, each range at the lowest free row that fits (R107, R373): its
records, and the rows of released sets still in use. -/
def rebindRows (s : State) (t : Team) (die site : Nat) : Option (List Resv × List Lingering) :=
  let old : List (Nat × Nat) := (releasedSets t).flatMap (fun r => r.2.map (fun n => (r.1, n)))
  (mobPlace (setRows t.resv ++ old.map (·.2)) (mobTaken s die site)).map (fun bs =>
    (t.resv.zipWith (fun r b => if r.valid then { r with base := b } else r) bs,
     (old.zip (bs.drop t.resv.length)).map (fun p => { uid := t.uid, base := p.2, nrows := p.1.2, upto := p.1.1 })))

/-- The bound tiles of a restored team find free physical tiles, and its ranges free rows (R107, R279, R373). -/
def rowsFit (s : State) (t : Team) (die site : Nat) : Bool :=
  decide ((t.tiles.filter (·.bound)).length ≤ freeTiles s die site) && (rebindRows s t die site).isSome

/-- Puts a waiting cluster on the sites of a die. -/
def placeOne (s : State) (x : Ctx) (g : Grid) (w : Waiting) (die : Nat) (sites : List Nat) : State :=
  match w with
  | .fresh cix =>
    let ts := sites.zipIdx.map (fun p => newTeam x g (s.nextUid + p.2) cix p.2 die p.1)
    placeTeams (modGrid s x.id g.acc (fun g => { g with next := g.next + 1 })) x g cix die sites ts []
  | .saved p =>
    let rows (t : Team) : List Resv × List Lingering := (rebindRows s t die (sites.getD t.k 0)).getD (t.resv, [])
    let keep (s : State) (q : Team × Nat) : State :=
      modCore s die (sites.getD q.1.k 0) (fun c => { c with lingering := (rows q.1).2.map (fun l => { l with uid := s.nextUid + q.2 }) ++ c.lingering })
    let ts := p.teams.zipIdx.map (fun q => { q.1 with
      uid := s.nextUid + q.2, die := die, site := sites.getD q.1.k 0, resv := (rows q.1).1,
      stashDirty := q.1.stashDirty.map (fun d => (d.1, { d.2 with uid := s.nextUid + q.2 })) })
    let s := modGrid s x.id g.acc (fun g => { g with waiting := g.waiting.filter (fun q => q.cix != p.cix) })
    ts.foldl rebindCopies (placeTeams (p.teams.zipIdx.foldl keep s) x g p.cix die sites ts p.queues)

/-- The sites on which a waiting cluster fits on a die (R346, R371). -/
def fitsOn (s : State) (x : Ctx) (g : Grid) (w : Waiting) (die : Nat) : Option (List Nat) :=
  -- a block with core queues goes only to a core free of the context's teams; the other blocks of the cluster need not
  let keeps (i : Nat) : Bool := match w with | .saved p => p.queues.any (fun q => q.1 == i) | .fresh _ => false
  let rows (sites : List Nat) : Bool :=
    match w with
    | .fresh _ => true
    | .saved p => p.teams.all (fun t => rowsFit s t die (sites.getD t.k 0))
  ((corners g.kern.cw g.kern.ch).map (fun c => rectSites g.kern.cw g.kern.ch c.1 c.2)).find? (fun ss =>
    ss.zipIdx.all (fun p => coreFits s x.id g.kern (keeps p.2) die p.1) && rows ss)

/-- The dies that a waiting cluster tries, in order (R346, R348). -/
def diesFor (x : Ctx) (g : Grid) (w : Waiting) : List Nat :=
  let dies := partitionDies x
  if x.det then [curveDie dies (gridClusters g) w.cix]
  else dies.filter (fun d => decide (x.prevDie < d)) ++ dies.filter (fun d => decide (d ≤ x.prevDie))

/-- The procedure of R343 on the package as it stands, for the clusters of a grid that is placed whole (R347), on dies that no
cluster before it in the order holds. -/
def placeWhole (blocked : List Nat) : Nat → State → Nat → Nat → Option State
  | 0, s, _, _ => some s
  | fuel + 1, s, ctx, acc =>
    match ctx? s ctx, grid? s ctx acc with
    | some x, some g =>
      (match gridWaiting g with
       | [] => some s
       | w :: _ =>
         match (diesFor x g w).findSome? (fun d => if blocked.contains d then none else (fitsOn s x g w d).map (fun ss => (d, ss))) with
         | none => none
         | some (d, ss) => placeWhole blocked fuel (placeOne s x g w d ss) ctx acc)
    | _, _ => none

/-- A launch or grid in the order of R346. -/
structure InLine where
  cls : Nat
  order : Nat
  ctx : Nat
  acc : Nat
  kind : Nat
  atGate : Bool
  restored : Bool
  deriving DecidableEq, Repr

def lineLe (a b : InLine) : Bool :=
  decide (b.cls < a.cls) || (a.cls == b.cls && ((a.restored && !b.restored) || (a.restored == b.restored && decide (a.order ≤ b.order))))

/-- Everything that stands in the placer's order: grids with waiting clusters, and launches of the kinds that hold dies from
their acceptance (R346, R347). The restored clusters of a plain grid stand ahead of every unplaced one of their class, its
others at their own place (R376); a grid that is placed whole stands once. -/
def placerLine (s : State) : List InLine :=
  sortBy lineLe (s.ctxs.flatMap (fun x =>
    let here (g : Grid) (restored : Bool) : InLine :=
      { cls := g.cls, order := g.order, ctx := x.id, acc := g.acc, kind := g.kind, atGate := false, restored := restored }
    (x.grids.filter (fun g => !g.waiting.isEmpty)).map (fun g => here g true)
    ++ (x.grids.filter (fun g => !(gridFresh g).isEmpty && !(g.kind != 0 && !g.waiting.isEmpty))).map (fun g => here g false)
    ++ (x.launches.filter (fun l => ldKind (ofBytes l.desc) != 0)).map (fun l =>
      { cls := l.cls, order := l.order, ctx := x.id, acc := l.acc, kind := ldKind (ofBytes l.desc), atGate := true, restored := false })))

/-- The waiting clusters for which an entry of the line stands. -/
def InLine.waiting (i : InLine) (g : Grid) : List Waiting :=
  if i.kind != 0 then gridWaiting g else if i.restored then gridRestored g else gridFresh g

/-- The first of some waiting clusters of a grid that fits, on the first of its dies on which it fits and that nothing before
it holds (R346): placed, if that is the placer's die. A cluster that stays holds the dies that a hold names for it. -/
def placeFrom (s : State) (x : Ctx) (g : Grid) (die : Nat) : List Nat → List Waiting → Option State × List Nat
  | blocked, [] => (none, blocked)
  | blocked, w :: rest =>
    let dies := (diesFor x g w).filter (fun d => !blocked.contains d)
    match (if dies.find? (fun d => (fitsOn s x g w d).isSome) == some die then fitsOn s x g w die else none) with
    | some ss => (some (placeOne s x g w die ss), blocked)
    | none => placeFrom s x g die (blocked ++ (s.placerHold.filter (fun h => h.2 == (x.id, g.acc, w.cix))).map (·.1)) rest

/-- What the placer of a die does with the line, in order. `blocked`: the dies on which nothing further is placed, since a
cluster before it holds them (R346) or a grid to be placed whole, which holds every die of its partition (R347). -/
def placeLine (s : State) (die : Nat) : List Nat → List InLine → Option State
  | _, [] => none
  | blocked, i :: rest =>
    if blocked.contains die then none
    else
      match ctx? s i.ctx with
      | none => placeLine s die blocked rest
      | some x =>
        let mine := (partitionDies x).contains die
        if i.atGate then placeLine s die (blocked ++ partitionDies x) rest
        else
          match grid? s i.ctx i.acc with
          | none => placeLine s die blocked rest
          | some g =>
            if i.kind != 0 then
              match (if mine then placeWhole blocked (gridClusters g + g.waiting.length) s i.ctx i.acc else none) with
              | some s => some s
              | none => placeLine s die (blocked ++ partitionDies x) rest
            else
              match placeFrom s x g die blocked (i.waiting g) with
              | (some s, _) => some s
              | (none, blocked) => placeLine s die blocked rest

/-- CLUSTER_PLACE on a die (R346, R347). -/
def placeCluster (s : State) (die : Nat) : Option State := placeLine s die [] (placerLine s)

/-- The cluster that stands first on a die (R346). -/
def firstStanding (s : State) (die : Nat) : Option (Nat × Nat × Nat) :=
  (placerLine s).findSome? (fun i =>
    if i.atGate then none
    else
      match ctx? s i.ctx, grid? s i.ctx i.acc with
      | some x, some g =>
        (match i.waiting g with
         | w :: _ => if (diesFor x g w).contains die then some (x.id, g.acc, w.cix) else none
         | [] => none)
      | _, _ => none)

/-! ## Retirement and completion -/

/-- Emits the retirement events that nothing holds (R348). -/
def emitRetired : Nat → State → Nat → Nat → State
  | 0, s, _, _ => s
  | fuel + 1, s, ctx, acc =>
    match ctx? s ctx, grid? s ctx acc with
    | some x, some g =>
      let ready := g.retired.find? (fun r => !x.det || r.1 == g.nextRetire)
      (match ready with
       | none => s
       | some r =>
         let s := emit s r.2.2 3 ctx acc r.1 r.2.1
         emitRetired fuel (modGrid s ctx acc (fun g => { g with
           retired := g.retired.filter (fun q => q.1 != r.1), nextRetire := g.nextRetire + 1 })) ctx acc)
    | _, _ => s

/-- An ended team's stores, the stash bytes among them, and all that its threads observed on its core are performed at their
homes before its grid completes (R24, R102, R126); a thread with a stash byte that cannot be written back records the fault
of the first one. -/
def publishTeam (s : State) (t : Team) : State :=
  let s := match ctxOf s t with
    | none => s
    | some x =>
      let (s, bad) := stashWriteBack s x t.uid
      (bad.map (fun b => (b.1.group, b.1.lane))).eraseDups.foldl (fun s k =>
        match bad.find? (fun b => (b.1.group, b.1.lane) == k) with
        | some b => lateFault s { uid := t.uid, group := k.1 } k.2 .reduction b.2
        | none => s) s
  performAll s t.die t.site

/-- Copies, reductions or link requests of a team that still run. -/
def outlives (s : State) (t : Team) : Bool :=
  s.copies.any (fun c => c.w.uid == t.uid) || s.syncQ.any (fun i => i.w.uid == t.uid) || s.outReqs.any (fun r => r.w.uid == t.uid)

/-- What is kept of a retired team for the faults that its operations may still record (R252, R379): who its threads were and
where they ended. -/
def departed (t : Team) : Team :=
  { t with lmem := [], lpoison := [], stash := [], stashValid := [], stashDirty := [], tiles := [], mq := [] }

/-- CLUSTER_RETIRE (R348): every team has ended and nothing of them is left in an engine. -/
def retireCluster (s : State) (ctx acc cix : Nat) : Option State :=
  match grid? s ctx acc with
  | none => none
  | some g =>
    let mine (t : Team) : Bool := t.role == .compute && t.ctx == ctx && t.acc == acc && t.cix == cix
    let ts := s.teams.filter mine
    if !g.live.contains cix || ts.isEmpty || !ts.all (fun t => teamEnded t && t.mq.isEmpty)
        || s.cores.any (fun c => c.smu.any (fun o => ts.any (fun t => t.uid == o.uid))) then none
    else
      let first := ts.find? (fun t => t.k == 0)
      let site := match first with | some t => t.site | none => 0
      let die := match first with | some t => t.die | none => 0
      let s := ts.foldl publishTeam s
      let s := { s with departed := s.departed ++ ((s.teams.filter mine).filter (outlives s)).map departed }
      let s := modGrid { s with teams := s.teams.filter (fun t => !mine t) } ctx acc (fun g => { g with
        live := g.live.filter (fun c => c != cix), retired := g.retired ++ [(cix, site, die)] })
      some (emitRetired (g.retired.length + 1) s ctx acc)

/-- Operations of a grid that have not finished (R24, R237). -/
def gridBusy (s : State) (ctx acc : Nat) : Bool :=
  let mine (w : Writer) : Bool := w.graded && w.ctx == ctx && w.acc == acc
  s.copies.any (fun c => mine c.writer) || s.syncQ.any (fun i => mine i.writer)
  || s.deliveries.any (fun d => d.ctx == ctx && d.acc == acc) || s.outReqs.any (fun r => mine r.writer && r.posted)

/-- GRID_COMPLETE (R24, R258, R143, R145): what its threads stored is published, then the completion word is written. The event
takes its number after the word, in the same step, where R342 lets a consumer see either first (the model's choice, log 35). -/
def completeGrid (s : State) (ctx acc : Nat) : Option State :=
  match ctx? s ctx, grid? s ctx acc with
  | some x, some g =>
    if g.next < gridClusters g || !g.waiting.isEmpty || !g.live.isEmpty || !g.away.isEmpty || !g.retired.isEmpty || gridBusy s ctx acc then none
    else
      let mine (d : Dirty) : Bool := d.w.graded && d.w.ctx == ctx && d.w.acc == acc
      let s := s.cores.foldl (fun s c => if c.dirty.any mine then performWhere s c.die c.site mine else s) s
      let d := ofBytes g.desc
      let s := completionWord s x (ldCadr2 d) (ldCval d) 0
      let s := modCtx s ctx (fun x => { x with
        grids := x.grids.filter (fun g => g.acc != acc), tags := x.tags.filter (fun t => t.2.acc != acc),
        claims := x.claims.filter (fun c => c.2.1 != acc) })
      let s := { s with departed := s.departed.filter (fun t => !(t.ctx == ctx && t.acc == acc)) }
      some (emit s 8 4 ctx acc 0 0)
  | _, _ => none

/-! ## The event ring and the fault queues -/

/-- The 64-byte record of an event (R352). -/
def eventRecord (e : Ev) (pseq : Nat) : Nat :=
  e.info % 2 ^ 36 + e.die * 2 ^ 36 + e.kind * 2 ^ 40 + e.ctx * 2 ^ 48 + e.cyc.toNat * 2 ^ 64 + e.dseq % 2 ^ 64 * 2 ^ 128
  + pseq % 2 ^ 64 * 2 ^ 192 + e.acc % 2 ^ 64 * 2 ^ 256 + e.cix % 2 ^ 64 * 2 ^ 320

/-- EVENT_RECORD (R351, R352): the next event takes its package number and goes to the ring, or is dropped. -/
def recordEvent (s : State) : Option State :=
  match s.evQ with
  | [] => none
  | e :: rest =>
    let pseq := s.pseq
    let s := { s with evQ := rest, pseq := s.pseq + 1 }
    let base := bits (ctlGet s 0x300020) 55 0
    let len := bits (ctlGet s 0x300028) 31 0
    let rd := bits (ctlGet s 0x300030) 63 32
    let at' := base + 64 * (pseq % max 1 len)
    if len == 0 then some s
    else if (s.regs.evwr - BitVec.ofNat 32 rd).toNat == len || !inHbm at' then
      some { s with regs := { s.regs with drop := if s.regs.drop.toNat == 2 ^ 32 - 1 then s.regs.drop else s.regs.drop + 1 } }
    else
      let s := deviceWrite s at' 64 (eventRecord e pseq)
      some (msi { s with regs := { s.regs with evwr := s.regs.evwr + 1 } } 0 0)

/-- The field [hi:lo] of virtual function v's record (R410). -/
def vfField (s : State) (v word hi lo : Nat) : Nat := bits (ctlGet s (0x608000 + 64 * v + 8 * word)) hi lo

/-- The virtual function that holds a context. -/
def vfOf (s : State) (ctx : Nat) : Option Nat :=
  (List.range 16).find? (fun v =>
    let base := vfField s v 2 15 0
    decide (base ≤ ctx) && decide (ctx < base + vfField s v 2 31 16))

/-- The host interrupt of a context (R411); function 0 is the physical function, v + 1 virtual function v. -/
def raiseContext (s : State) (ctx : Nat) : State :=
  let e := bits (ctlGet s (0x640000 + 2 * ctx / 8 * 8)) (16 * (ctx % 4) + 15) (16 * (ctx % 4))
  if !bit e 15 then s
  else
    match vfOf s ctx with
    | some v => msi s (v + 1) (bits e 5 0)
    | none => msi s 0 (bits e 10 0)

/-- FAULT_QUEUE_WRITE (R366): the oldest entry goes to the ring when there is room; the interrupt follows. -/
def writeFaultQueue (s : State) (ctx : Nat) : Option State :=
  match ctx? s ctx with
  | none => none
  | some x =>
    match x.fqPend with
    | [] => none
    | rcd :: rest =>
      let fqrd := s.home.readN (ctxDesc s ctx + 44) 4
      if (x.fqwr - BitVec.ofNat 32 fqrd).toNat == x.fqlen then none
      else
        let s := deviceWrite s (x.fqbase + 64 * (x.fqwr.toNat % max 1 x.fqlen)) 64
          (ofBytes (rcd.flatMap (fun w => leBytes 8 w.toNat)))
        let s := deviceWrite s (ctxDesc s ctx + 40) 4 (x.fqwr.toNat + 1)
        let s := modCtx s ctx (fun x => { x with fqPend := rest, fqwr := x.fqwr + 1 })
        some (raiseContext s ctx)

/-! ## The rows of the opcode table -/

/-- An event that is not enabled changes nothing. -/
def orStay (s : State) (r : Option State) : Host.Outcome State Fault Refusal := .next (r.getD s)

/-- R340 LAUNCH_ARRIVAL. -/
def execLaunchArrival (s : State) : Host.Outcome State Fault Refusal := orStay s (launchArrives s)
/-- R341 GATE_PASS. -/
def execGatePass (ctx acc : Nat) (s : State) : Host.Outcome State Fault Refusal := orStay s (gateStep s ctx acc)
/-- R346 CLUSTER_PLACE. -/
def execClusterPlace (die : Nat) (s : State) : Host.Outcome State Fault Refusal := orStay s (placeCluster s die)
/-- R348 CLUSTER_RETIRE. -/
def execClusterRetire (ctx acc cix : Nat) (s : State) : Host.Outcome State Fault Refusal := orStay s (retireCluster s ctx acc cix)
/-- R258 GRID_COMPLETE. -/
def execGridComplete (ctx acc : Nat) (s : State) : Host.Outcome State Fault Refusal := orStay s (completeGrid s ctx acc)
/-- R352 EVENT_RECORD. -/
def execEventRecord (s : State) : Host.Outcome State Fault Refusal := orStay s (recordEvent s)
/-- R366 FAULT_QUEUE_WRITE. -/
def execFaultQueueWrite (ctx : Nat) (s : State) : Host.Outcome State Fault Refusal := orStay s (writeFaultQueue s ctx)

/-- R346 PLACER_HOLD: 65,536 clk have passed while the first cluster of a die stood and later ones were placed; nothing
behind it is placed there until it is. -/
def execPlacerHold (die : Nat) (s : State) : Host.Outcome State Fault Refusal :=
  .next (match firstStanding s die with
    | some c => if s.placerHold.any (fun h => h == (die, c)) then s else { s with placerHold := (die, c) :: s.placerHold }
    | none => s)

/-- R368 WATCHDOG: an interval of wdog × 2^24 clk has passed for a grid; an entry with code 0x20, words 5 and 7 naming it. -/
def execWatchdog (ctx acc : Nat) (s : State) : Host.Outcome State Fault Refusal :=
  .next (match ctx? s ctx with
    | some x =>
      if x.wdog != 0 && (x.grids.any (fun g => g.acc == acc) || x.launches.any (fun l => l.acc == acc)) then
        queueFault s ctx ([0x20, 0, 0, 0, 0, acc, 0, ctx].map (BitVec.ofNat 64))
      else s
    | none => s)

end Sys2Proof.Machine
end

