-- ==== Sys2Proof/Machine/SmallMatrix.lean ====
section
/-! DEFINITION. The small-matrix class (spec 09 R260-R270, 03 R98): every guard-true thread computes on its own
registers; the results stay in the quadrant's unit until SMALL_MATRIX_COMPLETE writes them (R264). -/
namespace Sys2Proof.Machine

/-- What one thread's small-matrix instruction comes to: registers, nf bits, smst[15:0], counters drawn (R262). -/
structure SmOut where
  regs : List (Nat × Nat)
  nf : Nat
  smst : Option Nat
  draws : Nat

/-- An element in the course of a computation: its value and its code. -/
abbrev SmEl := Val × Nat

/-- One thread's execution: environment, fields, slot and mode. -/
structure SmEnv where
  e : Env
  f : Fld
  k : Fdr
  mode : Nat

/-- Slots of small-matrix instructions: kind 0 of width 16 to 64 (R98, R261). -/
def smFormat (k : Fdr) : Bool := k.kind == 0 && decide (16 ≤ k.w)

/-- An operand element (R262): element 0 of a register, with the nf bits of its read. -/
def smRead (x : SmEnv) (code : Nat) : SmEl × Nat :=
  let r := readCode x.k (fiOf x.f) (code % 2 ^ x.k.w)
  ((r.1, code % 2 ^ x.k.w), r.2)

/-- One rounding (R262) of an exact result that stands at position el. -/
def smRound (x : SmEnv) (el : Nat) (v : Exact) : SmEl × Nat :=
  let r := flushOut x.k (foOf x.f) (roundEl x.e x.k x.f.slot.toNat x.mode el v)
  (((codeVal x.k r.1).1, r.1), r.2)

/-- A matrix of n elements at a register, and the nf bits of the reads that `want` asks for. -/
def smMat (x : SmEnv) (base n : Nat) (want : Nat → Bool) : List SmEl × Nat :=
  let es := (List.range n).map (fun i => smRead x (srcV x.e (base + i)))
  (es.map (·.1), orAll (es.zipIdx.map (fun p => if want p.2 then p.1.2 else 0)))

def smAt (m : List SmEl) (i : Nat) : Val := (m.getD i (.nan, 0)).1

/-- An exact Σ of products, with the special cases of FDOT (R216). -/
def smSum (mode : Nat) (ps : List (Val × Val)) : Val × Nat :=
  if ps.any (fun p => p.1.isNan || p.2.isNan) then (.nan, 0)
  else
    let r := sumVals (ps.map (fun p => (mulVal p.1 p.2).1)) mode
    (r.1, if r.1.isNan then nfIV else 0)

/-- d + Σ or d − Σ (R265-R270): the Σ, then the sum, each with its zero sign by R74; an empty Σ changes nothing. -/
def smPlus (mode : Nat) (minus : Bool) (d : Val) (ps : List (Val × Val)) : Val × Nat :=
  if d.isNan || ps.any (fun p => p.1.isNan || p.2.isNan) then (.nan, 0)
  else if ps.isEmpty then (d, 0)
  else
    let t := smSum mode ps
    let r := sumVals [d, if minus then t.1.negate else t.1] mode
    (r.1, r.2 ||| t.2)

/-- A quotient with DZ (R262). -/
def smDiv (a b : Val) : Val × Nat := let r := divVal a b; (r.1, r.2.1 ||| r.2.2)

/-- Element-wise results, one rounding each, at positions 0, 1, … of the destination. -/
def smWrite (x : SmEnv) (rd : Nat) (vs : List (Val × Nat)) : List (Nat × Nat) × Nat :=
  let es := vs.zipIdx.map (fun p => let r := smRound x p.2 (.val p.1.1); (r.1.2, r.2 ||| p.1.2))
  (es.zipIdx.map (fun p => (rd + p.2, p.1.1)), orAll (es.map (·.2)))

/-- The r·c positions of a matrix with c columns, in row order. -/
def smPositions (r c : Nat) : List (Nat × Nat) := (List.range (r * c)).map (fun i => (i / c, i % c))

def smOpt0 (f : Fld) : Bool := bit f.c.toNat 6
def smOpt1 (f : Fld) : Bool := bit f.c.toNat 7

/-- R265: D := A·B with an optional D before it. -/
def smProduct (x : SmEnv) (acc minus : Bool) : SmOut :=
  let f := x.f
  let r := smR f; let q := smQ f; let n := smN f
  let (am, fa) := smMat x f.a.toNat (r * q) (fun _ => true)
  let (bm, fb) := smMat x f.b.toNat (q * n) (fun _ => true)
  let (dm, fd) := if acc then smMat x f.d.toNat (r * n) (fun _ => true) else ([], 0)
  let a (i m : Nat) : Val := smAt am (if smOpt0 f then r * m + i else q * i + m)
  let b (m j : Nat) : Val := smAt bm (if smOpt1 f then q * j + m else n * m + j)
  let vs := (smPositions r n).map (fun p =>
    let ps := (List.range q).map (fun m => (a p.1 m, b m p.2))
    if acc then smPlus x.mode minus (smAt dm (n * p.1 + p.2)) ps else smSum x.mode ps)
  let (regs, nf) := smWrite x f.d.toNat vs
  { regs := regs, nf := nf ||| fa ||| fb ||| fd, smst := none, draws := r * n }

/-- R266 SMADD. -/
def smAddVals (x : SmEnv) : SmOut :=
  let f := x.f
  let n := smR f * smQ f
  let (am, fa) := smMat x f.a.toNat n (fun _ => true)
  let (bm, fb) := smMat x f.b.toNat n (fun _ => true)
  let vs := (List.range n).map (fun i =>
    let b := smAt bm i
    sumVals [smAt am i, if smOpt0 f then b.negate else b] x.mode)
  let (regs, nf) := smWrite x f.d.toNat vs
  { regs := regs, nf := nf ||| fa ||| fb, smst := none, draws := n }

/-- R266 SMSCL. -/
def smScale (x : SmEnv) : SmOut :=
  let f := x.f
  let n := smR f * smQ f
  let (am, fa) := smMat x f.a.toNat n (fun _ => true)
  let (s, fs) := smRead x (if f.form == .w96 then slotLiteral x.k f.lit.toNat else srcV x.e f.b.toNat)
  let (regs, nf) := smWrite x f.d.toNat ((List.range n).map (fun i => mulVal (smAt am i) s.1))
  { regs := regs, nf := nf ||| fa ||| fs, smst := none, draws := n }

/-- R266 SMTRN: D(j,i) := A(i,j). -/
def smTranspose (x : SmEnv) : SmOut :=
  let f := x.f
  let r := smR f; let q := smQ f
  let (am, fa) := smMat x f.a.toNat (r * q) (fun _ => true)
  let (regs, nf) := smWrite x f.d.toNat ((smPositions q r).map (fun p => (smAt am (q * p.2 + p.1), 0)))
  { regs := regs, nf := nf ||| fa, smst := none, draws := 0 }

/-- π(i) of a permutation register (R267). -/
def smPi (b i : Nat) : Nat := bits b (4 * i + 3) (4 * i)

/-- R266, R267 SMPERM. -/
def smPermute (x : SmEnv) : SmOut :=
  let f := x.f
  let r := smR f; let q := smQ f
  let b := srcV x.e f.b.toNat
  let (am, fa) := smMat x f.a.toNat (r * q) (fun _ => true)
  let src (i : Nat) : Nat :=
    if smOpt0 f then ((List.range r).find? (fun j => smPi b j == i)).getD r else smPi b i
  let vs := (smPositions r q).map (fun p =>
    if src p.1 < r then (smAt am (q * src p.1 + p.2), 0) else (Val.nan, nfIV))
  let (regs, nf) := smWrite x f.d.toNat vs
  { regs := regs, nf := nf ||| fa, smst := none, draws := 0 }

/-- The largest of some magnitudes (R266). -/
def smLargest (vs : List Val) : Val :=
  vs.foldl (fun m v => if valLt m v then v else m) (.fin false (qOf 0))

/-- R266 SMNRM. -/
def smNorm (x : SmEnv) : SmOut :=
  let f := x.f
  let r := smR f; let q := smQ f
  let (am, fa) := smMat x f.a.toNat (r * q) (fun _ => true)
  let mags := am.map (fun a => a.1.abs)
  let mag (i j : Nat) : Val := mags.getD (q * i + j) .nan
  let total (vs : List Val) : Val := (sumVals vs x.mode).1
  let v : Exact × Nat :=
    if am.any (fun a => a.1.isNan) then (.val .nan, 0)
    else match smOpt f with
      | 0 => sqrtVal (total (mags.map (fun m => (mulVal m m).1)))
      | 1 => (.val (smLargest mags), 0)
      | 2 => (.val (smLargest ((List.range r).map (fun i => total ((List.range q).map (fun j => mag i j))))), 0)
      | _ => (.val (smLargest ((List.range q).map (fun j => total ((List.range r).map (fun i => mag i j))))), 0)
  let res := smRound x 0 v.1
  { regs := [(f.d.toNat, res.1.2)], nf := res.2 ||| v.2 ||| fa, smst := none, draws := 1 }

/-- |smst.tau| (R263): a binary32 code, a NaN code read as +0. -/
def smTau (x : SmEnv) : Val :=
  match (codeVal fdBinary32 (bits x.e.th.smst.toNat 63 32)).1 with
  | .nan => .fin false (qOf 0)
  | v => v.abs

/-- A matrix being factored: its elements, the nf bits, the positions written. -/
structure SmWork where
  m : List SmEl
  nf : Nat
  written : List Nat

def SmWork.put (w : SmWork) (el : Nat) (r : SmEl × Nat) (nf : Nat) : SmWork :=
  { m := w.m.set el r.1, nf := w.nf ||| r.2 ||| nf, written := w.written ++ [el] }

/-- Column j of CHOL (R268) once its pivot d has passed. -/
def cholColumn (x : SmEnv) (r j : Nat) (d : Val) (w : SmWork) : SmWork :=
  let root := sqrtVal d
  let w := w.put (r * j + j) (smRound x (r * j + j) root.1) root.2
  ((List.range r).filter (fun i => decide (j < i))).foldl (fun w i =>
    let t := smPlus x.mode true (smAt w.m (r * i + j)) ((List.range j).map (fun k => (smAt w.m (r * i + k), smAt w.m (r * j + k))))
    let v := smDiv t.1 (smAt w.m (r * j + j))
    w.put (r * i + j) (smRound x (r * i + j) (.val v.1)) (v.2 ||| t.2)) w

/-- R268 CHOL. -/
def smChol (x : SmEnv) : SmOut :=
  let f := x.f
  let r := smR f
  let tau := smTau x
  let (am, fa) := smMat x f.d.toNat (r * r) (fun i => decide (i % r ≤ i / r))
  let res := (List.range r).foldl (fun (st : SmWork × Option Nat) j =>
    match st.2 with
    | some _ => st
    | none =>
      let w := st.1
      let d := smPlus x.mode true (smAt w.m (r * j + j)) ((List.range j).map (fun k => (smAt w.m (r * j + k), smAt w.m (r * j + k))))
      let w := { w with nf := w.nf ||| d.2 }
      if d.1.isNan || !valLt tau d.1 then ({ w with nf := w.nf ||| nfNP }, some j)
      else (cholColumn x r j d.1 w, none)) ({ m := am, nf := fa, written := [] }, none)
  let smst := match res.2 with | some j => 1 + 16 * j | none => 0
  { regs := res.1.written.map (fun i => (f.d.toNat + i, (res.1.m.getD i (.nan, 0)).2)), nf := res.1.nf, smst := some smst, draws := r * r }

/-- A matrix being factored by LUP (R269): rows move, π and the counts with them. -/
structure LupWork where
  m : List SmEl
  nf : Nat
  pi : List Nat
  swaps : Nat
  pmask : Nat
  first : Option Nat

/-- |s|, a NaN above +∞ (R269). -/
def lupLarger (a b : Val) : Bool :=
  match a, b with
  | .nan, .nan => false
  | .nan, _ => true
  | _, .nan => false
  | a, b => valLt b.abs a.abs

def swapRows (r j p : Nat) (m : List SmEl) : List SmEl :=
  (List.range (r * r)).map (fun i =>
    let row := if i / r == j then p else if i / r == p then j else i / r
    m.getD (r * row + i % r) (.nan, 0))

/-- τ with the sign bit of s. -/
def signedTau (tau : Val) (s : Val) : Val := if s.neg then tau.negate else tau

/-- Column j of LUP (R269). -/
def lupColumn (x : SmEnv) (r : Nat) (tau : Val) (w : LupWork) (j : Nat) : LupWork :=
  let at' (m : List SmEl) (i k : Nat) : Val := smAt m (r * i + k)
  -- the candidates s(j) … s(r − 1), by row
  let cand := ((List.range r).filter (fun i => decide (j ≤ i))).map (fun i =>
    let t := smPlus x.mode true (at' w.m i j) ((List.range j).map (fun m => (at' w.m i m, at' w.m m j)))
    let c := smRound x (r * i + j) (.val t.1)
    (i, c.1, c.2 ||| t.2))
  let s (i : Nat) : SmEl := match cand.find? (fun c => c.1 == i) with | some c => c.2.1 | none => (.nan, 0)
  let p := cand.foldl (fun p c => if lupLarger c.2.1.1 (s p).1 then c.1 else p) j
  let sOf (i : Nat) : SmEl := if i == j then s p else if i == p then s j else s i
  let m := swapRows r j p w.m
  let pi := (List.range 6).map (fun i => w.pi.getD (if i == j then p else if i == p then j else i) 0)
  let nf := w.nf ||| orAll (cand.map (fun c => c.2.2))
  let sj := sOf j
  let small := !sj.1.isNan && !valLt tau sj.1.abs
  let repl := smRound x (r * j + j) (.val (signedTau tau sj.1))
  let piv := if small then repl.1 else sj
  let nf := if small then nf ||| repl.2 ||| nfSP else nf
  let m := m.set (r * j + j) piv
  let below := ((List.range r).filter (fun i => decide (j < i))).map (fun i =>
    let v := smDiv (sOf i).1 piv.1
    let c := smRound x (r * i + j) (.val v.1)
    (r * i + j, c.1, c.2 ||| v.2))
  let m := below.foldl (fun m c => m.set c.1 c.2.1) m
  let right := ((List.range r).filter (fun k => decide (j < k))).map (fun k =>
    let t := smPlus x.mode true (at' m j k) ((List.range j).map (fun q => (at' m j q, at' m q k)))
    let c := smRound x (r * j + k) (.val t.1)
    (r * j + k, c.1, c.2 ||| t.2))
  let m := right.foldl (fun m c => m.set c.1 c.2.1) m
  { m := m, nf := nf ||| orAll (below.map (fun c => c.2.2)) ||| orAll (right.map (fun c => c.2.2)), pi := pi,
    swaps := if p == j then w.swaps else w.swaps + 1,
    pmask := if small then w.pmask + 2 ^ j else w.pmask,
    first := if small then some (w.first.getD j) else w.first }

/-- R269 LUP. -/
def smLup (x : SmEnv) : SmOut :=
  let f := x.f
  let r := smR f
  let (am, fa) := smMat x f.d.toNat (r * r) (fun _ => true)
  let w := (List.range r).foldl (lupColumn x r (smTau x))
    { m := am, nf := fa, pi := List.range 6, swaps := 0, pmask := 0, first := none }
  let perm := w.swaps * 2 ^ 56 + packElems 4 w.pi
  { regs := w.m.zipIdx.map (fun p => (f.d.toNat + p.2, p.1.2)) ++ [(f.b.toNat, perm)], nf := w.nf,
    smst := some ((if w.pmask == 0 then 0 else 2) + 16 * w.first.getD 0 + 256 * w.pmask), draws := r * r }

/-- One pass of SOLV or SOLVT over a column (R270): forward or backward, with or without division, by the factor g;
the column, the nf bits and the lowest row with a zero divisor. -/
def solvePass (x : SmEnv) (r n j : Nat) (forward unit : Bool) (g : Nat → Nat → Val)
    (st : List SmEl × Nat × Option Nat) : List SmEl × Nat × Option Nat :=
  let rows := if forward then List.range r else (List.range r).reverse
  rows.foldl (fun st i =>
    let ks := (List.range r).filter (fun k => if forward then decide (k < i) else decide (i < k))
    let t := smPlus x.mode true (smAt st.1 i) (ks.map (fun k => (g i k, smAt st.1 k)))
    let v := if unit then t else (let d := smDiv t.1 (g i i); (d.1, d.2 ||| t.2))
    let c := smRound x (n * i + j) (.val v.1)
    let zero := if !unit && (g i i).isZero then some (min i (st.2.2.getD i)) else st.2.2
    (st.1.set i c.1, st.2.1 ||| c.2 ||| v.2, zero)) st

/-- R270: the passes over every column of B; `perm` gives the row of B that row i starts with. -/
def smSolve (x : SmEnv) (want : Nat → Nat → Bool) (perm : Option (Nat → Nat))
    (passes : (Nat → Nat → Val) → List (Bool × Bool × (Nat → Nat → Val))) : SmOut :=
  let f := x.f
  let r := smR f; let n := smN f
  let (fm, ff) := smMat x f.a.toNat (r * r) (fun i => want (i / r) (i % r))
  let (bm, fb) := smMat x f.d.toNat (r * n) (fun _ => true)
  let g (i k : Nat) : Val := smAt fm (r * i + k)
  let start (j i : Nat) : SmEl × Nat := match perm with
    | none => (bm.getD (n * i + j) (.nan, 0), 0)
    | some p => if p i < r then (bm.getD (n * p i + j) (.nan, 0), 0) else ((.nan, 0), nfIV)
  let cols := (List.range n).map (fun j =>
    let ys := (List.range r).map (start j)
    (passes g).foldl (fun st p => solvePass x r n j p.1 p.2.1 p.2.2 st) (ys.map (·.1), orAll (ys.map (·.2)), none))
  let zero := cols.foldl (fun (z : Option Nat) c => match c.2.2 with | some i => some (min i (z.getD i)) | none => z) none
  { regs := cols.zipIdx.flatMap (fun c => c.1.1.zipIdx.map (fun y => (f.d.toNat + n * y.2 + c.2, y.1.2))),
    nf := ff ||| fb ||| orAll (cols.map (fun c => c.2.1)),
    smst := some (match zero with | some i => 3 + 16 * i | none => 0), draws := r * n }

/-- R270 SOLV. -/
def smSolv (x : SmEnv) : SmOut :=
  if smOpt0 x.f then
    let b := srcV x.e x.f.b.toNat
    smSolve x (fun _ _ => true) (some (smPi b)) (fun g => [(true, true, g), (false, false, g)])
  else smSolve x (fun i k => decide (k ≤ i)) none (fun g => [(true, false, g), (false, false, fun i k => g k i)])

/-- R270 SOLVT. -/
def smSolvt (x : SmEnv) : SmOut :=
  match smOpt x.f with
  | 0 => smSolve x (fun i k => decide (k ≤ i)) none (fun g => [(true, false, g)])
  | 1 => smSolve x (fun i k => decide (k < i)) none (fun g => [(true, true, g)])
  | 2 => smSolve x (fun i k => decide (i ≤ k)) none (fun g => [(false, false, g)])
  | _ => smSolve x (fun i k => decide (k ≤ i)) none (fun g => [(false, false, fun i k => g k i)])

/-- A lane's results: lane, registers, nf bits, smst[15:0], counters drawn. -/
abbrev SmRes := Nat × List (Nat × Word) × Nat × Option Word × Option Word

/-- One thread of a small-matrix instruction: its fault, or its results (R94, R98, R261, R262). -/
def smLane (op : Nat) (f : Fld) (l : Nat) (e : Env) (body : SmEnv → SmOut) : Except FaultInfo SmRes :=
  match registerFault e op f with
  | some i => .error i
  | none =>
    match slotFor e f.slot.toNat 0 smFormat with
    | .error i => .error i
    | .ok k =>
      let mode := modeOf k (bits f.m.toNat 2 0)
      let o := body { e := e, f := f, k := k, mode := mode }
      .ok (l, o.regs.map (fun p => (p.1, BitVec.ofNat 64 p.2)), o.nf, o.smst.map (BitVec.ofNat 64),
        if mode == 5 && o.draws != 0 then some (BitVec.ofNat 64 o.draws) else none)

/-- Issues a small-matrix instruction (R264): it waits while its quadrant's unit is occupied; the threads' results go
into the unit. -/
def smIssue (op : Nat) (f : Fld) (s : State) (body : SmEnv → SmOut) : Host.Outcome State Fault Refusal :=
  withCur s (fun c =>
    match team? s c.w.uid with
    | none => s
    | some t =>
      let q := c.w.group % 4
      let act := active s c f
      if !act.isEmpty && (core s t.die t.site).smu.any (fun u => u.quadrant == q) then
        c.lanes.foldl (fun s l => setWait s c.w l .resource) s
      else
        let results := act.filterMap (fun l => (env? s c l).map (fun e => (l, smLane op f l e body)))
        let ok : List SmRes := results.filterMap (fun p => match p.2 with | .ok r => some r | .error _ => none)
        let bad : List (Nat × FaultInfo) := results.filterMap (fun p => match p.2 with | .ok _ => none | .error i => some (p.1, i))
        let s := skipFalse s c f
        let s := goto s c.w (ok.map (·.1)) c.next
        let s := if ok.isEmpty then s
          else
            let (id, s) := addOp s c.w .none .smu [] false
            modCore s t.die t.site (fun k => { k with smu := k.smu ++ [{ quadrant := q, uid := c.w.uid, group := c.w.group, opId := id, lanes := ok }] })
        takeFaults s c bad)

/-- R265 SMMUL: D := A·B. -/
def execSmmul (f : Fld) (s : State) : Host.Outcome State Fault Refusal := smIssue 0xC0 f s (fun x => smProduct x false false)
/-- R265 SMMAD: D := D + A·B. -/
def execSmmad (f : Fld) (s : State) : Host.Outcome State Fault Refusal := smIssue 0xC1 f s (fun x => smProduct x true false)
/-- R265 SMMSB: D := D − A·B. -/
def execSmmsb (f : Fld) (s : State) : Host.Outcome State Fault Refusal := smIssue 0xC2 f s (fun x => smProduct x true true)
/-- R266 SMADD: A + B, or A − B with .sub. -/
def execSmadd (f : Fld) (s : State) : Host.Outcome State Fault Refusal := smIssue 0xC3 f s smAddVals
/-- R266 SMSCL: A × s. -/
def execSmscl (f : Fld) (s : State) : Host.Outcome State Fault Refusal := smIssue 0xC4 f s smScale
/-- R266 SMTRN: the transpose. -/
def execSmtrn (f : Fld) (s : State) : Host.Outcome State Fault Refusal := smIssue 0xC5 f s smTranspose
/-- R266 SMPERM: rows by a permutation register. -/
def execSmperm (f : Fld) (s : State) : Host.Outcome State Fault Refusal := smIssue 0xC6 f s smPermute
/-- R266 SMNRM: a norm. -/
def execSmnrm (f : Fld) (s : State) : Host.Outcome State Fault Refusal := smIssue 0xC7 f s smNorm
/-- R268 CHOL: A = L·Lᵀ in place. -/
def execChol (f : Fld) (s : State) : Host.Outcome State Fault Refusal := smIssue 0xC8 f s smChol
/-- R269 LUP: P·A = L·U in place. -/
def execLup (f : Fld) (s : State) : Host.Outcome State Fault Refusal := smIssue 0xC9 f s smLup
/-- R270 SOLV: A·X = B from a factor. -/
def execSolv (f : Fld) (s : State) : Host.Outcome State Fault Refusal := smIssue 0xCA f s smSolv
/-- R270 SOLVT: a triangular solve. -/
def execSolvt (f : Fld) (s : State) : Host.Outcome State Fault Refusal := smIssue 0xCB f s smSolvt

/-- One lane's results written at the end of a small-matrix instruction (R262, R263). -/
def smFinishLane (w : Where) (s : State) (r : SmRes) : State :=
  let s := r.2.1.foldl (fun s p => writeV s w r.1 p.1 p.2.toNat) s
  modThread s w r.1 (fun th => orNf r.2.2.1 { th with
    smst := match r.2.2.2.1 with | some x => BitVec.ofNat 64 (setBits th.smst.toNat 15 0 x.toNat) | none => th.smst,
    sx := match r.2.2.2.2 with | some n => th.sx + n | none => th.sx })

/-- R264 SMALL_MATRIX_COMPLETE: the destinations are written and the unit is free. -/
def smFinish (s : State) (die site quadrant : Nat) : State :=
  match (core s die site).smu.find? (fun u => u.quadrant == quadrant) with
  | none => s
  | some u =>
    let w : Where := { uid := u.uid, group := u.group }
    let s := u.lanes.foldl (smFinishLane w) s
    let s := modCore s die site (fun k => { k with smu := k.smu.filter (fun v => v.quadrant != quadrant) })
    modGroup s w (fun g => { g with ops := g.ops.filter (fun o => o.id != u.opId) })

end Sys2Proof.Machine
end

