-- ==== Sys2Proof/Machine/Completion.lean ====
section
/-! DEFINITION. What happens after an issue: data returning to registers (spec 03 R97, 08 R243), stores performed at their homes
(04 R124), sync engines (04 R132-R134), copies (04 R139, 08 R252), the engines' steps (01 R45, R46, 09 R264, R284), monitors (06
R198, R199), Harrow rounds (01 R37), answers and failures of links (16 R402, R403), page walks and memory errors (14 R357,
R377-R380). -/
namespace Sys2Proof.Machine

/-- A core by number: 168 numbers for the sites of each die; headland and patch cores on dies 8 and 9. -/
def coreDie (n : Nat) : Nat := n / 168
def coreSite (n : Nat) : Nat := n % 168

/-! ## Data returning -/

/-- Writes registers of consecutive numbers, v registers under the ring offset at which the instruction named them (R97). -/
def writeRun (s : State) (w : Where) (lane o : Nat) (g : Bool) (n : Nat) (xs : List Nat) : State :=
  xs.zipIdx.foldl (fun s p => if g then writeG s w (n + p.2) p.1 else writeVAt s w lane o (n + p.2) p.1) s

/-- Registers of packed elements: the elements of each register in turn (R61). -/
def packRegs (w : Nat) (els : List Nat) : List Nat :=
  let l := 64 / w
  (List.range ((els.length + l - 1) / l)).map (fun r => packElems w ((els.drop (l * r)).take l))

/-- A part's bytes become register values (R97, R174, R229, R231). -/
def writePart (s : State) (w : Where) (p : Part) : State :=
  let v := ofBytes p.bytes
  match p.form with
  | .typed g n ty => writeRun s w p.lane p.o g n [tyWrite ty (tyRead ty v)]
  | .pair g n => writeRun s w p.lane p.o g n [v % 2 ^ 64, v / 2 ^ 64 % 2 ^ 64]
  | .packed g n k count off => writeRun s w p.lane p.o g n [packElems k ((List.range count).map (fun i => v / 2 ^ (off + k * i) % 2 ^ k))]
  | .mx n k =>
    let els := (List.range 32).map (fun i => v / 2 ^ (k * i) % 2 ^ k)
    writeRun s w p.lane p.o false n (packRegs k els ++ [v / 2 ^ (32 * k) % 256])
  | .elem n k => writeRun s w p.lane p.o false n [v % 2 ^ k]
  | .word n => writeRun s w p.lane p.o false n [v % 2 ^ 64]
  | .wordPred n pc => modThread (writeRun s w p.lane p.o false n [v % 2 ^ 64]) w p.lane (setPred pc (bit v 64))
  | .none => s

/-- A link's answer of n bytes from pa on stands in its part; once nothing is missing the acquire of an LDACQ follows
(R232, R402). -/
def fillLinks (s : State) (w : Where) (opId lane pa n : Nat) : State :=
  let here (l : Nat × Nat) : Bool := decide (pa ≤ l.2) && decide (l.2 < pa + n)
  let part := (group? s w).bind (fun g => (g.ops.find? (fun o => o.id == opId)).bind (fun o => o.parts.find? (fun p => p.lane == lane)))
  let acq := match part with
    | some p => if p.links.all here then p.acq else 0
    | none => 0
  let s := modOp s w opId (fun o => { o with parts := updIf (fun p => p.lane == lane) (fun p =>
      { p with bytes := p.bytes.zipIdx.map (fun b => match p.links.find? (fun l => l.1 == b.2 && here l) with
          | some l => targetByte s l.2
          | none => b.1), links := p.links.filter (fun l => !here l), ready := p.links.all here }) o.parts })
  match team? s w.uid with
  | some t => acquire s t acq
  | none => s

def dropReq (s : State) (id : Nat) : State := { s with outReqs := s.outReqs.filter (fun r => r.id != id) }

def copyOf (s : State) (id : Nat) : Option Copy := s.copies.find? (fun c => c.id == id)

/-- A request that cannot be answered yet: it waits for room at its port (R404, R416), or an earlier one goes before it, of its
copy (R139), or of its thread where they reach one byte or are both on STRONG pages (R122, R138). -/
def heldBack (s : State) (r : OutReq) : Bool :=
  waitsRoom s r || s.outReqs.any (fun q => decide (q.id < r.id) && (match q.copy, r.copy with
    | some a, some b => a == b
    | none, none => q.w == r.w && q.lane == r.lane && q.opId != r.opId
        && ((q.ty == 3 && r.ty == 3) || (decide (q.pa < r.pa + r.len) && decide (r.pa < q.pa + q.len)))
    | _, _ => false))

/-- An outbound request fails (R403): as a failure of the link, or with poison. A copy stops at it, and sends nothing more. -/
def failReq (s : State) (r : OutReq) (poison : Bool) : State :=
  let s := countError (dropReq s r.id) r.port
  let i : FaultInfo := { code := if poison then .poison else .address, data := r.va }
  match r.copy with
  | some id =>
    let s := { s with outReqs := s.outReqs.filter (fun q => q.copy != some id) }
    (match copyOf s id with
     | some c => stopCopy s c i
     | none => s)
  | none =>
    if r.w == completionWhere then logError s (some r.writer.ctx) 7 r.va 0 8       -- the word is not written (R258)
    else if r.posted then
      modThread s r.w r.lane (fun th =>
        if th.linkFails == 0 || decide (r.id < th.linkReq) then { th with linkFails := th.linkFails + 1, linkVa := r.va, linkReq := r.id }
        else { th with linkFails := th.linkFails + 1 })
    else
      let s := cancelPart { s with outReqs := s.outReqs.filter (fun q => !(q.copy.isNone && q.w == r.w && q.opId == r.opId && q.lane == r.lane)) }
        r.w r.opId r.lane
      match r.cur with
      | some c => takeFault s c [r.lane] i
      | none => s

/-- What an answered request leaves in a copy: source bytes, or the write pointer past bytes performed (R139, R253). -/
def answerCopy (s : State) (r : OutReq) (id : Nat) : State :=
  match copyOf s id with
  | none => s
  | some c =>
    if !r.posted then modCopy s id (fun k => { k with wait := none, got := some ((List.range r.len).map (fun i => targetByte s (r.pa + i))) })
    else if r.opId == 1 then movePointer s c (r.va + r.len)
    else s

/-- The target of an outbound request performs it and answers (R402). -/
def performReq (s : State) (r : OutReq) : State :=
  let s := dropReq s r.id
  match r.atomic with
  | some i => runItem s i
  | none =>
    let s := if r.posted then homeStore s r.data (some r.writer) else s
    match r.copy with
    | some id => answerCopy s r id
    | none => if r.posted then s else fillLinks s r.w r.opId r.lane r.pa r.len

/-- A request under the package's own accelerator id comes back as an inbound one (R417): refused where no window admits
it (R420), answered with poison, or performed at its own HBM. -/
def loopReq (s : State) (r : OutReq) (pa : Nat) : State :=
  let kind := if r.atomic.isSome then 2 else if r.posted then 1 else 0
  if !admitted s (ownAid s) pa r.len kind then failReq s r false
  else if kind != 1 && poisoned s pa r.len then failReq s r true
  else performReq s { r with
    data := r.data.map (fun u => (u.1 % 2 ^ 40, u.2)),
    atomic := r.atomic.map (fun i => { i with pa := pa, die := homeDie s pa }) }

/-- The answer to an outbound request. -/
def answerReq (s : State) (r : OutReq) : State :=
  match loopPa s r.pa with
  | some pa => loopReq s r pa
  | none => performReq s r

/-- The requests of a part that a PCIe port carries: the host answers when the data is taken. -/
def hostReqs (s : State) (w : Where) (op : Nat) : List OutReq :=
  s.outReqs.filter (fun r => r.w == w && r.opId == op && r.copy.isNone && !r.posted && decide (16 ≤ r.port))

/-- A part has its data, or awaits only a host. -/
def partReady (s : State) (w : Where) (op : Nat) (host : List OutReq) (p : Part) : Bool :=
  p.ready || (host.any (fun r => r.lane == p.lane)
    && !s.outReqs.any (fun r => r.w == w && r.opId == op && r.lane == p.lane && r.copy.isNone && !r.posted && decide (r.port < 16)))

/-- LOAD_DATA_RETURN (R97, R243): every part of the operation has its data; the registers are written together. -/
def returnData (s : State) (w : Where) (op : Nat) : Option State :=
  match (group? s w).bind (fun g => g.ops.find? (fun o => o.id == op)) with
  | none => none
  | some o =>
    let host := hostReqs s w op
    if o.done || o.kind != .parts || !o.parts.all (partReady s w op host) || host.any (heldBack s) then none
    else
      let s := host.foldl answerReq s
      match (group? s w).bind (fun g => g.ops.find? (fun o => o.id == op)) with
      | none => some s
      | some o =>
        let s := o.parts.foldl (fun s p =>
          let s := writePart s w p
          if p.nf == 0 then s else modThread s w p.lane (orNf p.nf)) s
        some (modGroup s w (fun g => { g with ops := pruneOps s w (updIf (fun o => o.id == op) (fun o => { o with done := true, parts := [] }) g.ops) }))

/-- R97 LOAD_DATA_RETURN. -/
def execLoadDataReturn (uid group op : Nat) (s : State) : Host.Outcome State Fault Refusal :=
  orStay s (returnData s { uid := uid, group := group } op)

/-- R124 STORE_PERFORM: a line's bytes of a core are performed at their home. -/
def execStorePerform (core line : Nat) (s : State) : Host.Outcome State Fault Refusal :=
  .next (performWhere s (coreDie core) (coreSite core) (fun d => d.pa / 128 == line))

/-! ## Sync engines -/

/-- The oldest item of a die's sync engine. -/
def nextItem (s : State) (die : Nat) : Option SyncItem := s.syncQ.find? (fun i => i.die == die)

def syncRun (s : State) (die : Nat) : Option State :=
  (nextItem s die).map (fun i => runItem { s with syncQ := s.syncQ.filter (fun j => j.id != i.id) } i)

/-- R132 SYNC_ENGINE_EXECUTE. -/
def execSyncEngineExecute (die : Nat) (s : State) : Host.Outcome State Fault Refusal := orStay s (syncRun s die)

/-- A deposit that is lost (R237, R369). -/
def redirectLost (s : State) (d : Delivery) : State := logError s (some d.ctx) 4 d.off d.word1 d.die

/-- ATOMRD_DELIVERY (R134, R237): the old value, then the external arrival; none while the target is not resident. R237 calls
the offset a multiple of n and names no outcome for another: it is taken as it stands (the model's choice, log 35). -/
def deliverAtom (s : State) (id : Nat) : Option State :=
  match s.deliveries.find? (fun d => d.id == id) with
  | none => none
  | some d =>
    let s' := { s with deliveries := s.deliveries.filter (fun e => e.id != id) }
    match ctx? s d.ctx, grid? s d.ctx d.acc with
    | some x, some g =>
      let cix := cixOfRank x.det g d.rank
      (match s.teams.find? (fun t => t.role == .compute && t.ctx == d.ctx && t.acc == d.acc && t.rank == d.rank) with
       | some t =>
         if teamEnded t || decide (t.kern.s < d.off + d.size) then some (redirectLost s' d)
         else
           let s := modTeam s' t.uid (fun t => putLocal t (writerOf t 0 0) (fullUnit d.off (leBytes d.size d.old)))
           let s := modTeam s t.uid (fun t => { t with tbs := t.tbs.modify d.bar (fun b => { b with y := b.y + 1 }) })
           some (barCheck s t.uid (.team d.bar))
       | none =>
         if gridClusters g * (g.kern.cw * g.kern.ch) ≤ d.rank then some (redirectLost s' d)
         else if g.next ≤ cix || g.away.contains cix || g.away.contains (gridClusters g) || g.waiting.any (fun p => p.cix == cix && p.teams.any (fun t => t.rank == d.rank)) then none
         else some (redirectLost s' d))
    | _, _ => some s'

/-- R237 ATOMRD_DELIVERY. -/
def execAtomrdDelivery (n : Nat) (s : State) : Host.Outcome State Fault Refusal := orStay s (deliverAtom s n)

/-! ## Copies -/

/-- COPY_WRITE (R139): the next part of a copy, or its pause at a translation fault (R252). -/
def copyAdvance (s : State) (id : Nat) : Option State :=
  (copyOf s id).bind (fun c => match copyNext s c with
    | .write s => some s
    | .pause i => some (pauseCopy s c i)
    | _ => none)

def copyFinish (s : State) (id : Nat) : Option State :=
  (copyOf s id).bind (fun c => match copyNext s c with
    | .done => some (endCopy s id)
    | _ => none)

def copyHalt (s : State) (id : Nat) : Option State :=
  (copyOf s id).bind (fun c => match copyNext s c with
    | .stop i => some (stopCopy s c i)
    | _ => none)

/-- R139 COPY_WRITE. -/
def execCopyWrite (copy : Nat) (s : State) : Host.Outcome State Fault Refusal := orStay s (copyAdvance s copy)
/-- R243 COPY_COMPLETE. -/
def execCopyComplete (copy : Nat) (s : State) : Host.Outcome State Fault Refusal := orStay s (copyFinish s copy)
/-- R252 COPY_STOP. -/
def execCopyStop (copy : Nat) (s : State) : Host.Outcome State Fault Refusal := orStay s (copyHalt s copy)

/-! ## Engines -/

/-- R46 TOKEN_GRANT. -/
def execTokenGrant (s : State) : Host.Outcome State Fault Refusal := orStay s (grantToken s)
/-- R284 MATRIX_STEP. -/
def execMatrixStep (core : Nat) (s : State) : Host.Outcome State Fault Refusal := orStay s (stepEngine s (coreDie core) (coreSite core))
/-- R264 SMALL_MATRIX_COMPLETE. -/
def execSmallMatrixComplete (core quadrant : Nat) (s : State) : Host.Outcome State Fault Refusal :=
  .next (smFinish s (coreDie core) (coreSite core) quadrant)

/-! ## Monitors -/

/-- The environment of a thread that stands at an address. -/
def standing (s : State) (w : Where) (lane : Nat) : Option Env :=
  (thread? s w lane).bind (fun th => env? s
    { w := w, lanes := [lane], pc := th.pc.toNat, next := th.pc.toNat, dword := 0, lit := 0, form := 0, noPatch := true, noG := false } lane)

/-- WAITMEM_SATISFIED (R198): the value that passed goes to vd, then the acquire. -/
def satisfy (s : State) (w : Where) (lane : Nat) : Option State :=
  match standing s w lane with
  | none => none
  | some e =>
    match e.th.status, e.th.watch with
    | .waiting .monitor, some (.word _ _ ty _ _ dst next (some got)) =>
      let s := match dst with
        | some (g, d) => writeReg s e true g d (tyWrite ty (tyRead ty got))
        | none => s
      some (acquire (goto s w [lane] next) e.t 6)
    | _, _ => none

/-- PARK_WAKE (R199). -/
def wakePark (s : State) (w : Where) (lane : Nat) : Option State :=
  match standing s w lane with
  | none => none
  | some e =>
    match e.th.status, e.th.watch with
    | .waiting .park, some (.parked _ true) => some (parkWoken s e)
    | _, _ => none

/-- R198 WAITMEM_SATISFIED. -/
def execWaitmemSatisfied (uid group lane : Nat) (s : State) : Host.Outcome State Fault Refusal :=
  orStay s (satisfy s { uid := uid, group := group } lane)
/-- R199 PARK_WAKE. -/
def execParkWake (uid group lane : Nat) (s : State) : Host.Outcome State Fault Refusal :=
  orStay s (wakePark s { uid := uid, group := group } lane)

/-! ## Harrow -/

/-- The order of deposits (R37). -/
def depositLe (a b : Deposit) : Bool := decide (a.key.toNat < b.key.toNat) || (a.key == b.key && decide (a.index ≤ b.index))

/-- The new thread that takes a deposit's place (R37, R38). -/
def harrowThread (t : Team) (pc cid : Nat) (d : Deposit) : Thread :=
  let old := (grp? t (d.index / 32)).bind (fun g => g.threads[d.index % 32]?)
  let th := threadStart pc cid
  match old with
  | some o => { th with nf := d.nf, arr := o.arr, anw := o.anw,
                        late := o.late.map (fun l => (match l.1 with | .copy _ => .copy none | k => k, l.2)),
                         linkFails := o.linkFails, linkVa := o.linkVa, linkReq := o.linkReq }
  | none => { th with nf := d.nf }

/-- HARROW_GROUPS_START (R37): groups of 32 in key order at the continuation, with a team-scope acquire. -/
def startHarrow (s : State) (uid : Nat) : Option State :=
  match team? s uid with
  | none => none
  | some t =>
    match (if t.harrowClosed then t.harrowCont else none), ctx? s t.ctx with
    | some cont, some x =>
      let ds := sortBy depositLe t.harrow
      -- the continuation resolved for every deposit; an object unloaded since leaves the threads with a code-handle fault
      let (pc, s, ok) : Nat × State × Bool := match resolve s x t cont.toNat with
        | .ok (pc, s) => (pc, s, true)
        | .error _ => (0, s, false)
      let cid := bits cont.toNat 63 40
      let made := (ds.length + 31) / 32
      let groups := (List.range made).map (fun i =>
        let threads := (List.range 32).map (fun l => match ds[32 * i + l]? with
          | some d => harrowThread t pc cid d
          | none => threadNone)
        let (bsb, bsl) := match grp? t i with | some g => (g.bsb.toNat, g.bsl.toNat) | none => (0, 0)
        let old := match grp? t i with | some g => g.nextOp | none => 0
        { groupStart i threads bsb bsl with nextOp := old, started := true })
      let s := modTeam s uid (fun t =>
        let clear (m : Mem) (i : Nat) : Mem := m.clearRange (ubase t.kern i) (blockBytes t.kern)
        let m := (List.range made).foldl clear t.lmem
        { t with groups := groups ++ (t.groups.filter (fun g => decide (made ≤ g.idx))).map (fun g =>
                   { g with threads := g.threads.map (fun th => if th.status == .deposited then { th with status := .ended, arr := 0, anw := 0 } else th) }),
                 lmem := m, lpoison := t.lpoison.filter (fun p => !(List.range made).any (fun i =>
                   decide (ubase t.kern i / 8 ≤ p) && decide (p < (ubase t.kern i + blockBytes t.kern) / 8))),
                 harrow := [], harrowCont := none, harrowClosed := false })
      -- results that a small-matrix unit still holds for the groups of the round that has closed go nowhere
      let s := modCore s t.die t.site (fun c => { c with smu := updIf (fun u => u.uid == uid) (fun u => { u with lanes := [] }) c.smu })
      let s := ds.zipIdx.foldl (fun s p =>
        let w : Where := { uid := uid, group := p.2 / 32 }
        writeV (writeV s w (p.2 % 32) 0 p.1.payload.toNat) w (p.2 % 32) 1 p.1.key.toNat) s
      some (if ok then s else
        (List.range made).foldl (fun s i =>
          let w : Where := { uid := uid, group := i }
          let live := match group? s w with | some g => liveLanes g | none => []
          takeFault s { w := w, lanes := live, pc := 0, next := 0, dword := 0, lit := 0, form := 0, noPatch := true, noG := false } live { code := .codeHandle }) s)
    | _, _ => none

/-- R37 HARROW_GROUPS_START. -/
def execHarrowGroupsStart (uid : Nat) (s : State) : Host.Outcome State Fault Refusal := orStay s (startHarrow s uid)

/-! ## Links -/

def withReq (s : State) (id : Nat) (k : OutReq → State) : Host.Outcome State Fault Refusal :=
  .next (match s.outReqs.find? (fun r => r.id == id) with
    | some r => k r
    | none => s)

/-- A request fails in its turn: it has left its port, and the first failed byte stops a copy (R252, R403, R404, R416). -/
def failInTurn (s : State) (r : OutReq) (poison : Bool) : State :=
  if waitsRoom s r || (r.copy.isSome && heldBack s r) then s else failReq s r poison

/-- R402 UALINK_RESPONSE: the peer has performed the request. -/
def execUalinkResponse (req : Nat) (s : State) : Host.Outcome State Fault Refusal :=
  withReq s req (fun r => if r.port < 16 && !heldBack s r then answerReq s r else s)
/-- R403 COMPLETION_TIMEOUT: a PCIe request is not answered in time. -/
def execCompletionTimeout (req : Nat) (s : State) : Host.Outcome State Fault Refusal :=
  withReq s req (fun r => if 16 ≤ r.port then failInTurn s r false else s)
/-- R403 UALINK_RESPONSE_TIMEOUT: a UALink request is not answered within 16 ms. -/
def execUalinkResponseTimeout (req : Nat) (s : State) : Host.Outcome State Fault Refusal :=
  withReq s req (fun r => if r.port < 16 then failInTurn s r false else s)
/-- R403 OUTBOUND_FAILURE: Unsupported Request, Completer Abort or a UALink error response. -/
def execOutboundFailure (req : Nat) (s : State) : Host.Outcome State Fault Refusal := withReq s req (fun r => failInTurn s r false)

/-- A request of a host window that nothing else answers: a reduction, or the signal of a COPYX (R401, R421). -/
def hostAnswer (s : State) : Option State :=
  (s.outReqs.find? (fun r => decide (16 ≤ r.port) && r.atomic.isSome && (r.posted || r.copy.isSome) && !heldBack s r)).map (answerReq s)

/-! ## Translations and memory errors -/

/-- R357 PAGE_WALK: a walk completes and the device keeps what it read; a walk that fails leaves the access to fault. -/
def execPageWalk (ctx va : Nat) (s : State) : Host.Outcome State Fault Refusal :=
  .next (match ctx? s ctx with
    | none => s
    | some x =>
      match walkLevels s va [4, 3, 2, 1, 0] x.ptroot with
      | .error _ => s
      | .ok l =>
        if s.kept.any (fun k => k.ctx == ctx && decide (k.va ≤ va) && decide (va < k.va + k.size)) then s
        else { s with kept := { ctx := ctx, va := l.va, size := l.size, leaf := l.pte } :: s.kept })

/-- Words of HBM are poisoned whole (R377). -/
def poisonWords (s : State) (ws : List Nat) (sram : Bool) : State :=
  { s with poison := ws.map (fun w => { word := w, stored := 0, sram := sram, writer := none }) ++ s.poison.filter (fun p => !ws.contains p.word) }

/-- One 16-byte sector is poisoned at its home by an SRAM error (R377, R380). -/
def poisonSector (s : State) (sec : Nat) : State :=
  let other := ones 16 * 2 ^ (16 * (1 - sec % 2))
  let kept := match s.poison.find? (fun p => p.word == sec / 2) with
    | some p => Nat.land p.stored other
    | none => other
  { s with poison := { word := sec / 2, stored := kept, sram := true, writer := none } :: s.poison.filter (fun p => p.word != sec / 2) }

/-- An uncorrectable HBM error (R377): one word of a raw granule, every word of a compressed one. -/
def hbmFailure (s : State) (pa : Nat) (compressed : Bool) : State :=
  if compressed && !s.rawGranules.contains (pa / 512) then poisonWords s ((List.range 16).map (fun i => pa / 512 * 16 + i)) false
  else poisonWords s [pa / 32] false

/-- The home writes a granule back to HBM (R377, R378): a word with a poisoned sector is stored poisoned; where a store had
changed such a word, the error is logged for the context that wrote it. -/
def homeWriteBack (s : State) (granule : Nat) : State :=
  let mine := s.poison.filter (fun p => p.word / 16 == granule)
  let s := { s with poison := updIf (fun p => p.word / 16 == granule && (p.writer.isSome || p.sram)) (fun p => { p with stored := 0, writer := none }) s.poison }
  mine.foldl (fun s p => match p.writer with
    | some ctx => logLocated s ctx 2 (32 * p.word) (homeDie s (32 * p.word))
    | none => s) s

/-- A write-back that nothing else has caused (R378). -/
def nextWriteBack (s : State) : Option State :=
  (s.poison.find? (fun p => p.writer.isSome)).map (fun p => homeWriteBack s (p.word / 16))

/-- One more in a count by die. -/
def countIn (cs : List (Nat × Nat)) (die : Nat) : List (Nat × Nat) :=
  match cs.find? (fun c => c.1 == die) with
  | some c => (die, c.2 + 1) :: cs.filter (fun c => c.1 != die)
  | none => (die, 1) :: cs

/-- The memory errors that the environment brings (R377, R380, R403). -/
def memoryError (s : State) (i : Input) : State :=
  match i with
  | .hbmError pa compressed => logLocated (hbmFailure s pa compressed) none 3 (pa / 32 * 32) (homeDie s pa)
  | .hbmCorrected pa => logLocated s none 0 (pa / 32 * 32) (homeDie s pa)
  | .writeBack pa => homeWriteBack s (pa / 512)
  | .targetFault pa how =>
    let rest := s.linkFaults.filter (fun b => b.1 != pa / 16)
    { s with linkFaults := match how with | some poison => (pa / 16, poison) :: rest | none => rest }
  | .l2Error pa => logLocated (poisonSector s (pa / 16)) none 3 (pa / 16 * 16) (homeDie s pa)
  | .sramCorrected die => logLocated { s with csram := countIn s.csram die } none 1 0 die
  | .syncError pa both => if both then poisonSector s (pa / 16) else logLocated s none 6 pa (homeDie s pa)
  | .localError uid addr =>
    modTeam s uid (fun t =>
      let ws := if (mobOf addr).isSome then [addr / 16 * 2, addr / 16 * 2 + 1] else [addr / 8]
      { t with lpoison := ws ++ t.lpoison.filter (fun p => !ws.contains p) })
  | .tileError uid tile sector =>
    let (a, s) := draw s
    let (b, s) := draw s
    modTeam s uid (fun t => if decide (1024 ≤ sector) || !(tileAt t tile).bound then t
      else mmaError { t with tiles := t.tiles.modify tile (fun x =>
        { x with cells := (x.cells.writeN (16 * sector) 8 a.toNat).writeN (16 * sector + 8) 8 b.toNat,
                 poison := sector :: x.poison.filter (fun p => p != sector) }) } tile sector)
  | .keptDrop ctx va => { s with kept := s.kept.filter (fun k => !(k.ctx == ctx && decide (k.va ≤ va) && decide (va < k.va + k.size))) }
  | .fetchDrop die site pa => modCore s die site (fun c => { c with icache := c.icache.filter (fun f => f.pa != pa / 16) })
  | _ => s

end Sys2Proof.Machine
end

