-- ==== Sys2Proof/Machine/Fetch.lean ====
section
/-! DEFINITION. Fetching the bytes of an instruction (spec 05 R147-R149, R164 steps 1-3, R166; 14 R355, R379; 16 R401), and the
faults of an instruction that cannot be fetched or decoded. -/
namespace Sys2Proof.Machine

/-- The code that the emulation thread of an I/O die runs (R395). -/
def emuCode (s : State) (iod : Nat) : List Byte := match emuImage s iod with | some p => p.code | none => []

/-- The sector that holds an address: the core's instruction-cache copy, or bytes read at their home and kept (R166). Window
bytes are never executed, whatever the core has kept of the address from before (R115). -/
def fetchSector (s : State) (t : Team) (x : Ctx) (va : Nat) : Except FaultInfo (List Byte × State) :=
  if (findWindow x.wd va).isSome then .error { code := .instructionFetch, data := va }
  else match (core s t.die t.site).icache.find? (fun i => i.ctx == x.id && i.va == va / 16) with
  | some i => .ok (i.bytes, s)
  | none =>
    if 2 ^ 56 ≤ va then .error { code := .instructionFetch, data := va }
    else
      match locate s x va .fetch with
      | .error i => .error i
      | .ok (.win _ _) => .error { code := .instructionFetch, data := va }
      | .ok (.mem pa _) =>
        if poisoned s (pa / 16 * 16) 16 then .error { code := .instructionFetch, detail := 8, data := va }
        else
          let bs := s.home.readList (pa / 16 * 16) 16
          .ok (bs, modCore s t.die t.site (fun c => { c with
            icache := { ctx := x.id, va := va / 16, pa := pa / 16, bytes := bs } :: c.icache }))

/-- n bytes of the instruction stream from an address; the fault names the first byte that cannot be fetched. -/
def fetchBytes (s : State) (t : Team) (x : Ctx) : Nat → Nat → Except FaultInfo (List Byte × State)
  | _, 0 => .ok ([], s)
  | va, n + 1 =>
    match t.role with
    | .patch iod =>
      let code := emuCode s iod
      if code.length < va + n + 1 then .error { code := .instructionFetch, data := va }
      else .ok ((code.drop va).take (n + 1), s)
    | _ =>
      match fetchSector s t x va with
      | .error i => .error i
      | .ok (bs, s) =>
        match fetchBytes s t x (va + 1) n with
        | .error i => .error i
        | .ok (rest, s) => .ok (bs.getD (va % 16) 0 :: rest, s)

/-- What a fetch comes to (R164 steps 1 to 3). -/
inductive Fetched
  | bytes (bs : List Byte)
  | fault (i : FaultInfo)
  | badLength

/-- The bytes of the instruction at an address: the first halfword, then the rest (R149). -/
def fetch (s : State) (t : Team) (x : Ctx) (pc : Nat) : Fetched × State :=
  match fetchBytes s t x pc 2 with
  | .error i => (.fault i, s)
  | .ok (h, s) =>
    match lengthOf (ofBytes h) with
    | none => (.badLength, s)
    | some n =>
      match fetchBytes s t x (pc + 2) (n - 2) with
      | .error i => (.fault i, s)
      | .ok (rest, s) => (.bytes (h ++ rest), s)

/-- The address of the instruction after the one at pc; pc itself where none can be fetched there. -/
def afterInstr (s : State) (t : Team) (x : Ctx) (pc : Nat) : Nat :=
  match fetch s t x pc with
  | (.bytes bs, _) => pc + bs.length
  | _ => pc

/-- Every thread of the issue group takes a fault of R164 steps 1 to 6. -/
def groupFault (s : State) (i : Cur → FaultInfo) : Host.Outcome State Fault Refusal :=
  withCur s (fun c => takeFault s c c.lanes (i c))

/-- R164 ILLEGAL_INSTRUCTION: steps 5 and 6, and the instructions that emulation code may not use (R394, R396). -/
def execIllegalInstruction (s : State) : Host.Outcome State Fault Refusal := groupFault s (fun _ => { code := .illegalInstruction })

/-- R147, R148 ILLEGAL_LENGTH: length code 0b11, or an odd address, which the record holds. -/
def execIllegalLength (s : State) : Host.Outcome State Fault Refusal :=
  groupFault s (fun c => { code := .illegalLength, datum2 := if c.pc % 2 == 1 then c.pc else 0 })

/-- R149 INSTRUCTION_FETCH_FAULT: the byte at the end of what was fetched could not be (its address is `next`). -/
def execInstructionFetchFault (detail : Nat) (s : State) : Host.Outcome State Fault Refusal :=
  groupFault s (fun c => { code := .instructionFetch, detail := detail, data := c.next })

end Sys2Proof.Machine
end

