-- ==== Sys2Proof/Machine/Crypto.lean ====
section
/-! DEFINITION. SHA-256 and ECDSA on curve P-256 as FIPS 180-4 and FIPS 186-5 define them (spec 15 R385, 18 R441-R444). -/
namespace Sys2Proof.Machine

/-! ## SHA-256 -/

/-- The integer part of the k-th root of n, for a root below 2^36, bit by bit from the top. -/
def rootBelow36 (k n : Nat) : Nat :=
  ((List.range 36).reverse).foldl (fun r i => if (r + 2 ^ i) ^ k ≤ n then r + 2 ^ i else r) 0

/-- The first 64 primes: those up to 311. -/
def primes64 : List Nat :=
  (List.range 312).filter (fun n => decide (2 ≤ n) && ((List.range n).drop 2).all (fun d => n % d != 0))

/-- The constants of the 64 rounds: the first 32 bits of the fractions of the primes' cube roots. -/
def roundWords : List Nat := primes64.map (fun p => rootBelow36 3 (p * 2 ^ 96) % 2 ^ 32)

/-- The hash value before the first block: the first 32 bits of the fractions of eight primes' square roots. -/
def hashStart : List Nat := (primes64.take 8).map (fun p => rootBelow36 2 (p * 2 ^ 64) % 2 ^ 32)

/-- The exclusive or of three rotations to the right of a word; a third amount from 100 on is a shift by the rest. -/
def sigmaOf (r : Nat × Nat × Nat) (x : Nat) : Nat :=
  let twice := x + x * 2 ^ 32
  let turn (n : Nat) : Nat := twice / 2 ^ n % 2 ^ 32
  Nat.xor (turn r.1) (Nat.xor (turn r.2.1) (if 100 ≤ r.2.2 then x / 2 ^ (r.2.2 - 100) else turn r.2.2))

/-- A block's 16 words continued by 48 more; the words are kept newest first. -/
def schedule (block : List Nat) : List Nat :=
  ((List.range 48).foldl (fun newest _ =>
    match newest.drop 1, newest.drop 6, newest.drop 14 with
    | two :: _, seven :: _, fifteen :: sixteen :: _ =>
      (sigmaOf (17, 19, 110) two + seven + sigmaOf (7, 18, 103) fifteen + sixteen) % 2 ^ 32 :: newest
    | _, _, _ => newest) block.reverse).reverse

/-- One round: the eight working words move on by one place, and two of them take a sum. -/
def roundOn (words : List Nat) (add : Nat) : List Nat :=
  match words with
  | [a, b, c, d, e, f, g, h] =>
    let pick := (List.range 32).foldl (fun r i => r + (if e.testBit i then f else g) / 2 ^ i % 2 * 2 ^ i) 0
    let vote := Nat.lor (Nat.land a b) (Nat.land c (Nat.lor a b))
    let t := h + pick + add + sigmaOf (6, 11, 25) e
    [(t + vote + sigmaOf (2, 13, 22) a) % 2 ^ 32, a, b, c, (d + t) % 2 ^ 32, e, f, g]
  | ws => ws

/-- The hash value after one more block. -/
def absorb (hash block : List Nat) : List Nat :=
  let adds := List.zipWith (· + ·) roundWords (schedule block)
  List.zipWith (fun x y => (x + y) % 2 ^ 32) hash (adds.foldl roundOn hash)

/-- Big-endian bytes of a number. -/
def beBytes (n x : Nat) : List Byte := (leBytes n x).reverse
/-- The number that big-endian bytes hold. -/
def ofBe (bs : List Byte) : Nat := ofBytes bs.reverse

/-- SHA-256 of some bytes, as a 256-bit number: the padded message is one long number of 512-bit blocks. -/
def sha256 (bs : List Byte) : Nat :=
  let blocks := (bs.length + 72) / 64
  let padded := (ofBe bs * 256 + 128) * 2 ^ (8 * (64 * blocks - bs.length - 1)) + 8 * bs.length
  let word (n : Nat) : Nat := padded / 2 ^ (32 * (16 * blocks - 1 - n)) % 2 ^ 32
  let hash := (List.range blocks).foldl (fun hash b => absorb hash ((List.range 16).map (fun i => word (16 * b + i)))) hashStart
  hash.foldl (fun x w => x * 2 ^ 32 + w) 0

/-! ## Curve P-256 -/

def ecP : Nat := 0xffffffff00000001000000000000000000000000ffffffffffffffffffffffff
def ecN : Nat := 0xffffffff00000000ffffffffffffffffbce6faada7179e84f3b9cac2fc632551
def ecB : Nat := 0x5ac635d8aa3a93e7b3ebbd55769886bc651d06b0cc53b0f63bce3c3e27d2604b
def ecG : Nat × Nat :=
  (0x6b17d1f2e12c4247f8bce6e563a440f277037d812deb33a0f4a13945d898c296,
   0x4fe342e2fe1a7f9b8ee7eb4a7c0f9e162bce33576b315ececbb6406837bf51f5)

/-- b^e mod m for an exponent of at most 256 bits. -/
def powMod (b e m : Nat) : Nat :=
  (List.range 256).foldl (fun (r : Nat) i => let q := r * r % m; if bit e (255 - i) then q * b % m else q) 1

/-- The inverse modulo a prime. -/
def invMod (x m : Nat) : Nat := powMod (x % m) (m - 2) m

/-- A point in Jacobian coordinates; z = 0 is the point at infinity. -/
structure Pt where
  x : Nat
  y : Nat
  z : Nat

def subP (a b : Nat) : Nat := (a + (ecP - b % ecP)) % ecP
def mulP (a b : Nat) : Nat := a * b % ecP

def ecDouble (p : Pt) : Pt :=
  if p.z == 0 || p.y == 0 then { x := 1, y := 1, z := 0 }
  else
    let zz := mulP p.z p.z
    let m := mulP 3 (mulP (subP p.x zz) ((p.x + zz) % ecP))
    let yy := mulP p.y p.y
    let s := mulP 4 (mulP p.x yy)
    let x := subP (mulP m m) (mulP 2 s)
    { x := x, y := subP (mulP m (subP s x)) (mulP 8 (mulP yy yy)), z := mulP 2 (mulP p.y p.z) }

def ecAdd (p q : Pt) : Pt :=
  if p.z == 0 then q
  else if q.z == 0 then p
  else
    let z1 := mulP p.z p.z
    let z2 := mulP q.z q.z
    let u1 := mulP p.x z2
    let u2 := mulP q.x z1
    let s1 := mulP p.y (mulP q.z z2)
    let s2 := mulP q.y (mulP p.z z1)
    if u1 == u2 then (if s1 == s2 then ecDouble p else { x := 1, y := 1, z := 0 })
    else
      let h := subP u2 u1
      let r := subP s2 s1
      let hh := mulP h h
      let hhh := mulP h hh
      let v := mulP u1 hh
      let x := subP (subP (mulP r r) hhh) (mulP 2 v)
      { x := x, y := subP (mulP r (subP v x)) (mulP s1 hhh), z := mulP h (mulP p.z q.z) }

/-- u·G + v·Q, the two multiples together. -/
def ecCombine (u v : Nat) (q : Pt) : Pt :=
  let g : Pt := { x := ecG.1, y := ecG.2, z := 1 }
  let gq := ecAdd g q
  (List.range 256).foldl (fun (r : Pt) i =>
    let d := ecDouble r
    match bit u (255 - i), bit v (255 - i) with
    | true, true => ecAdd d gq
    | true, false => ecAdd d g
    | false, true => ecAdd d q
    | false, false => d) { x := 1, y := 1, z := 0 }

/-- Whether a pair of coordinates is a point of the curve. -/
def onCurve (k : Nat × Nat) : Bool :=
  decide (k.1 < ecP) && decide (k.2 < ecP) && mulP k.2 k.2 == (mulP k.1 (mulP k.1 k.1) + (ecP - 3) * k.1 + ecB) % ecP

/-- Verification of a signature of 64 bytes, r and s big-endian (R385). -/
def ecdsaOk (key : Nat × Nat) (msg sig : List Byte) : Bool :=
  let r := ofBe (sig.take 32)
  let s := ofBe ((sig.drop 32).take 32)
  if r == 0 || decide (ecN ≤ r) || s == 0 || decide (ecN ≤ s) || !onCurve key then false
  else
    let e := sha256 msg
    let w := invMod s ecN
    let p := ecCombine (e * w % ecN) (r * w % ecN) { x := key.1, y := key.2, z := 1 }
    if p.z == 0 then false
    else
      let zi := invMod p.z ecP
      mulP p.x (mulP zi zi) % ecN == r

end Sys2Proof.Machine
end

