-- ==== Sys2Proof/Machine/Patch.lean ====
section
/-! DEFINITION. Coulter's images, their loading and switching, and emulation on the patch cores (spec 15 R382-R399); firmware,
the owner key and attestation (18 R441-R444). -/
namespace Sys2Proof.Machine

/-! ## Images -/

/-- The fields of an image header that the checks use (R383). -/
structure ImgHdr where
  magic : Nat
  fmt : Nat
  len : Nat
  id : Nat
  ver : Nat
  rp : Bool
  rfl' : Bool
  step : Nat
  nslot : Nat
  lvl : Nat
  clen : Nat
  dlen : Nat
  /-- all reserved fields are 0 -/
  clear : Bool
  deriving DecidableEq, Repr

def imgHdr (bs : List Byte) : ImgHdr :=
  let h := ofBytes (bs.take 64)
  { magic := bits h 31 0, fmt := bits h 63 32, len := bits h 127 64, id := bits h 159 128, ver := bits h 191 176, rp := bit h 192,
    rfl' := bit h 193, step := bits h 215 208, nslot := bits h 223 216, lvl := bits h 231 224, clen := bits h 287 256,
    dlen := bits h 319 288, clear := bits h 175 160 == 0 && bits h 207 194 == 0 && bits h 255 232 == 0 && bits h 511 320 == 0 }

/-- A slot record (R384) with the substitutes that it has. -/
def slotOf (r : Nat) : SlotRec :=
  { value := bits r 1023 960, mask := bits r 959 896, pclo := bits r 895 840, pchi := bits r 831 776, ctx := bits r 767 752,
    entry := bits r 751 720, fcode := bits r 719 712, tnum := bits r 711 704, pid := bits r 703 688, prio := bits r 687 684,
    act := bits r 683 682, fp := bit r 681, pcen := bit r 680, ctxen := bit r 679, forms := bits r 678 675, nsub := bits r 674 672,
    subs := (List.range (bits r 674 672)).map (fun k => bits r (128 * k + 127) (128 * k)) }

/-- Opcodes that no substitute may have (R392). -/
def subBarred (op : Nat) : Bool :=
  op == 0x01 || (decide (0x04 ≤ op) && decide (op ≤ 0x0C)) || op == 0x0F || op == 0x10 || (decide (0x14 ≤ op) && decide (op ≤ 0x16))
  || op == 0x1B || (decide (0x77 ≤ op) && decide (op ≤ 0x8B)) || (decide (0xB8 ≤ op) && decide (op ≤ 0xBB)) || op == 0xEF

/-- Opcodes of substitutes before the last (R392). -/
def subEarly (op : Nat) : Bool :=
  op == 0 || (decide (0x20 ≤ op) && decide (op ≤ 0x4D)) || (decide (0x51 ≤ op) && decide (op ≤ 0x76))

/-- The rules of R392 on a substitute. -/
def subOk (u : Nat) (last : Bool) : Bool :=
  let op := bits u 10 3
  bits u 127 124 == 0 && bits u 108 96 == 0 && decide (bits u 123 121 ≤ 4) && decide (bits u 120 118 ≤ 4)
  && decide (bits u 117 115 ≤ 4) && decide (bits u 114 112 ≤ 4) && (bits u 2 0 == 3 || bits u 2 0 == 5) && bits u 18 11 == 0
  && (ofOpcode op).isSome && !subBarred op && (last || subEarly op)

/-- The checks of status 2 on a slot record (R384, R385). -/
def slotRecOk (clen r : Nat) : Bool :=
  let x := slotOf r
  bits r 839 832 == 0 && bits r 775 768 == 0 && bits r 671 512 == 0 && x.act != 3 && x.forms != 0
  && (x.act != 2 || (decide (x.entry < clen) && x.entry % 2 == 0))
  && !(x.fp && x.act == 1 && [0x01, 0x02, 0x20].contains x.fcode)
  && (if x.act == 1 then decide (1 ≤ x.nsub) && decide (x.nsub ≤ 4) else x.nsub == 0)
  && (x.act != 1 || (List.range x.nsub).all (fun k => subOk (x.subs.getD k 0) (k + 1 == x.nsub)))

def mailboxSize : Nat := 2 ^ 22

/-- The image that stands in the mailbox, as long as its header says (R386, R408). -/
def mailboxImage (s : State) : List Byte :=
  let n := (imgHdr (s.regs.mailbox.readList 0 64)).len
  s.regs.mailbox.readList 0 (min n mailboxSize)

def slotRecord (bs : List Byte) (n : Nat) : Nat := ofBytes ((bs.drop (64 + 128 * n)).take 128)

/-- The checks of status 2 (R385); for a firmware image those of R441. -/
def imageOk (bs : List Byte) (fmt : Nat) : Bool :=
  let h := imgHdr bs
  let common := h.magic == 0x31465043 && h.fmt == fmt && h.clear && h.id != 0 && h.dlen % 16 == 0 && h.clen % 16 == 0
    && h.len == 64 + 128 * h.nslot + h.clen + h.dlen + 128 && decide (h.len ≤ mailboxSize)
  if fmt == 2 then common && h.nslot == 0 && h.clen == 0 && h.lvl == 0 && !h.rp
  else common && decide (1 ≤ h.nslot) && decide (h.nslot ≤ 16) && h.lvl != 0
    && (List.range h.nslot).all (fun n => slotRecOk h.clen (slotRecord bs n))

/-- A public key of 64 bytes: x, then y, big-endian (R444). -/
def keyOf (bs : List Byte) : Nat × Nat := (ofBe (bs.take 32), ofBe ((bs.drop 32).take 32))

/-- The version floor of an image id (R385). -/
def floorOf (s : State) (id : Nat) : Nat :=
  match s.regs.floors.find? (fun f => f.1 == id) with
  | some f => f.2
  | none => 0

/-- The checks of R385 in their order: 0, or the status of the first that fails. The stepping is A0. -/
def imageStatus (s : State) (bs : List Byte) (fmt : Nat) : Nat :=
  let h := imgHdr bs
  let body := bs.take (h.len - 128)
  let sig := bs.drop (h.len - 128)
  if !imageOk bs fmt then 2
  else if !ecdsaOk Config.birradKey body (sig.take 64) then 3
  else if (match s.regs.ownerKey with
      | some k => !ecdsaOk (keyOf k) (body ++ sig.take 64) (sig.drop 64)
      | none => false) then 4
  else if h.ver < floorOf s h.id then 5
  else if h.step != 0 then 6
  else 0

def patchOf (bs : List Byte) : Patch :=
  let h := imgHdr bs
  let code := 64 + 128 * h.nslot
  { id := h.id, ver := h.ver, rp := h.rp, lvl := h.lvl, slots := (List.range h.nslot).map (fun n => slotOf (slotRecord bs n)),
    code := (bs.drop code).take h.clen, data := (bs.drop (code + h.clen)).take h.dlen, bytes := bs }

/-- A load that succeeds with rfl = 1 raises the floor of its id (R385). -/
def raiseFloor (s : State) (bs : List Byte) : State :=
  let h := imgHdr bs
  if h.rfl' then { s with regs := { s.regs with floors := insertBy (fun a b => decide (a.1 ≤ b.1)) (h.id, h.ver) (s.regs.floors.filter (fun f => f.1 != h.id)) } }
  else s

/-! ## Commands and the switch -/

/-- A command register: its status field, and go, which reads 1 while the status is `busy`. -/
def setCmd (s : State) (off go hi lo busy st : Nat) : State :=
  ctlSet s off (setBits (setBits (ctlGet s off) hi lo st) go go (b2n (st == busy)))

/-- The patch command register (R386). -/
def patchStatus (s : State) : Nat := bits (ctlGet s 0x500000) 30 27
def setPatchStatus (s : State) (st : Nat) : State := setCmd s 0x500000 31 30 27 1 st

/-- Whether every core of the compute dies runs under the configuration in force (R387). -/
def switched (s : State) : Bool := (s.cores.filter (fun c => decide (c.die < 8))).all (fun c => c.patchGen == s.patchGen)

/-- A configuration under which something that began still finishes (R387): a core runs under it, a request for emulation or
a thread whose action waits stands under it, or an instruction decoded under it may still take a fault. -/
def usesCfg (s : State) (gen : Nat) : Bool :=
  s.cores.any (fun c => decide (c.die < 8) && c.patchGen == gen) || s.emuQ.any (fun r => r.gen == gen)
  || s.teams.any (fun t => t.groups.any (fun g => g.threads.any (fun th =>
      (match th.slot with | some q => q.1 == gen | none => false)
      || (match th.status with | .heldLane _ _ _ _ => th.gen == gen | .heldWindow _ _ _ _ => th.gen == gen | _ => false))))
  || s.syncQ.any (fun i => i.cur.gen == gen)
  || s.outReqs.any (fun r => (match r.cur with | some c => c.gen == gen | none => false)
      || (match r.atomic with | some i => i.cur.gen == gen | none => false))
  || s.launchQ.any (fun r => match r.cur with | some c => c.gen == gen | none => false)

/-- The command ends when every core has switched; configurations that nothing uses are gone. -/
def settle (s : State) : State :=
  let s := if patchStatus s == 1 && switched s then setPatchStatus s 0 else s
  { s with patchCfgs := s.patchCfgs.filter (fun p => usesCfg s p.gen) }

/-- An accepted load, unload or op 2: a new configuration that each core takes as a switch (R386, R387). -/
def newConfig (s : State) (image : Option Patch) (en : Nat) : State :=
  let old : PatchCfg := { gen := s.patchGen, image := s.patch, en := s.regs.patchEn }
  settle (setPatchStatus
    { s with patch := image, patchGen := s.patchGen + 1, patchCfgs := old :: s.patchCfgs,
             regs := { s.regs with patchEn := BitVec.ofNat 16 en } } 1)

/-- A patch command with its op (R386). -/
def patchCommand (s : State) (word op : Nat) : State :=
  let s := ctlSet s 0x500000 (setBits (setBits (ctlGet s 0x500000) 47 32 (bits word 47 32)) 17 16 op)
  if patchStatus s == 1 then s
  else
    match op with
    | 0 =>
      let bs := mailboxImage s
      let st := imageStatus s bs 1
      if st != 0 then setPatchStatus s st
      else newConfig (raiseFloor s bs) (some (patchOf bs)) (ones (imgHdr bs).nslot)
    | 1 => newConfig s none 0
    | 2 =>
      (match s.patch with
       | none => setPatchStatus s 7
       | some p => newConfig s (some p) (Nat.land (bits word 47 32) (ones p.slots.length)))
    | _ => setPatchStatus s 7

/-- R386 PATCH_LOAD. -/
def execPatchLoad (word : Word) (s : State) : Host.Outcome State Fault Refusal := .next (patchCommand s word.toNat 0)
/-- R386 PATCH_UNLOAD. -/
def execPatchUnload (word : Word) (s : State) : Host.Outcome State Fault Refusal := .next (patchCommand s word.toNat 1)
/-- R386 PATCH_SET_ENABLES. -/
def execPatchSetEnables (word : Word) (s : State) : Host.Outcome State Fault Refusal := .next (patchCommand s word.toNat 2)

/-- R387 PATCH_SWITCH: a core takes the configuration in force. -/
def execPatchSwitch (core : Nat) (s : State) : Host.Outcome State Fault Refusal :=
  let mine (c : Core) : Bool := c.die == coreDie core && c.site == coreSite core && decide (c.die < 8)
  .next (settle { s with cores := updIf mine (fun c => { c with patchGen := s.patchGen }) s.cores })

/-! ## Emulation (R394-R396) -/

/-- The container of the emulation thread of an I/O die. -/
def emuUid (iod : Nat) : Nat := 256 + iod

/-- The request area of R394. -/
def emuArea (s : State) (r : EmuReq) : Mem :=
  let fieldV (t : Team) (g : Group) (l lo : Nat) : Nat :=
    let n := bits r.d (lo + 7) lo
    if n < r.f then readV t g l n else 0
  let m : Mem := Mem.writeList [] 0 (leBytes 8 r.d ++ leBytes 4 r.lit ++ leBytes 4 (laneMask r.lanes) ++ leBytes 8 r.pc ++ leBytes 2 r.ctx ++ leBytes 2 r.pid)
  match team? s r.w.uid, group? s r.w with
  | some t, some g =>
    r.lanes.foldl (fun (m : Mem) l =>
      let m := m.writeList (0x100 + 32 * l) ([19, 27, 35, 43].flatMap (fun lo => leBytes 8 (fieldV t g l lo)))
      match g.threads[l]? with
      | some th => m.writeN (0x500 + 4 * l) 4 (b2n true ||| th.p.toNat ||| th.nf.toNat * 2 ^ 16)
      | none => m) m
  | _, _ => m

/-- EMULATION_START: the next request of an I/O die in the order of arrival; all the patch core's state is 0 but the request, and
nothing is kept of the request before (R395). -/
def emuStart (s : State) (iod : Nat) : Option State :=
  if s.emuQ.any (fun r => r.iod == iod && r.running) then none
  else
    match s.emuQ.find? (fun r => r.iod == iod) with
    | none => none
    | some r =>
      let (acc, cix, k) := match team? s r.w.uid with | some t => (t.acc, t.cix, t.k) | none => (0, 0, 0)
      let t : Team :=
        { soloTeam (emuUid iod) (.patch iod) r.ctx (8 + iod) 16 64 0x2000 with
          acc := acc, cix := cix, k := k, rank := 32 * r.w.group + r.lanes.headD 0, lmem := emuArea s r,
          groups := [{ groupStart 0 [threadStart r.entry 0] 0 0 with started := true, argsRead := true }] }
      let s := detachEmu s iod
      some { dropClean s (8 + iod) 16 with
        teams := s.teams.filter (fun t => t.uid != emuUid iod) ++ [t],
        emuQ := updIf (fun q => q == r) (fun q => { q with running := true }) s.emuQ }

/-- The issue group of a request, past the fault path. -/
def emuCur (r : EmuReq) : Cur :=
  { w := r.w, lanes := r.lanes, pc := r.pc, next := r.next, dword := r.d, lit := r.lit, form := 0, noPatch := true, noG := false }

/-- What a requesting lane takes from the result (R394). -/
def emuLane (m : Mem) (r : EmuReq) (s : State) (l : Nat) : State :=
  let flags := m.readN 0x600 4
  let d := bits r.d 26 19
  let v := m.readN (0x700 + 16 * l) 8
  let ps := m.readN (0x708 + 16 * l) 4
  let s := if bit flags 16 && decide (d < r.f) then writeV s r.w l d v else s
  let pm := m.readN 0x608 1
  modThread s r.w l (fun th =>
    let th := if bit flags 17 then
        ((List.range 7).map (· + 1)).foldl (fun (th : Thread) i => if bit pm i then setPred i (bit ps i) th else th) th
      else th
    orNf (bits ps 24 16) th)

/-- EMULATION_RESULT: at the EXIT of the emulation thread its requesters go on together, or fault. -/
def emuResult (s : State) (iod : Nat) : Option State :=
  match s.emuQ.find? (fun r => r.iod == iod && r.running), team? s (emuUid iod) with
  | some r, some t =>
    if !teamEnded t then none
    else
      let s := detachEmu { s with emuQ := s.emuQ.filter (fun q => !(q.iod == iod && q.running)), teams := s.teams.filter (fun u => u.uid != emuUid iod) } iod
      let how := t.lmem.readN 0x600 1
      some (settle (
        if how == 0 then
          let s := r.lanes.foldl (emuLane t.lmem r) s
          let s := match team? s r.w.uid with | some u => acquire s u 5 | none => s
          goto s r.w r.lanes r.next
        else
          let code := if how == 1 then (faultOfNum (t.lmem.readN 0x601 1)).getD .illegalInstruction else .illegalInstruction
          deliver s (emuCur r) r.lanes { code := code }))
  | _, _ => none

/-- R395 EMULATION_START. -/
def execEmulationStart (iod : Nat) (s : State) : Host.Outcome State Fault Refusal := orStay s (emuStart s iod)
/-- R394 EMULATION_RESULT. -/
def execEmulationResult (iod : Nat) (s : State) : Host.Outcome State Fault Refusal := orStay s (emuResult s iod)
/-- R396 EMULATION_TIMEOUT: 65,536 clk without EXIT. -/
def execEmulationTimeout (iod : Nat) (s : State) : Host.Outcome State Fault Refusal :=
  .next (settle (emuTrouble s iod { code := .illegalInstruction }))

/-! ## Firmware (R441, R442) -/

def setFirmwareStatus (s : State) (st : Nat) : State := setCmd s 0x500100 31 30 27 1 st

/-- Units of each target (R441). -/
def unitCount (target : Nat) : Nat :=
  match target with
  | 0 | 1 => 256
  | 2 | 3 => 16
  | 4 => 2
  | 5 => 10
  | _ => 0

/-- The HBM stack of an address, of 16, two on its home die (R1, R91; log 7: which of the two is the free part). -/
def stackOf (s : State) (pa : Nat) : Nat := 2 * homeDie s pa + Config.hbmStack pa % 2

/-- A repair in progress on the HBM stack that holds the repaired address (R440). -/
def repairBusy (s : State) (stack : Nat) : Bool :=
  bits (ctlGet s 0x400C00) 62 61 == 1 && stackOf s (ctlGet s 0x400C08) == stack

/-- The unit is busy, or its port is in service (R442). -/
def unitBusy (s : State) (target unit : Nat) : Bool :=
  match target with
  | 0 => patchStatus s == 1
  | 2 => repairBusy s unit
  | 3 => (match s.regs.ports[unit]? with | some p => !p.dis | none => true)
  | _ => false

/-- Active images with one more in place of its unit's. -/
def putFirmware (fs : List Firmware) (f : Firmware) : List Firmware :=
  f :: fs.filter (fun g => !(g.target == f.target && g.unit == f.unit))

/-- A staged image is activated; a PCIe PHY's takes effect at its port's next link reset (R442). Targets 0 and 1 have one image,
whatever the unit field holds: R441 names no unit for them (log 12). -/
def activate (s : State) (f : Firmware) : State :=
  let f := if f.target < 2 then { f with unit := 0 } else f
  if f.target == 4 then { s with staged := none, portFirmware := putFirmware s.portFirmware f }
  else { s with staged := none, firmware := putFirmware s.firmware f }

/-- A firmware command with its act bit (R441): the rest of the activation is timing (R442). -/
def firmwareCommand (s : State) (word : Nat) (act : Bool) : State :=
  let s := ctlSet s 0x500100 (setBits (setBits (setBits (ctlGet s 0x500100) 47 40 (bits word 47 40)) 39 36 (bits word 39 36)) 0 0 (b2n act))
  let target := bits word 39 36
  let unit := bits word 47 40
  if unitCount target ≤ unit then setFirmwareStatus s 7
  else if !act then
    let bs := mailboxImage s
    let st := imageStatus s bs 2
    if st != 0 then setFirmwareStatus s st
    else setFirmwareStatus { raiseFloor s bs with staged := some { target := target, unit := unit, image := bs } } 0
  else
    match s.staged with
    | none => setFirmwareStatus s 7
    | some f =>
      if f.target != target || f.unit != unit || unitBusy s target unit then setFirmwareStatus s 7
      else setFirmwareStatus (activate s f) 0

/-- R441 FIRMWARE_STAGE. -/
def execFirmwareStage (word : Word) (s : State) : Host.Outcome State Fault Refusal := .next (firmwareCommand s word.toNat false)
/-- R442 FIRMWARE_ACTIVATE. -/
def execFirmwareActivate (word : Word) (s : State) : Host.Outcome State Fault Refusal := .next (firmwareCommand s word.toNat true)

/-! ## The owner key and attestation (R443, R444) -/

/-- The key bytes that stand in the registers at 0x500200. -/
def keyRegs (s : State) : List Byte := (List.range 8).flatMap (fun i => leBytes 8 (ctlGet s (0x500200 + 8 * i)))

/-- The nonce changes after every owner command. -/
def newNonce (s : State) : State :=
  let (n, s) := draw s
  { s with regs := { s.regs with nonce := if n == s.regs.nonce then n + 1 else n } }

/-- The status of an owner command: 2 off the curve, 3 not authorised, 0 done. -/
def ownerStatus (s : State) (op : Nat) (key : List Byte) : Nat :=
  if op == 0 && !onCurve (keyOf key) then 2
  else if 2 ≤ op then 3
  else
    match s.regs.ownerKey with
    | none => 0
    | some k =>
      let msg := [BitVec.ofNat 8 op] ++ key ++ beBytes 16 Config.deviceSerial ++ leBytes 8 s.regs.nonce.toNat
      if ecdsaOk (keyOf k) msg (s.regs.mailbox.readList 0 64) then 0 else 3

def ownerCommand (s : State) (op : Nat) : State :=
  let s := ctlSet s 0x500240 (setBits (ctlGet s 0x500240) 1 0 op)
  let key := if op == 0 then keyRegs s else List.replicate 64 0
  let st := ownerStatus s op key
  let s := if st != 0 then s else { s with regs := { s.regs with ownerKey := if op == 0 then some key else none } }
  newNonce (setCmd s 0x500240 31 30 28 1 st)

/-- R444 OWNER_KEY_SET. -/
def execOwnerKeySet (_ : Word) (s : State) : Host.Outcome State Fault Refusal := .next (ownerCommand s 0)
/-- R444 OWNER_KEY_CLEAR. -/
def execOwnerKeyClear (_ : Word) (s : State) : Host.Outcome State Fault Refusal := .next (ownerCommand s 1)

/-- The active image of a unit: the one that was activated last, never a staged one, or the one it is made with (R443). -/
def activeImage (s : State) (target unit : Nat) : List Byte :=
  match s.firmware.find? (fun f => f.target == target && f.unit == unit) with
  | some f => f.image
  | none => Config.factoryImage target unit

/-- The active images of a target, one after another in the order of its units (log 12). -/
def activeImages (s : State) (target : Nat) : List Byte :=
  (List.range (if target < 2 then 1 else unitCount target)).flatMap (activeImage s target)

/-- The measurement at an index (R443): SHA-256 of what it measures. -/
def measurement (s : State) (index : Nat) : List Byte :=
  match index with
  | 1 => beBytes 32 (sha256 (activeImages s 0))
  | 2 => beBytes 32 (sha256 (activeImages s 1))
  | 3 => beBytes 32 (sha256 (activeImages s 2))
  | 4 => beBytes 32 (sha256 (activeImages s 3))
  | 5 => (match s.patch with | some p => beBytes 32 (sha256 p.bytes) | none => List.replicate 32 0)
  | 6 => (match s.regs.ownerKey with | some k => beBytes 32 (sha256 k) | none => List.replicate 32 0)
  | 7 => beBytes 32 (sha256 (s.regs.floors.flatMap (fun f => leBytes 4 f.1 ++ leBytes 2 f.2)))
  | 8 => beBytes 32 (sha256 (activeImages s 5))
  | _ => []

/-- R443 SPDM_REQUEST: an answer over the DOE of IO0's port. A measurement is followed by its signature under the identity key,
which no one outside the controller holds; another index asks for what the controller serves besides, the certificate chain
among it (log 12). -/
def execSpdmRequest (index : Nat) (s : State) : Host.Outcome State Fault Refusal :=
  let m := measurement s index
  let data := if 1 ≤ index && index ≤ 8 then m ++ Config.identitySign s.fresh m else Config.spdmAnswer index
  .next { s with fresh := s.fresh + 1, responses := s.responses ++ [{ port := 16, kind := 5, data := data, status := 0 }] }

end Sys2Proof.Machine
end

