-- ==== Sys2Proof/Machine/Queues.lean ====
section
/-! DEFINITION. Headland queues (spec 13 R331-R339): their records, starting and stopping, the membership registers of headland
barriers; the site map (R344, R345). -/
namespace Sys2Proof.Machine

/-- A queue is at rest: its pc and ctx can be written (R332). -/
def atRest (r : QueueRec) : Bool := r.state == 0 || r.state == 4 || r.state == 5

def queueWhere (q : Nat) : Where := { uid := q, group := 0 }
def queueDie (q : Nat) : Nat := 8 + q / 128
def queueSite (q : Nat) : Nat := q / 8 % 16

/-- The container of a queue's registers and scratchpad: all 0 until it first runs (R331). -/
def ensureQueue (s : State) (q : Nat) : State :=
  match team? s q with
  | some _ => s
  | none => { s with teams := s.teams ++ [soloTeam q (.queue q) (queueRec s q).ctx.toNat (queueDie q) (queueSite q) 64 4096] }

/-- The first fetch of a started queue stands behind a discard of the context's code copies and an acquire (R333). -/
def freshView (s : State) (die site ctx : Nat) : State :=
  dropClean (modCore s die site (fun c => { c with icache := c.icache.filter (fun i => i.ctx != ctx) })) die site

/-- A stopped second half of a barrier wait stays one: an arrival already made stays counted (R333, R241). -/
def restartStatus (st : Status) : Status :=
  match st with
  | .waiting (.barrier n) => .waiting (.barrier n)
  | _ => .running

/-- run written 1 (R333). Where ctx names no live context the row gives no run: it reads 0, as after any fault of a queue (the
model's choice, log 28). -/
def queueStart (s : State) (q : Nat) : State :=
  let r := queueRec s q
  if !(r.state == 0 || r.state == 5) || r.flt then modQueue s q (fun r => { r with run := true })
  else
    match ctx? s r.ctx.toNat with
    | none =>
      let s := modQueue s q (fun r => { r with state := 4, flt := true, run := false, fcode := 0x02, fpc := r.pc })
      emit s (8 + q / 128) 5 r.ctx.toNat 0 0 (q + 0x02 * 2 ^ 8)
    | some x =>
      let s := freshView (ensureQueue s q) (queueDie q) (queueSite q) x.id
      let s := modTeam s q (fun t => { t with ctx := x.id })
      let s := modThread s (queueWhere q) 0 (fun th => { th with pc := BitVec.ofNat 64 r.pc.toNat, status := restartStatus th.status, watch := none })
      modQueue s q (fun r => { r with state := 1, run := true })

/-- The pc at which a queue stands. -/
def queuePc (s : State) (q : Nat) : Nat :=
  match thread? s (queueWhere q) 0 with
  | some th => th.pc.toNat
  | none => (queueRec s q).pc.toNat

/-- run written 0: the queue stops at its next instruction boundary (R333). -/
def queueHalt (s : State) (q : Nat) : State :=
  let r := queueRec s q
  if r.state == 1 || r.state == 2 || r.state == 3 then
    let pc := queuePc s q
    let s := modGroup s (queueWhere q) (fun g => { g with stopped := false, parked := none, also := [] })
    let s := modThread s (queueWhere q) 0 (fun th => { th with status := restartStatus th.status, watch := none })
    modQueue s q (fun r => { r with state := 0, run := false, pc := BitVec.ofNat 56 pc })
  else modQueue s q (fun r => { r with run := false })

/-- flt written 1 (R332). -/
def queueClear (s : State) (q : Nat) : State :=
  modQueue s q (fun r => { r with flt := false, state := if r.state == 4 then 0 else r.state })

/-- pc written (R332); a rewritten pc abandons a half-done BSYNC. -/
def queueSetPc (s : State) (q pc : Nat) : State :=
  if !atRest (queueRec s q) then s
  else
    modThread (modQueue s q (fun r => { r with pc := BitVec.ofNat 56 pc })) (queueWhere q) 0 (fun th =>
      { th with status := if th.status == .ended then .ended else .running, slot := none })

/-- ctx written (R332). -/
def queueSetCtx (s : State) (q ctx : Nat) : State :=
  if !atRest (queueRec s q) then s else modQueue s q (fun r => { r with ctx := BitVec.ofNat 16 ctx })

/-- Words of a queue record as they read (R332). -/
def queueWord (s : State) (q i : Nat) : Nat :=
  let r := queueRec s q
  match i with
  | 0 => r.prio.toNat + b2n r.flt * 2 ^ 6 + b2n r.run * 2 ^ 7 + r.state * 2 ^ 8 + r.ctx.toNat * 2 ^ 48
  | 1 => (if atRest r then r.pc.toNat else queuePc s q % 2 ^ 56) * 2 ^ 8
  | 2 => r.fpc.toNat * 2 ^ 8
  | 3 => r.fcode.toNat * 2 ^ 8
  | _ => 0

/-- A write to word i of a queue record: `old` and `new` are the word before and after, `mask` its written bits. -/
def queueWrite (s : State) (q i new mask : Nat) (ctxOk : Nat → Bool) : State :=
  let has (b : Nat) : Bool := bit mask b
  match i with
  | 0 =>
    let s := if has 0 then modQueue s q (fun r => { r with prio := BitVec.ofNat 3 new }) else s
    let s := if has 48 && ctxOk (bits new 63 48) then queueSetCtx s q (bits new 63 48) else s
    let s := if has 6 && bit new 6 then queueClear s q else s
    if !has 7 then s
    else if bit new 7 == (queueRec s q).run && !(bit new 7 && atRest (queueRec s q)) then s
    else if bit new 7 then queueStart s q else queueHalt s q
  | 1 => queueSetPc s q (new / 2 ^ 8)
  | _ => s

/-- R333 QUEUE_RUN. -/
def execQueueRun (q : Nat) (s : State) : Host.Outcome State Fault Refusal := .next (if q < 256 then queueStart s q else s)
/-- R333 QUEUE_STOP. -/
def execQueueStop (q : Nat) (s : State) : Host.Outcome State Fault Refusal := .next (if q < 256 then queueHalt s q else s)
/-- R332 QUEUE_FAULT_CLEAR. -/
def execQueueFaultClear (q : Nat) (s : State) : Host.Outcome State Fault Refusal := .next (if q < 256 then queueClear s q else s)

/-! ## Headland barriers -/

/-- A barrier of a headland core starts afresh (R337): no slot has arrived in its new phase, and a slot whose earlier arrival has
not been waited on waits for the next phase to complete, as one that waits already does. -/
def membershipReset (s : State) (coreNo n : Nat) : State :=
  let mine (t : Team) : Bool := match t.role with | .queue q => q / 8 == coreNo | _ => false
  let fresh (th : Thread) : Thread :=
    if th.status == .waiting (.barrier n) || !bit th.arr.toNat n then th
    else { th with arr := BitVec.ofNat 28 (setBits th.arr.toNat n n 0), voided := BitVec.ofNat 28 (setBits th.voided.toNat n n 1) }
  { s with
    teams := updIf mine (fun t => { t with groups := t.groups.map (fun g => { g with threads := g.threads.map fresh }) }) s.teams,
    hlbars := (16 * coreNo + n, { hlBarrier s coreNo n with count := 0, flags := 0, result := 0 }) :: s.hlbars.filter (fun b => b.1 != 16 * coreNo + n) }

/-- A byte of a membership register written: the barrier starts afresh (R337). -/
def membershipWrite (s : State) (coreNo n value : Nat) : State :=
  let off := 0x110000 + 16 * coreNo + 8 * (n / 8)
  let lo := 8 * (n % 8)
  membershipReset (ctlSet s off (setBits (ctlGet s off) (lo + 7) lo value)) coreNo n

/-- R337 HEADLAND_MEMBERSHIP_WRITE. -/
def execHeadlandMembershipWrite (core n : Nat) (value : Byte) (s : State) : Host.Outcome State Fault Refusal :=
  .next (if core < 32 && n < 16 then membershipWrite s core n value.toNat else s)

/-! ## The site map -/

/-- The swap command of a die (R345): phys fields exchanged, and an event of kind 6. -/
def swapSites (s : State) (die word : Nat) : State :=
  let off := 0x200000 + 0x1000 * die + 0x200
  let a := bits word 7 0
  let b := bits word 15 8
  let s := ctlSet s off (setBits (ctlGet s off) 15 0 (bits word 15 0))
  let done (s : State) (st : Nat) : State := setCmd s off 16 31 30 3 st
  if 168 ≤ a || 168 ≤ b || a == b then done s 2
  else if !(residents s die a).isEmpty || !(residents s die b).isEmpty then done s 1
  else
    let pa := physOf s die a
    let pb := physOf s die b
    let rest := s.regs.phys.filter (fun p => !(p.1 == die && (p.2.1 == a || p.2.1 == b)))
    let add (l p : Nat) (xs : List (Nat × Nat × Nat)) : List (Nat × Nat × Nat) := if p == l then xs else (die, l, p) :: xs
    emit (done { s with regs := { s.regs with phys := add a pb (add b pa rest) } } 0) die 6 0 0 0 (a + b * 2 ^ 8)

/-- R345 SITE_SWAP. -/
def execSiteSwap (die : Nat) (word : Word) (s : State) : Host.Outcome State Fault Refusal :=
  .next (if die < 8 then swapSites s die word.toNat else s)

/-- avail of a logical site written (R344). -/
def setAvail (s : State) (die site : Nat) (on : Bool) : State :=
  let rest := s.regs.unavail.filter (fun u => u != (die, site))
  { s with regs := { s.regs with unavail := if on then rest else (die, site) :: rest } }

end Sys2Proof.Machine
end

