-- ==== Sys2Proof/Machine/Contexts.lean ====
section
/-! DEFINITION. Contexts created and destroyed (spec 14 R361, R362), actions on stopped groups (R367), shootdowns (R357-R359) and
the commit of region interleaves (R360). -/
namespace Sys2Proof.Machine

/-! ## Contexts -/

/-- The context that a descriptor describes, when it is valid (R361). -/
def ctxOfDesc (id d : Nat) : Option Ctx :=
  let word (i : Nat) : Nat := bits d (64 * i + 63) (64 * i)
  let part := bits (word 0) 7 0
  let fqlen := bits (word 4) 31 0
  let ellen := bits (word 7) 31 0
  let ringOk (n : Nat) : Bool := isPow2 n && decide (16 ≤ n) && decide (n ≤ 2 ^ 20)
  let clear := bits (word 0) 61 56 == 0 && bits (word 0) 11 8 == 0 && bits (word 1) 63 56 == 0 && bits (word 3) 63 56 == 0
    && bits (word 4) 63 32 == 0 && bits (word 6) 63 56 == 0 && bits (word 7) 63 32 == 0 && bits d 2047 576 == 0
  if !bit (word 0) 63 || part == 0 || !clear || !ringOk fqlen || !ringOk ellen || word 3 % 64 != 0 || word 6 % 32 != 0 then none
  else some
    { id := id, det := bit (word 0) 62, ptroot := bits (word 0) 55 12 * 4096, part := BitVec.ofNat 8 part, cotbase := bits (word 1) 55 0,
      cotn := bits (word 2) 31 0, wdog := bits (word 2) 63 32, fqbase := bits (word 3) 55 0, fqlen := fqlen,
      fqwr := BitVec.ofNat 32 (word 5), elbase := bits (word 6) 55 0, ellen := ellen, elwr := BitVec.ofNat 32 (word 8),
      fd := fdPresets, wd := List.replicate 16 0, srk := 0, srw := 0, thand := 0, nextAcc := 0, kernels := [], steppings := [], launches := [],
      grids := [], tags := [], claims := [], fqPend := [], prevDie := 8, aside := [] }

/-- The context-command register (R362). -/
def setCtxStatus (s : State) (st : Nat) : State := setCmd s 0x400010 31 30 28 1 st

def storeCtxCmd (s : State) (word op : Nat) : State :=
  ctlSet s 0x400010 (setBits (setBits (ctlGet s 0x400010) 15 0 (bits word 15 0)) 17 16 op)

/-- Create (R362): the descriptor is read, and the context is live. A package that the thermal governor has shut down needs a
reset first and refuses (R446, log 28). -/
def createCtx (s : State) (word : Nat) : State :=
  let s := storeCtxCmd s word 0
  let id := bits word 15 0
  let at' := ctxDesc s id
  if s.shut || (ctx? s id).isSome || bits (ctlGet s 0x400008) 16 0 ≤ id || !inHbm (at' + 255) || poisoned s at' 256 then setCtxStatus s 2
  else
    match ctxOfDesc id (s.home.readN at' 256) with
    | none => setCtxStatus s 2
    | some c => setCtxStatus { s with ctxs := s.ctxs ++ [c] } 0

/-- Stores of a context that are not yet performed are performed or not: nothing says which (R362, log 7). -/
def dropStores (s : State) (c : Core) (id : Nat) : State :=
  let sids := ((c.dirty.filter (fun d => d.w.ctx == id)).map (·.sid)).eraseDups
  sids.foldl (fun s sid =>
    let (x, s) := draw s
    if bit x.toNat 0 then performWhere s c.die c.site (fun d => d.sid == sid && d.w.ctx == id)
    else modCore s c.die c.site (fun k => { k with dirty := k.dirty.filter (fun d => !(d.sid == sid && d.w.ctx == id)) })) s

/-- A queue of a context that ends: its registers stay, its operations do not (R331, R362); nor do the arrivals that its core's
barriers have counted (R333, R337). -/
def endQueue (s : State) (q : Nat) : State :=
  let pc := queuePc s q
  let s := if atRest (queueRec s q) then s else modQueue s q (fun r => { r with pc := BitVec.ofNat 56 pc })
  let s := modGroup s (queueWhere q) (fun g => { g with
    stopped := false, parked := none, also := [], ops := [],
    threads := g.threads.map (fun th => { th with status := .running, watch := none, late := [], linkFails := 0, slot := none, parked := false }) })
  modQueue s q (fun r => { r with state := 0, run := false })

/-- No core, engine or headland core holds state of the context any more. -/
def forgetCtx (s : State) (id : Nat) : State :=
  let gone (uid : Nat) : Bool := s.teams.any (fun t => t.uid == uid && t.ctx == id && t.role == .compute)
  let isQueue (w : Where) : Bool := decide (w.uid < 256)
  { s with
    teams := s.teams.filter (fun t => !(t.ctx == id && (match t.role with | .queue _ => false | _ => true))),
    departed := s.departed.filter (fun t => t.ctx != id),
    cores := s.cores.map (fun c => { c with
      icache := c.icache.filter (fun i => i.ctx != id), codes := c.codes.filter (fun e => e.ctx != id),
      smu := c.smu.filter (fun o => !gone o.uid), lingering := c.lingering.filter (fun l => !gone l.uid),
      queues := if s.teams.any (fun t => t.ctx == id && t.role == .compute && t.die == c.die && t.site == c.site) then List.replicate 8 [] else c.queues,
      wp := if s.teams.any (fun t => t.ctx == id && t.role == .compute && t.die == c.die && t.site == c.site) then List.replicate 4 (0, none) else c.wp,
      running := match c.running with | some r => if gone r.1 then none else some r | none => none }),
    kept := s.kept.filter (fun k => k.ctx != id), syncQ := s.syncQ.filter (fun i => i.writer.ctx != id),
    deliveries := s.deliveries.filter (fun d => d.ctx != id), copies := s.copies.filter (fun c => c.writer.ctx != id),
    launchQ := s.launchQ.filter (fun r => r.ctx != id),
    outReqs := s.outReqs.filter (fun r => !(r.writer.ctx == id || gone r.w.uid || (isQueue r.w && (queueRec s r.w.uid).ctx.toNat == id))),
    deques := s.deques.filter (fun d => d.2 != id), emuQ := s.emuQ.filter (fun r => r.ctx != id),
    placerHold := s.placerHold.filter (fun h => h.2.1 != id), ctxs := s.ctxs.filter (fun c => c.id != id) }

/-- The end of a context (R362). -/
def endCtx (s : State) (id : Nat) : State :=
  let s := s.cores.foldl (fun s c => dropStores s c id) s
  let s := (s.queues.filter (fun r => r.ctx.toNat == id)).foldl (fun s r => endQueue s r.q) s
  settle (forgetCtx s id)

/-- Destroy (R362). -/
def destroyCtx (s : State) (word : Nat) : State :=
  let s := storeCtxCmd s word 1
  let id := bits word 15 0
  if (ctx? s id).isSome then setCtxStatus (endCtx s id) 0 else setCtxStatus s 2

/-- R362 CONTEXT_CREATE. -/
def execContextCreate (word : Word) (s : State) : Host.Outcome State Fault Refusal := .next (createCtx s word.toNat)
/-- R362 CONTEXT_DESTROY. -/
def execContextDestroy (word : Word) (s : State) : Host.Outcome State Fault Refusal := .next (destroyCtx s word.toNat)

/-! ## Actions (R367) -/

/-- The group that an action names: in a team by identity, or the group of a queue program (R366, R367). -/
structure ActionId where
  ctx : Nat
  acc : Nat
  cix : Nat
  k : Nat
  group : Nat
  deriving DecidableEq, Repr

def actionId (s : State) (word : Nat) : ActionId :=
  { ctx := bits word 15 0, acc := ctlGet s 0x4008D0, cix := ctlGet s 0x4008C8, k := bits word 19 16, group := bits word 24 20 }

def actionTeam (s : State) (a : ActionId) (t : Team) : Bool :=
  match t.role with
  | .compute => t.ctx == a.ctx && t.acc == a.acc && t.cix == a.cix && t.k == a.k
  | .queue q => q == a.cix && a.acc == 0 && a.k == 0 && a.group == 0 && (queueRec s q).ctx.toNat == a.ctx
  | .patch _ => false

/-- Stopped groups with the identity; a group of a lost team answers no action (R370). -/
def actionGroups (s : State) (a : ActionId) : List Where :=
  s.teams.flatMap (fun t =>
    if actionTeam s a t && !t.lost then
      (t.groups.filter (fun g => g.idx == a.group && g.stopped)).map (fun g => { uid := t.uid, group := g.idx })
    else [])

def faultedLanes (s : State) (w : Where) : List Nat :=
  match group? s w with
  | some g => (List.range g.threads.length).filter (fun l => match g.threads[l]? with | some th => th.status == .faulted | none => false)
  | none => []

/-- The group is ready again: its faulted threads run from where they stand (R367). -/
def resumeGroup (s : State) (w : Where) : State :=
  let s := modThreads s w (faultedLanes s w) (fun th => { th with status := .running, parked := false })
  modGroup s w (fun g => { g with stopped := false, parked := none, also := [] })

/-- A group's parked accesses replay (R359): the threads that took them run from where they stand. A group in which another
thread took a fault that no shootdown replays stays stopped (R363, R367). -/
def replayGroup (s : State) (w : Where) : State :=
  let mine (l : Nat) : Bool := match thread? s w l with | some th => th.parked | none => false
  let s := modThreads s w ((faultedLanes s w).filter mine) (fun th => { th with status := .running, parked := false })
  let left := !(faultedLanes s w).isEmpty
  modGroup s w (fun g => { g with stopped := left, parked := none, also := [] })

/-- The teams of restored clusters that wait to be placed (R376). -/
def waitingTeams (s : State) : List Team := s.ctxs.flatMap (fun x => x.grids.flatMap (fun g => g.waiting.flatMap (·.teams)))

/-- A change of the teams that reaches those of waiting clusters as well (R359, R367: an action and a shootdown reach a group
wherever it has been restored). -/
def withWaiting (s : State) (f : State → State) : State :=
  match waitingTeams s with
  | [] => f s
  | ts =>
    let s := f { s with teams := s.teams ++ ts }
    let now (t : Team) : Team := (team? s t.uid).getD t
    { s with
      teams := s.teams.filter (fun t => !ts.any (fun u => u.uid == t.uid)),
      ctxs := s.ctxs.map (fun x => { x with grids := x.grids.map (fun g =>
        { g with waiting := g.waiting.map (fun p => { p with teams := p.teams.map now }) }) }) }

def copyIs (s : State) (a : ActionId) (c : Copy) : Bool :=
  (c.writer.ctx == a.ctx && c.writer.acc == a.acc && c.writer.cix == a.cix && c.writer.k == a.k && c.writer.group == a.group)
  || s.teams.any (fun t => actionTeam s a t && t.uid == c.w.uid && c.w.group == a.group)

def copyPaused (c : Copy) : Bool := match c.state with | .paused _ => true | _ => false

/-- Copies and matrix-engine transfers of the group that wait at a translation fault run on. -/
def resumePaused (s : State) (a : ActionId) : State :=
  { s with
    copies := updIf (fun c => copyIs s a c && copyPaused c) (fun c => { c with state := .running }) s.copies,
    teams := updIf (actionTeam s a) (fun t => { t with
      mq := t.mq.map (fun m => if m.group == a.group then { m with paused := none } else m) }) s.teams }

def hasPaused (s : State) (a : ActionId) : Bool :=
  s.copies.any (fun c => copyIs s a c && copyPaused c)
  || s.teams.any (fun t => actionTeam s a t && t.mq.any (fun m => m.group == a.group && m.paused.isSome))

/-- The action register's status (R367). -/
def setActionStatus (s : State) (st : Nat) : State := setCmd s 0x4008C0 63 62 61 1 st

/-- The threads that took the fault continue after I (R367). -/
def skipGroup (s : State) (w : Where) : State :=
  match team? s w.uid with
  | none => s
  | some t =>
    match ctxOf s t with
    | none => s
    | some x =>
      let s := (faultedLanes s w).foldl (fun s l => modThread s w l (fun th =>
        { th with pc := BitVec.ofNat 64 (afterInstr s t x th.pc.toNat), status := .running, parked := false })) s
      modGroup s w (fun g => { g with stopped := false, parked := none, also := [], argsRead := true })

/-- The threads that took the fault end as by EXIT (R184, R367). -/
def endGroup (s : State) (w : Where) : State :=
  let s := (faultedLanes s w).foldl (fun s l => endThread s w l) s
  let s := modGroup s w (fun g => { g with stopped := false, parked := none, also := [], argsRead := true })
  if w.uid < 256 then
    let pc := queuePc s w.uid
    modQueue s w.uid (fun r => { r with state := 5, run := false, pc := BitVec.ofNat 56 pc })
  else s

/-- The identity is that of a watchdog's entry (R368): a grid that has been accepted and has not completed. -/
def watchdogNamed (s : State) (a : ActionId) : Bool :=
  a.cix == 0 && a.k == 0 && a.group == 0 && (ctx? s a.ctx).any (fun x => x.wdog != 0
    && (x.launches.any (fun l => l.acc == a.acc) || x.grids.any (fun g => g.acc == a.acc)))

/-- Actions 0 to 2 on the groups that are there. -/
def actOn (a : ActionId) (act : Nat) (s : State) : State :=
  let gs := actionGroups s a
  if gs.isEmpty && (act != 0 || !hasPaused s a) then setActionStatus s 2
  else setActionStatus (match act with
    | 0 => gs.foldl resumeGroup (resumePaused s a)
    | 1 => gs.foldl skipGroup s
    | _ => gs.foldl endGroup s) 0

/-- An action on the group that the register names; act 3 also ends the context of a grid that a watchdog's entry names
(R368; log 34). -/
def takeAction (s : State) (word act : Nat) : State :=
  let keep := setBits (setBits (ctlGet s 0x4008C0) 24 0 (bits word 24 0)) 30 28 act
  let s := ctlSet s 0x4008C0 keep
  let a := actionId s word
  if act < 3 then withWaiting s (actOn a act)
  else if act != 3 then setActionStatus s 3
  else if (actionGroups { s with teams := s.teams ++ waitingTeams s } a).isEmpty && !watchdogNamed s a then setActionStatus s 2
  else setActionStatus (endCtx s a.ctx) 0

/-- R367 ACTION_REPLAY. -/
def execActionReplay (word : Word) (s : State) : Host.Outcome State Fault Refusal := .next (takeAction s word.toNat 0)
/-- R367 ACTION_SKIP. -/
def execActionSkip (word : Word) (s : State) : Host.Outcome State Fault Refusal := .next (takeAction s word.toNat 1)
/-- R367 ACTION_END. -/
def execActionEnd (word : Word) (s : State) : Host.Outcome State Fault Refusal := .next (takeAction s word.toNat 2)
/-- R367 ACTION_DESTROY. -/
def execActionDestroy (word : Word) (s : State) : Host.Outcome State Fault Refusal := .next (takeAction s word.toNat 3)

/-! ## Shootdowns (R357-R359) -/

def setShootStatus (s : State) (st : Nat) : State := setCmd s 0x400808 63 62 61 1 st
def shootStatus (s : State) : Nat := bits (ctlGet s 0x400808) 62 61

/-- Context, start and length of the shootdown that the register holds. -/
def shootRange (s : State) : Nat × Nat × Nat :=
  let w := ctlGet s 0x400808
  (bits w 47 32, bits (ctlGet s 0x400800) 55 12 * 4096, 2 ^ bits w 7 0)

/-- A shootdown starts, or is refused; a write while one is in progress changes nothing. -/
def startShootdown (s : State) (word : Nat) : State :=
  if shootStatus s == 1 then s
  else
    let s := ctlSet s 0x400808 (setBits (setBits (ctlGet s 0x400808) 47 32 (bits word 47 32)) 7 0 (bits word 7 0))
    let (ctx, va, n) := shootRange s
    let lg := bits word 7 0
    if lg < 12 || 56 < lg || va % n != 0 then setShootStatus s 2
    else setShootStatus { s with shootdown := some (ctx, va, n) } 1

/-- No translation of a range, and no fetched sector of it, is kept (R357, R358). -/
def dropTranslations (s : State) (id va n : Nat) : State :=
  { s with
    kept := s.kept.filter (fun k => !(k.ctx == id && decide (k.va < va + n) && decide (va < k.va + k.size))),
    cores := s.cores.map (fun c => { c with icache := c.icache.filter (fun i =>
      !(i.ctx == id && decide (16 * i.va < va + n) && decide (va < 16 * i.va + 16))) }) }

/-- Parked groups, copies and transfers with an address in the range replay (R359). -/
def replayRange (id : Nat) (covered : Nat → Bool) (s : State) : State :=
  let ofCtx (t : Team) : Bool := (ctxOf s t).any (fun x => x.id == id) && !t.lost
  let ws : List Where := s.teams.flatMap (fun t => if ofCtx t then
    (t.groups.filter (fun g => g.parked.isSome && (g.parked.toList ++ g.also).any covered)).map (fun g => { uid := t.uid, group := g.idx }) else [])
  let s := ws.foldl replayGroup s
  let on (c : Copy) : Bool := c.writer.ctx == id && (match c.state with | .paused a => covered a | _ => false)
  { s with
    copies := updIf on (fun c => { c with state := .running }) s.copies,
    teams := updIf (fun t => t.ctx == id) (fun t => { t with
      mq := t.mq.map (fun m => if m.paused.any covered then { m with paused := none } else m) }) s.teams }

/-- The shootdown in progress completes: nothing of its range is kept, and what is parked there replays (R358, R359). -/
def finishShootdown (s : State) : Option State :=
  match s.shootdown with
  | none => none
  | some (id, va, n) =>
    let covered (a : Nat) : Bool := decide (va ≤ a) && decide (a < va + n)
    let s := withWaiting (dropTranslations { s with shootdown := none } id va n) (replayRange id covered)
    let s := modCtx s id (fun x => { x with
      launches := x.launches.map (fun l => if l.parked.any covered then { l with parked := none } else l) })
    some (setShootStatus s 0)

/-- R357 SHOOTDOWN. -/
def execShootdown (word : Word) (s : State) : Host.Outcome State Fault Refusal := .next (startShootdown s word.toNat)
/-- R358 SHOOTDOWN_COMPLETE. -/
def execShootdownComplete (s : State) : Host.Outcome State Fault Refusal := orStay s (finishShootdown s)

/-! ## Regions (R360) -/

/-- Byte r of the region table. -/
def regionByte (s : State) (r : Nat) : Nat := bits (ctlGet s (0x401000 + 8 * (r / 8))) (8 * (r % 8) + 7) (8 * (r % 8))

/-- gran and die of a region, the die only where it counts (R91). -/
def regionKind (e : Nat) : Nat := if e % 4 == 2 then e else e % 4

def regionOld (s : State) (r : Nat) : Nat :=
  match s.regs.regions.find? (fun x => x.1 == r) with
  | some x => x.2
  | none => 0

/-- Every die is the home of as many whole-die regions as every other. -/
def evenRegions (es : List Nat) : Bool :=
  let n (die : Nat) : Nat := (es.filter (fun e => e % 4 == 2 && e / 4 % 8 == die)).length
  (List.range 8).all (fun d => n d == n 0)

/-- Place number i of the changed regions, in HBM words of 32 bytes. -/
def placeOf (changed : List Nat) (i : Nat) : Nat := changed.getD (i / 2 ^ 25 % changed.length) 0 * 2 ^ 25 + i % 2 ^ 25

/-- The first place from number i on that no word has taken. -/
def freePlace (changed taken : List Nat) : Nat → Nat → Nat
  | 0, i => placeOf changed i
  | fuel + 1, i => if taken.contains (placeOf changed i) then freePlace changed taken fuel (i + 1) else placeOf changed i

/-- Each HBM word of the changed regions gets a free place of them, no two the same (log 11). -/
def movedWords (changed : List Nat) (words : List Nat) (s : State) : State × List (Nat × Nat) :=
  words.foldl (fun (acc : State × List (Nat × Nat)) w =>
    let (f, s) := draw acc.1
    (s, (w, freePlace changed (acc.2.map (·.2)) acc.2.length f.toNat) :: acc.2)) (s, [])

/-- What the addresses of the changed regions read under the new interleave: the words that were stored there, each at a
free address (R360, log 11). -/
def moveRegions (changed : List Nat) (s : State) : State :=
  let inside (pa : Nat) : Bool := changed.contains (pa / 2 ^ 30)
  let cells := s.home.filter (fun c => inside c.1)
  let bad := s.poison.filter (fun p => inside (32 * p.word))
  let words := (cells.map (fun (c : Host.Cell) => c.1 / 32) ++ bad.map (·.word)).eraseDups
  let (s, moves) := movedWords changed words s
  let place (w : Nat) : Nat := match moves.find? (fun m => m.1 == w) with | some m => m.2 | none => w
  { s with
    home := cells.foldl (fun (m : Mem) c => m.set (32 * place (c.1 / 32) + c.1 % 32) c.2) (s.home.filter (fun c => !inside c.1))
    poison := bad.map (fun p => { p with word := place p.word }) ++ s.poison.filter (fun p => !inside (32 * p.word))
    rawGranules := s.rawGranules.filter (fun g => !inside (512 * g)) }

/-- The commit of the region table (R360). -/
def commitRegions (s : State) : State :=
  let done (s : State) (st : Nat) : State := setCmd s 0x400400 0 2 1 1 st
  let es := (List.range 1024).map (regionByte s)
  if !s.ctxs.isEmpty || !evenRegions es then done s 2
  else
    let changed := (List.range 1024).filter (fun r => regionKind (regionOld s r) != regionKind (es.getD r 0))
    let inChanged (pa : Nat) : Bool := changed.contains (pa / 2 ^ 30)
    let s := s.cores.foldl (fun s c => performWhere s c.die c.site (fun d => inChanged d.pa)) s
    let dropped : List Core := s.cores.map (fun c => { c with clean := c.clean.filter (fun e => !inChanged (128 * e.line)) })
    let table : List (Nat × Nat) := (es.zipIdx.map (fun p => (p.2, p.1))).filter (fun p => p.2 != 0)
    let s := { s with cores := dropped, regs := { s.regs with regions := table } }
    done (moveRegions changed s) 0

/-- R360 REGION_COMMIT. -/
def execRegionCommit (_ : Word) (s : State) : Host.Outcome State Fault Refusal := .next (commitRegions s)

end Sys2Proof.Machine
end

