-- ==== Sys2Proof/Machine/Starts.lean ====
section
/-! DEFINITION. The start of a group (spec 01 R25, R37; 05 R172; 12 R318; 03 R100): the kernel's first instruction, the argument
words in its g registers and in the team's stash entries. -/
namespace Sys2Proof.Machine

/-- All live threads of a group, at the instruction where the lowest of them stands. -/
def standingGroup (s : State) (w : Where) : Cur :=
  let live := match group? s w with | some g => liveLanes g | none => []
  let pc := match thread? s w (live.headD 0) with | some th => th.pc.toNat | none => 0
  { w := w, lanes := live, pc := pc, next := pc, dword := 0, lit := 0, form := 0, noPatch := true, noG := false }

/-- Every thread of the group takes a fault at its first instruction (R25). -/
def startFault (s : State) (w : Where) (i : FaultInfo) : State :=
  let c := standingGroup s w
  takeFault s c c.lanes i

/-- An argument word: 8 bytes read as a NORMAL load of the group's threads (R25). -/
def argWord (s : State) (x : Ctx) (t : Team) (va : Nat) : Except FaultInfo (Nat × State) :=
  match checkGlobal s x va 8 .load with
  | .error i => .error { i with data := va }
  | .ok _ =>
    match loadNow s x t.die t.site va 8 .load with
    | .error i => .error { i with data := va }
    | .ok (bs, s) => .ok (ofBytes bs, s)

/-- The argument words that `.group` names: register and address (R172, R318). -/
def argList (t : Team) : List (Nat × Nat) :=
  (t.kern.gmap.zipIdx.filter (fun p => p.1 != 0)).map (fun p => (p.2, t.args + 8 * (p.1 - 1)))

/-- Reads argument words one after another. -/
def argWords (x : Ctx) (t : Team) : List (Nat × Nat) → State → Except FaultInfo (List (Nat × Nat) × State)
  | [], s => .ok ([], s)
  | (n, va) :: rest, s =>
    match argWord s x t va with
    | .error i => .error i
    | .ok (v, s) =>
      match argWords x t rest s with
      | .error i => .error i
      | .ok (vs, s) => .ok ((n, v) :: vs, s)

/-- The stash entries whose addresses are not yet known: index and address of the argument word (R100). -/
def stashArgs (t : Team) : List (Nat × Nat) :=
  let used := t.kern.stash.filter (fun e => e.2.1 != 0)
  (used.zipIdx.filter (fun p => match t.stash[p.2]? with | some e => !e.valid | none => false)).map
    (fun p => (p.2, t.args + 8 * p.1.2.2))

/-- The words become g registers and stash entries. Bits [3:0] and [63:56] of an entry's word are cleared: R100 does not say
what a word does in which they are not 0 (the model's choice, log 35). -/
def putArgs (s : State) (w : Where) (gs ss : List (Nat × Nat)) : State :=
  let s := gs.foldl (fun s p => writeG s w p.1 p.2) s
  let s := modTeam s w.uid (fun t => { t with
    stash := ss.foldl (fun st p => st.modify p.1 (fun e => { e with valid := true, gva := p.2 / 16 * 16 % 2 ^ 56 })) t.stash })
  modGroup s w (fun g => { g with argsRead := true })

/-- The kernel's first instruction, from the grid's launch descriptor (R25, R257). -/
def kernelStart (s : State) (t : Team) (x : Ctx) : Except FaultInfo (Nat × State) :=
  match grid? s t.ctx t.acc with
  | none => .error { code := .codeHandle }
  | some g => resolve s x t (ldKern (ofBytes g.desc))

/-- Brings a group to its first instruction: the state, and whether it stands there ready. -/
def startGroup (s : State) (w : Where) : State × Bool :=
  match team? s w.uid, group? s w with
  | some t, some g =>
    if g.started && g.argsRead then (s, true)
    else
      match ctxOf s t with
      | none => (s, false)
      | some x =>
        match (if g.started then Except.ok (none, s) else (kernelStart s t x).map (fun r => (some r.1, r.2))) with
        | .error i => (startFault s w i, false)
        | .ok (pc, s) =>
          let s := match pc with
            | some pc => modGroup s w (fun g => { g with started := true, threads := g.threads.map (fun th => { th with pc := BitVec.ofNat 64 pc }) })
            | none => s
          if g.argsRead then (s, true)
          else
            match argWords x t (argList t) s with
            | .error i => (startFault s w i, false)
            | .ok (gs, s) =>
              match argWords x t (stashArgs t) s with
              | .error i => (startFault s w i, false)
              | .ok (ss, s) => (putArgs s w gs ss, true)
  | _, _ => (s, false)

end Sys2Proof.Machine
end

