-- ==== Sys2Proof/Machine/Save.lean ====
section
/-! DEFINITION. Pre-emption (spec 14 R370-R375; 01 R53; 04 R141): the teams that a save takes, what completes first, and the
image. Where the manual leaves a place of the image's layout open, the layout is the model's (log 24). -/
namespace Sys2Proof.Machine

/-! ## What completes before the image is written (R53) -/

/-- A copy stands at a line boundary of its destination, or between two rows (R53). -/
def atLine (c : Copy) : Bool := c.extras.isEmpty && c.wait.isNone && (c.pos == 0 || dstAddr c % 128 == 0)

/-- A copy goes on as far as a save lets it: a queue's to its end, a team's to a line boundary, where it pauses (R53). -/
def settleCopy (s : State) (c : Copy) : Option State :=
  if c.w.uid < 256 then (copyAdvance s c.id) <|> (copyFinish s c.id) <|> (copyHalt s c.id)
  else if atLine c then none
  else (copyAdvance s c.id) <|> (copyHalt s c.id)

/-- One operation of some containers that can complete now; the matrix engine stops after the step that it has made (R53). -/
def settleOnce (s : State) (mine : Nat → Bool) : Option State :=
  let groups : List Where := s.teams.flatMap (fun t => if mine t.uid then t.groups.map (fun g => { uid := t.uid, group := g.idx }) else [])
  let lanes : List (Where × Nat) := groups.flatMap (fun w => match group? s w with
    | some g => (List.range g.threads.length).map (fun l => (w, l))
    | none => [])
  ((s.syncQ.find? (fun i => mine i.w.uid)).map (fun i => runItem { s with syncQ := s.syncQ.filter (fun j => j.id != i.id) } i))
  <|> (if s.launchQ.any (fun r => mine r.w.uid) then launchArrives s else none)
  <|> ((s.outReqs.find? (fun r => mine r.w.uid && !heldBack s r)).map (answerReq s))
  <|> ((s.cores.findSome? (fun c => (c.smu.find? (fun o => mine o.uid)).map (fun o => (c.die, c.site, o.quadrant)))).map (fun k => smFinish s k.1 k.2.1 k.2.2))
  <|> (groups.findSome? (fun w => (group? s w).bind (fun g => g.ops.findSome? (fun o => returnData s w o.id))))
  <|> (s.copies.findSome? (fun c => if mine c.w.uid then settleCopy s c else none))
  <|> (s.teams.findSome? (fun t => if mine t.uid then startHarrow s t.uid else none))
  <|> (lanes.findSome? (fun p => (satisfy s p.1 p.2) <|> (wakePark s p.1 p.2)))

def settleAll : Nat → State → (Nat → Bool) → State
  | 0, s, _ => s
  | n + 1, s, mine =>
    match settleOnce s mine with
    | some s => settleAll n s mine
    | none => s

/-- Groups not yet started stand at their first instruction. -/
def startAll (s : State) (uid : Nat) : State :=
  match team? s uid with
  | none => s
  | some t => t.groups.foldl (fun s g => if g.stopped then s else (startGroup s { uid := uid, group := g.idx }).1) s

/-- A team's save is a release at device scope of all that its threads stored (R141); a stash byte that cannot be written back
goes with the image, still dirty (R102, log 25). -/
def performTeam (s : State) (uid : Nat) : State :=
  match team? s uid with
  | none => s
  | some t =>
    let s := match ctxOf s t with
      | some x => (stashWriteBack s x uid).1
      | none => s
    performWhere s t.die t.site (fun _ => true)

/-- Fuel for what completes. -/
def settleFuel : Nat := 2 ^ 60

/-- The state in which the containers can be saved. -/
def quiesce (s : State) (uids : List Nat) : State :=
  let mine (u : Nat) : Bool := uids.contains u
  let s := uids.foldl startAll s
  let s := settleAll settleFuel s mine
  let s := uids.foldl performTeam s
  { s with emuQ := s.emuQ.filter (fun r => !mine r.w.uid),
           teams := s.teams.filter (fun t => match t.role with
             | .patch iod => !s.emuQ.any (fun r => r.iod == iod && r.running && mine r.w.uid)
             | _ => true) }

/-! ## The image -/

/-- Fields of n bytes, each with its place. -/
def fieldBytes (n : Nat) (fs : List (Nat × Nat)) : List Byte := leBytes n (fs.foldl (fun x f => x + f.1 * 2 ^ f.2) 0)

def padTo (n : Nat) (bs : List Byte) : List Byte := bs ++ List.replicate ((n - bs.length % n) % n) 0

/-- The field part of a barrier (R373). -/
def barrierBytes (b : Barrier) : List Byte :=
  fieldBytes 32 [(b2n b.phase, 0), (b.count, 8), (b.flags.toNat, 48), (b.result.toNat, 64), (b.x.toNat, 80), (b.y.toNat, 112)]

/-- One bit per thread of the team (R373). -/
def threadBits (t : Team) (p : Thread → Bool) : List Byte :=
  let m := t.groups.foldl (fun m g => g.threads.zipIdx.foldl (fun m q => if p q.1 then m ||| 2 ^ (32 * g.idx + q.2) else m) m) 0
  leBytes 128 m

/-- A barrier's part of a team block: fields, arrived bits, arrived-not-waited bits. -/
def barrierPart (t : Team) (n : Nat) (b : Option Barrier) : List Byte :=
  (match b with | some b => barrierBytes b | none => List.replicate 32 0)
  ++ threadBits t (fun th => bit th.arr.toNat n) ++ threadBits t (fun th => bit th.anw.toNat n)

/-- The state code of a thread (R374); a deposited thread counts as waiting and stands in the list of deposits. -/
def statusCode : Status → Nat
  | .running => 0
  | .heldLane _ _ _ _ => 1
  | .heldWindow _ _ _ _ => 1
  | .waiting _ => 2
  | .faulted => 3
  | .ended => 4
  | .deposited => 2

def laneBytes (th : Thread) : List Byte :=
  fieldBytes 64 [(th.pc.toNat, 0), (min th.idle 0xFFFF, 64), (th.cid.toNat, 275), (b2n th.intrap, 299), (statusCode th.status, 300),
    (th.p.toNat ||| b2n true, 303), (th.nf.toNat, 311), (th.tpc.toNat, 320), (th.sx.toNat, 384), (th.smst.toNat, 448)]

/-- A group record (R374). -/
def groupBytes (s : State) (t : Team) (g : Group) : List Byte :=
  let w : Where := { uid := t.uid, group := g.idx }
  let n (c : Ctr) : Nat := ctrCount s w g.ops c
  (g.threads.flatMap laneBytes)
  ++ fieldBytes 64 [(g.o, 0), (g.res, 16), (ringRows t.kern, 32), (n .loads, 64), (n .stores, 72), (n .copies, 80), (n .tiles, 88)]
  ++ padTo 64 (leBytes 8 g.bsb.toNat ++ leBytes 8 g.bsl.toNat ++ leBytes 8 g.bsp.toNat)
  ++ g.frec.flatMap (fun w => leBytes 8 w.toNat) ++ List.replicate 1856 0

/-- Where operands of an instruction stand in its record. -/
def mmaOp (m : MInstr) : Bool := m.opcode == 0xD0 || m.opcode == 0xD1

/-- An issued matrix-engine instruction (R373); its places are the model's. -/
def engineBytes (m : MInstr) : List Byte :=
  let fd (i : Nat) : Nat := (m.fds.getD i 0).toNat
  fieldBytes 8 [(m.opcode, 0), (m.lane, 8), (m.group, 16), (m.d, 24), (m.m, 32), (m.opId % 2 ^ 16, 48)]
  ++ leBytes 8 m.addr ++ leBytes 8 m.handle ++ leBytes 8 m.srk.toNat ++ leBytes 4 m.srw ++ leBytes 4 m.step
  ++ leBytes 8 (fd 0) ++ leBytes 8 (fd 1) ++ leBytes 8 (fd 2)
  ++ (if mmaOp m then leBytes 64 m.block else leBytes 8 m.a ++ leBytes 8 m.b ++ leBytes 8 m.block ++ List.replicate 40 0)

def depositBytes (d : Deposit) : List Byte :=
  leBytes 8 d.payload.toNat ++ fieldBytes 8 [(d.key.toNat, 0), (d.nf.toNat, 16), (d.index, 32)] ++ leBytes 8 d.cont.toNat ++ List.replicate 8 0

/-- Bytes of a local range, and the offsets of its poisoned words. -/
structure Blob where
  bytes : List Byte
  bad : List Nat

def blobAppend (a b : Blob) : Blob := { bytes := a.bytes ++ b.bytes, bad := a.bad ++ b.bad.map (· + a.bytes.length) }
def plain (bs : List Byte) : Blob := { bytes := bs, bad := [] }

def localBlob (t : Team) (x n : Nat) : Blob :=
  { bytes := rangeBytes t.lmem x n,
    bad := (t.lpoison.filter (fun p => decide (x ≤ 8 * p) && decide (8 * p < x + n))).map (fun p => 8 * p - x) }

/-- The core queues' part (R373). -/
def coreQueueBytes (queues : List (List (List Byte))) (wp : List (Word × Option Nat)) : List Byte :=
  (queues.flatMap (fun q => let bs := (q.flatMap id).take 4096; bs ++ List.replicate (4096 - bs.length) (0 : Byte)))
  ++ padTo 64 (queues.flatMap (fun q => leBytes 1 q.length) ++ wp.flatMap (fun p => leBytes 8 p.1.toNat)
      ++ leBytes 1 (wp.zipIdx.foldl (fun n p => n + b2n p.1.2.isSome * 2 ^ p.2) 0))

/-- A team block (R373). -/
def teamBlob (s : State) (t : Team) (queues : Option (List (List (List Byte)) × List (Word × Option Nat))) : Blob :=
  let rows := (t.resv.zipIdx.filter (fun r => r.1.valid)).map (fun r => localBlob t (mobRowAddr r.2 0) (64 * r.1.nrows))
  let tiles := t.tiles.filter (·.bound)
  let head := plain (t.kern.raw ++ List.replicate (256 - t.kern.raw.length) (0 : Byte)
    ++ (List.range 16).flatMap (fun n => barrierPart t n (t.tbs[n]?))
    ++ (List.range 8).flatMap (fun n => barrierPart t (16 + n) (if t.k == 0 then t.cbs[n]? else none))
    ++ (List.range 4).flatMap (fun n => barrierPart t (24 + n) none)
    ++ (List.range t.kern.ngroups).flatMap (fun i => match grp? t i with | some g => groupBytes s t g | none => List.replicate 4096 0)
    ++ t.resv.flatMap (fun r => let w := recordWords r 0; leBytes 8 w.1 ++ leBytes 8 w.2))
  let body := rows.foldl blobAppend head
  let body := blobAppend body (plain (t.tiles.flatMap (fun x => fieldBytes 16 [(b2n x.bound, 0), (x.tf.toNat, 1)])))
  let body := tiles.foldl (fun b x => blobAppend b
    { bytes := denseBytes x.cells 0 16384, bad := x.poison.flatMap (fun p => [16 * p, 16 * p + 8]) }) body
  let body := blobAppend body (plain (leBytes 16 t.mq.length ++ t.mq.flatMap engineBytes
    ++ leBytes 16 t.harrow.length ++ t.harrow.flatMap depositBytes))
  let body := blobAppend body (localBlob t 0 t.kern.s)
  let body := blobAppend body (localBlob t 0x400000 t.kern.t)
  let body := blobAppend body (localBlob t 0x800000 (t.kern.ngroups * blockBytes t.kern))
  let secs := t.kern.t / 16
  let valid := (t.stashValid.filter (fun v => decide (0x40000 ≤ v))).foldl (fun m v => m ||| 2 ^ (v - 0x40000)) 0
  let dirty := t.stashDirty.foldl (fun m d => m ||| 2 ^ (d.1 - 0x400000)) 0
  let body := blobAppend body (plain (leBytes ((secs + 7) / 8) valid ++ leBytes (2 * secs) dirty))
  let body := match queues with | some q => blobAppend body (plain (coreQueueBytes q.1 q.2)) | none => body
  let n := roundUp (64 + body.bytes.length) 64
  let first := fieldBytes 64 [(n, 0), (t.acc, 64), (t.cix, 128), (t.k, 192), (t.cls, 196), (t.kind, 198), (b2n queues.isSome, 200),
    (t.args, 256), (t.bsa, 320), (t.bsz, 384)]
  let whole := blobAppend (plain first) body
  { whole with bytes := padTo 64 whole.bytes }

/-- The context section (R375). -/
def contextBytes (s : State) (x : Ctx) : List Byte :=
  let img := (s.patch, s.regs.patchEn)
  padTo 64 (x.fd.flatMap (fun w => leBytes 8 w.toNat) ++ x.wd.flatMap (fun d => leBytes 64 d.toNat)
    ++ leBytes 8 x.srk.toNat ++ leBytes 8 x.srw.toNat ++ leBytes 8 x.thand.toNat
    ++ leBytes 8 (imageWord s.patch) ++ (List.range 16).flatMap (fun n => leBytes 8 (slotStatus img x n)))

/-- A queue image (R375); `before` is the record as it stood before the save stopped the queue. -/
def queueBytes (s : State) (q : Nat) (before : List Nat) : List Byte :=
  let w := queueWhere q
  let n (c : Ctr) : Nat := match group? s w with | some g => ctrCount s w g.ops c | none => 0
  let (vs, gs, p, lm) := match team? s q, group? s w with
    | some t, some g => ((List.range 64).map (readV t g 0), (List.range 64).map (readG t g),
        (match g.threads[0]? with | some th => th.p.toNat ||| b2n true | none => 1), rangeBytes t.lmem 0 4096)
    | _, _ => (List.replicate 64 0, List.replicate 64 0, 1, List.replicate 4096 0)
  before.flatMap (leBytes 8) ++ vs.flatMap (leBytes 8) ++ gs.flatMap (leBytes 8) ++ leBytes 8 p
  ++ fieldBytes 8 [(n .loads, 0), (n .stores, 8), (n .copies, 16), (n .tiles, 24)] ++ leBytes 8 q ++ List.replicate 968 0 ++ lm

/-- A launch record (R375). Bit 3 of the gate's byte marks a grid that has passed its gate and has clusters to place; its
next cluster stands behind the counts. -/
def launchBytes (desc : List Byte) (acc flags cls : Nat) (counts : Nat × Nat × Nat) (next : Nat) : List Byte :=
  desc.take 128 ++ List.replicate (128 - desc.length) 0 ++ leBytes 8 acc ++ fieldBytes 8 [(flags, 0), (cls, 8)]
  ++ leBytes 4 counts.1 ++ leBytes 4 counts.2.1 ++ leBytes 4 counts.2.2 ++ List.replicate 4 0 ++ leBytes 8 next ++ List.replicate 88 0

def launchRecord (l : Launch) : List Byte :=
  launchBytes l.desc l.acc (b2n l.pass0 + 2 * b2n l.pass1 + 4 * b2n l.counts.isSome + 16 * b2n l.heldForGood) l.cls (l.counts.getD (0, 0, 0)) 0
def gridLaunchRecord (g : Grid) : List Byte := launchBytes g.desc g.acc 15 g.cls g.gdim g.next

/-- A grid record (R375). -/
def gridRecord (g : Grid) : List Byte :=
  let d := ofBytes g.desc
  padTo 192 ((List.range 4).flatMap (fun n => barrierBytes (g.gbs.getD n barrier0)) ++ leBytes 8 g.acc ++ leBytes 8 (ldCadr2 d) ++ leBytes 8 (ldCval d))

/-! ## Saves -/

/-- A team goes with all that its cluster or its grid ties to it (R371). -/
def tied (s : State) (picked : List Team) (t : Team) : Bool :=
  t.role == .compute && !t.lost && picked.any (fun u => u.uid == t.uid
    || (1 < u.kern.cw * u.kern.ch && sameCluster u t) || (u.kind != 0 && sameGrid u t))
  && (ctx? s t.ctx).isSome

/-- The core queues that a resident team's block carries: it is the last of its context on the core among those saved. -/
def queuesFor (s : State) (ts : List Team) (t : Team) : Option (List (List (List Byte)) × List (Word × Option Nat)) :=
  let here := residents s t.die t.site
  let mine := here.filter (fun u => ts.any (fun v => v.uid == u.uid))
  if mine.length == here.length && (mine.getLast?.map (·.uid)) == some t.uid then
    let c := core s t.die t.site
    some (c.queues, c.wp)
  else none

def teamLe (a b : Team) : Bool := !listLt [b.acc, b.cix, b.k] [a.acc, a.cix, a.k]

/-- The image of some teams of a context and, for scope 1, of its queues, launches and grids (R372). -/
def imageOf' (s : State) (x : Ctx) (ts : List Team) (whole : Bool) (queues : List (Nat × List Nat)) : Blob :=
  let ts := sortBy teamLe ts
  let pend : List (Team × Option (List (List (List Byte)) × List (Word × Option Nat))) :=
    if whole then x.grids.flatMap (fun g => g.waiting.flatMap (fun p => p.teams.map (fun t => (t, (p.queues.find? (fun q => q.1 == t.k)).map (·.2))))) else []
  let blocks := ts.map (fun t => teamBlob s t (queuesFor s ts t)) ++ pend.map (fun p => teamBlob s p.1 p.2)
  let qs := if whole then queues.map (fun q => padTo 64 (queueBytes s q.1 q.2)) else []
  let unplaced := x.grids.filter (fun g => ts.any (fun t => t.acc == g.acc) || decide (g.next < gridClusters g) || !g.waiting.isEmpty)
  let ls := if whole then x.launches.map launchRecord ++ unplaced.map gridLaunchRecord else []
  let gs := (x.grids.filter (fun g => g.kind == 2 && (ts.any (fun t => t.acc == g.acc) || (whole && (unplaced.any (fun u => u.acc == g.acc)))))).map gridRecord
  let body := plain (if whole then contextBytes s x else [])
  let body := blocks.foldl blobAppend body
  let body := blobAppend body (plain (qs.flatMap id ++ ls.flatMap id ++ gs.flatMap id))
  let head := fieldBytes 64 [(0x45564153, 0), (b2n whole, 32), (x.id, 48), (64 + body.bytes.length, 64), (qs.length, 128),
    (blocks.length, 160), (gs.length, 192), (ls.length, 224)]
  blobAppend (plain head) body

/-- Bytes written to memory by the device, some of their words poisoned (R377). -/
def writeBlob (s : State) (pa : Nat) (b : Blob) : State :=
  let pas := (List.range b.bytes.length).map (fun i => pa + i)
  let secs := (b.bad.map (fun o => (pa + o) / 16)).eraseDups
  let s := { s with home := s.home.writeList pa b.bytes, poison := pas.foldl (poisonStore none) s.poison }
  wakeAll (secs.foldl poisonSector s) pas

/-- What a team keeps beside its image (R54; log 24). -/
def asideOf (wp : List (Word × Option Nat)) (t : Team) : Aside :=
  { acc := t.acc, cix := t.cix, k := t.k, stash := t.stash,
    mq := t.mq.map (fun m => { m with token := false }),
    lmem := t.lmem.filter (fun c => decide (2 ^ 40 ≤ c.1)), lpoison := t.lpoison.filter (fun p => decide (2 ^ 37 ≤ p)),
    lanes := t.groups.flatMap (fun g => g.threads.zipIdx.map (fun th =>
      { group := g.idx, lane := th.2, tcause := th.1.tcause, late := th.1.late, linkFails := th.1.linkFails,
        linkVa := th.1.linkVa, linkReq := th.1.linkReq, parked := th.1.parked,
        held := match th.1.status with
          | .heldLane m f next d => some (.heldLane m f next d)
          | .heldWindow o f next d => some (.heldWindow o f next d)
          | .waiting (.barrier n) => some (.waiting (.barrier n))
          | _ => none })),
    also := t.groups.map (fun g => (g.idx, g.also)), dirty := t.stashDirty, wp := wp.map (·.2) }

/-- The restored teams of a grid that wait to be placed, with the write pointers that go with them. -/
def waitingBlocks (g : Grid) : List (Team × List (Word × Option Nat)) :=
  g.waiting.flatMap (fun p => p.teams.map (fun t => (t, match p.queues.find? (fun q => q.1 == t.k) with | some q => q.2.2 | none => [])))

/-- Teams leave what their images have no place for, and their copies pause (R53, R54). -/
def leaveAside (s : State) (ctx : Nat) (ps : List (Team × List (Word × Option Nat))) : State :=
  let ts := ps.map (·.1)
  let s := { s with copies := updIf (fun c => ts.any (fun t => t.uid == c.w.uid)) (fun c => { c with held := true }) s.copies }
  let others (a : Aside) : Bool := !ts.any (fun t => t.acc == a.acc && t.cix == a.cix && t.k == a.k)
  modCtx s ctx (fun x => { x with aside := ps.map (fun p => asideOf p.2 p.1) ++ x.aside.filter others })

/-- The package without the saved teams: clusters away until they are restored, cores free. -/
def removeTeams (s : State) (ctx : Nat) (ts : List Team) : State :=
  let gone (uid : Nat) : Bool := ts.any (fun t => t.uid == uid)
  let cores := s.cores.map (fun c => { c with
    lingering := c.lingering.filter (fun l => !gone l.uid), running := if c.running.any (fun r => gone r.1) then none else c.running })
  let s := { s with teams := s.teams.filter (fun t => !gone t.uid), cores := cores }
  modCtx s ctx (fun x => { x with grids := x.grids.map (fun g =>
    let out := ((ts.filter (fun t => t.acc == g.acc)).map (·.cix)).eraseDups
    { g with live := g.live.filter (fun c => !out.contains c), away := g.away ++ out }) })

/-- A save of the whole context takes its launches and what its grids have still to place (R371). -/
def removeLaunches (s : State) (ctx : Nat) : State :=
  modCtx s ctx (fun x => { x with launches := [], grids := x.grids.map (fun g =>
    if g.next < gridClusters g || !g.waiting.isEmpty then
      { g with next := gridClusters g, waiting := [], away := g.away ++ (g.waiting.map (·.cix)) ++ [gridClusters g] }
    else g) })

/-- The pre-emption register (R370). -/
def setSaveStatus (s : State) (st : Nat) : State := setCmd s 0x400840 33 32 30 1 st

def storeSaveCmd (s : State) (word scope : Nat) : State :=
  ctlSet s 0x400840 (setBits (setBits (ctlGet s 0x400840) 63 36 (bits word 63 36)) 35 34 scope)

/-- A save of some teams, once its fields are in range: the image, or its size where it does not fit. -/
def saveSome (s : State) (x : Ctx) (ts : List Team) (whole : Bool) : State :=
  let addr := ctlGet s 0x400850
  let size := ctlGet s 0x400848
  let qs := if whole then (s.queues.filter (fun r => r.ctx.toNat == x.id)).map (·.q) else []
  let uids := ts.map (·.uid) ++ qs
  let s' := quiesce s uids
  let before := qs.map (fun q => (q, (List.range 4).map (queueWord s' q)))
  let ts' := s'.teams.filter (fun t => ts.any (fun u => u.uid == t.uid))
  match ctx? s' x.id with
  | none => setSaveStatus s 3
  | some x' =>
    let image := imageOf' s' x' ts' whole before
    let need := image.bytes.length
    if size < need then setSaveStatus (ctlSet s 0x400858 need) 2
    else if !inHbm (addr + need - 1) then setSaveStatus s 3
    else
      let s' := qs.foldl queueHalt s'
      let here := ts'.map (fun t => (t, match queuesFor s' ts' t with | some q => q.2 | none => []))
      let s' := leaveAside s' x.id (if whole then here ++ x'.grids.flatMap waitingBlocks else here)
      let s' := removeTeams s' x.id ts'
      let s' := if whole then removeLaunches s' x.id else s'
      setSaveStatus (writeBlob s' addr image) 0

/-- SAVE_TEAMS: scope 0, the teams on a site (R370, R371). -/
def saveTeams (s : State) (word : Nat) : State :=
  let s := storeSaveCmd s word 0
  let die := bits word 47 44
  let site := bits word 43 36
  match ctx? s (bits word 63 48) with
  | none => setSaveStatus s 3
  | some x =>
    let picked := s.teams.filter (fun t => t.role == .compute && t.ctx == x.id && t.die == die && t.site == site && !t.lost)
    let ts := s.teams.filter (tied s picked)
    if 8 ≤ die || 168 ≤ site || ctlGet s 0x400850 % 64 != 0 || ts.isEmpty then setSaveStatus s 3
    else saveSome s x ts false

/-- SAVE_CONTEXT: scope 1, the whole context (R371). -/
def saveContext (s : State) (word : Nat) : State :=
  let s := storeSaveCmd s word 1
  match ctx? s (bits word 63 48) with
  | none => setSaveStatus s 3
  | some x =>
    if ctlGet s 0x400850 % 64 != 0 then setSaveStatus s 3
    else saveSome s x (s.teams.filter (fun t => t.role == .compute && t.ctx == x.id && !t.lost)) true

/-- SAVE_TIMEOUT: a core does not answer; the teams it holds are lost and stay stopped (R370). -/
def loseTeams (s : State) (word die site : Nat) : State :=
  let s := storeSaveCmd s word (bits word 35 34)
  let mine (t : Team) : Bool := t.role == .compute && t.ctx == bits word 63 48 && t.die == die && t.site == site
  setSaveStatus { s with teams := updIf mine (fun t => { t with lost := true, groups := t.groups.map (fun g => { g with stopped := true }) }) s.teams } 4

/-- R370 SAVE_TEAMS. -/
def execSaveTeams (word : Word) (s : State) : Host.Outcome State Fault Refusal := .next (saveTeams s word.toNat)
/-- R371 SAVE_CONTEXT. -/
def execSaveContext (word : Word) (s : State) : Host.Outcome State Fault Refusal := .next (saveContext s word.toNat)
/-- R370 SAVE_TIMEOUT. -/
def execSaveTimeout (word : Word) (die site : Nat) (s : State) : Host.Outcome State Fault Refusal := .next (loseTeams s word.toNat die site)

end Sys2Proof.Machine
end

