-- ==== Sys2Proof/Machine/Restore.lean ====
section
/-! DEFINITION. The restore of an image (spec 14 R376; 01 R54; 04 R141): its sections read back in their order. -/
namespace Sys2Proof.Machine

/-- A number of n bytes of the image. -/
def rd (s : State) (a n : Nat) : Nat := s.home.readN a n

/-- The state of a thread from its code (R374): held threads arrive again, waiting ones wait again, unless the device has kept
what holds them (`laneAside`). -/
def statusOfCode (n : Nat) : Status :=
  match n with
  | 2 => .waiting .resumed
  | 3 => .faulted
  | 4 => .ended
  | _ => .running

/-- A barrier's field part (R373). -/
def barrierAt (s : State) (a : Nat) : Barrier :=
  let x := rd s a 32
  { phase := bit x 0, count := bits x 39 8, flags := BitVec.ofNat 16 (bits x 63 48), result := BitVec.ofNat 16 (bits x 79 64),
    x := BitVec.ofNat 32 (bits x 111 80), y := BitVec.ofNat 32 (bits x 143 112) }

/-- Where the part of barrier n stands in a team block. -/
def barrierOff (n : Nat) : Nat := 320 + 288 * n

/-- The arrival bits of a thread, from the bitmaps at an offset of each barrier's part. -/
def arrivals (s : State) (a off i : Nat) : Nat :=
  (List.range 28).foldl (fun m n => if bit (rd s (a + barrierOff n + off) 128) i then m ||| 2 ^ n else m) 0

/-- A thread (R374). s.tcause has no place in the record: a free value where the device keeps none beside it (log 24). -/
def laneAt (s : State) (blk a g lane : Nat) : Thread :=
  let x := rd s a 64
  { threadStart (bits x 63 0) (bits x 298 275) with
    p := BitVec.ofNat 8 (bits x 310 303), nf := BitVec.ofNat 9 (bits x 319 311), smst := BitVec.ofNat 64 (setBits (bits x 511 448) 31 14 0),
    sx := BitVec.ofNat 64 (bits x 447 384), tpc := BitVec.ofNat 64 (bits x 383 320),
    tcause := BitVec.ofNat 8 (Config.freeWord (s.fresh + a / 64)).toNat, intrap := bit x 299,
    status := statusOfCode (bits x 302 300), idle := bits x 79 64,
    arr := BitVec.ofNat 28 (arrivals s blk 32 (32 * g + lane)), anw := BitVec.ofNat 28 (arrivals s blk 160 (32 * g + lane)) }

/-- A group record (R374); word 7 of its fault record names the live context. -/
def groupAt (s : State) (ctx blk a i : Nat) : Group :=
  let threads := (List.range 32).map (fun l => laneAt s blk (a + 64 * l) i l)
  let x := rd s (a + 2048) 64
  let frec := (List.range 8).map (fun n =>
    let w := rd s (a + 2176 + 8 * n) 8
    if n == 7 && rd s (a + 2176) 64 != 0 then setBits w 15 0 ctx else w)
  let stopped := threads.any (fun th => th.status == .faulted)
  let code := frec.getD 0 0 % 256
  let parks := stopped && (code == 0x01 || (code == 0x02 && bit (frec.getD 0 0) 21))
  { groupStart i threads 0 0 with
    o := bits x 12 0, res := bits x 28 16, bsb := BitVec.ofNat 64 (rd s (a + 2112) 8), bsl := BitVec.ofNat 64 (rd s (a + 2120) 8),
    bsp := BitVec.ofNat 64 (rd s (a + 2128) 8), frec := frec.map (BitVec.ofNat 64), stopped := stopped,
    parked := if parks then some (frec.getD 3 0) else none, started := true, argsRead := true }

/-- A reservation record (R105), unplaced. -/
def resvAt (s : State) (a : Nat) : Resv :=
  let x := rd s a 16
  { valid := bit x 127, glen := bits x 70 68, fslot := bits x 67 64, eofs := bits x 62 48, sofs := bits x 46 32, nrows := bits x 30 16, base := 0 }

/-- An issued matrix-engine instruction. -/
def engineAt (s : State) (a seq : Nat) (resv : List Resv) : MInstr :=
  let x := rd s a 8
  let op := bits x 7 0
  let mma := op == 0xD0 || op == 0xD1
  { seq := seq, group := bits x 23 16, lane := bits x 15 8, opId := bits x 63 48, opcode := op, addr := rd s (a + 8) 8,
    handle := rd s (a + 16) 8, d := bits x 31 24, a := if mma then 0 else rd s (a + 64) 8, b := if mma then 0 else rd s (a + 72) 8,
    m := bits x 47 32, block := if mma then rd s (a + 64) 64 else rd s (a + 80) 8,
    fds := [rd s (a + 40) 8, rd s (a + 48) 8, rd s (a + 56) 8].map (BitVec.ofNat 64), srk := BitVec.ofNat 64 (rd s (a + 24) 8),
    srw := rd s (a + 32) 4, resv := resv, lanes := 0, step := if op == 0xDA then 0 else rd s (a + 36) 4, started := false,
    token := false, waited := 0, snap := [], snapPoison := [], mobGen := 0, work := [], tf := 0, paused := none, poisoned := false }

def depositAt (s : State) (a : Nat) : Deposit :=
  let x := rd s (a + 8) 8
  { payload := BitVec.ofNat 64 (rd s a 8), key := BitVec.ofNat 16 (bits x 15 0), nf := BitVec.ofNat 9 (bits x 24 16),
    cont := BitVec.ofNat 64 (rd s (a + 16) 8), index := bits x 63 32 }

/-- Local memory from n bytes of the image: the cells, and the words that the image holds poisoned. -/
def localAt (s : State) (a x n : Nat) : Mem × List Nat :=
  (ofDense x (rangeBytes s.home a n),
   (List.range (n / 8)).filterMap (fun i => if (sectorPoison s ((a + 8 * i) / 16)).isSome then some (x / 8 + i) else none))

/-- Parts of a memory, one after another. -/
def joinLocal (ps : List (Mem × List Nat)) : Mem × List Nat :=
  ps.foldl (fun m p => (m.1 ++ p.1, m.2 ++ p.2)) ([], [])

/-- The operations that a group still has (R243): copies that the device runs, instructions of the matrix engine. -/
def opsAt (cs : List Copy) (mq : List MInstr) : List Op :=
  let cids := (cs.map (·.opId)).eraseDups
  let tids := (mq.map (·.opId)).eraseDups
  cids.map (fun i => { id := i, ctr := .copies, kind := .copy ((cs.filter (fun c => c.opId == i)).map (·.id)), parts := [], done := false })
  ++ tids.map (fun i => { id := i, ctr := .tiles, kind := .tile ((mq.filter (fun m => m.opId == i)).map (·.seq)), parts := [], done := false })

/-- A team block read back, with its core queues (R373). -/
structure Block where
  size : Nat
  team : Team
  queues : Option (List (List (List Byte)) × List (Word × Option Nat))

/-- The core queues' part; a pointer is bound where the device keeps the copy that it followed (R139). -/
def coreQueuesAt (s : State) (a : Nat) (wp : List (Option Nat)) : List (List (List Byte)) × List (Word × Option Nat) :=
  let queue (n : Nat) : List (List Byte) :=
    (List.range (rd s (a + 32768 + n) 1)).map (fun i => s.home.readList (a + 4096 * n + 64 * i) 64)
  let flags := rd s (a + 32768 + 40) 1
  let bound (n : Nat) : Option Nat :=
    match wp[n]? with
    | some (some i) => if bit flags n && s.copies.any (fun c => c.id == i && c.held) then some i else none
    | _ => none
  ((List.range 8).map queue, (List.range 4).map (fun n => (BitVec.ofNat 64 (rd s (a + 32768 + 8 + 8 * n) 8), bound n)))

/-- Whether a group's argument words are still to be read (R25): all its live threads stand at the kernel's first
instruction with a fault at one of them. -/
def argsOpen (t : Team) (desc : Nat) (g : Group) : Bool :=
  let live := g.threads.filter alive
  !live.isEmpty && live.all (fun th => th.status == .faulted) && (g.frec.getD 2 0).toNat == ldKern desc
  && (argList t ++ stashArgs { t with stash := t.stash.map (fun e => { e with valid := false }) }).any (fun p => p.2 == (g.frec.getD 3 0).toNat)

/-- What the device keeps beside the image of a team whose instructions are those of the image (R54; log 24). -/
def asideFor (x : Ctx) (t : Team) : Option Aside :=
  x.aside.find? (fun a => a.acc == t.acc && a.cix == t.cix && a.k == t.k && a.mq.map (·.opcode) == t.mq.map (·.opcode))

/-- A team block (R373). Dirty stash bytes keep the threads that wrote them, where the device knows them (R102). -/
def blockAt (s : State) (x : Ctx) (a : Nat) : Block :=
  let h := rd s a 64
  let kern := kernOf (s.home.readList (a + 64) 256)
  let acc := bits h 127 64
  let cix := bits h 191 128
  let k := bits h 195 192
  let grid := x.grids.find? (fun g => g.acc == acc)
  let (gdim, desc) := match grid with | some g => (g.gdim, ofBytes g.desc) | none => ((1, 1, 1), 0)
  let c := clusterAt x.det gdim cix
  let groups := (List.range kern.ngroups).map (fun i => groupAt s x.id a (a + 8384 + 4096 * i) i)
  let p := a + 8384 + 4096 * kern.ngroups
  let resv := (List.range 8).map (fun m => resvAt s (p + 16 * m))
  let rowAt (m : Nat) : Nat := sumNat ((resv.take m).map (fun r => if r.valid then 64 * r.nrows else 0))
  let rows := joinLocal (resv.zipIdx.map (fun r => if r.1.valid then localAt s (p + 128 + rowAt r.2) (mobRowAddr r.2 0) (64 * r.1.nrows) else ([], [])))
  let p := p + 128 + rowAt 8
  let heads := (List.range 16).map (fun n => rd s (p + 16 * n) 16)
  let cellsAt (n : Nat) : Nat := p + 256 + 16384 * ((heads.take n).filter (fun h => bit h 0)).length
  let tiles := heads.zipIdx.map (fun h =>
    if bit h.1 0 then
      ({ bound := true, tf := BitVec.ofNat 9 (bits h.1 9 1), cells := ofDense 0 (rangeBytes s.home (cellsAt h.2) 16384),
         poison := (List.range 1024).filter (fun i => (sectorPoison s ((cellsAt h.2) / 16 + i)).isSome) } : Tile)
    else { tile0 with tf := BitVec.ofNat 9 (bits h.1 9 1) })
  let p := cellsAt 16
  let nm := rd s p 16
  let mq := (List.range nm).map (fun i => engineAt s (p + 16 + 128 * i) (s.tick + i) resv)
  let p := p + 16 + 128 * nm
  let nh := rd s p 16
  let harrow := (List.range nh).map (fun i => depositAt s (p + 16 + 32 * i))
  let p := p + 16 + 32 * nh
  let regBytes := kern.ngroups * blockBytes kern
  let scratch := localAt s p 0 kern.s
  let stash := localAt s (p + kern.s) 0x400000 kern.t
  let regs := localAt s (p + kern.s + kern.t) 0x800000 regBytes
  let p := p + kern.s + kern.t + regBytes
  let secs := kern.t / 16
  let dirty := rd s (p + (secs + 7) / 8) (2 * secs)
  let p := p + (secs + 7) / 8 + 2 * secs
  let mine (c : Copy) : Bool := c.held && c.writer.graded && c.writer.ctx == x.id && c.writer.acc == acc && c.writer.cix == cix && c.writer.k == k
  let cs := s.copies.filter mine
  let lm := joinLocal [scratch, stash, regs, rows]
  let args := bits h 319 256
  let t0 : Team :=
    { soloTeam 0 .compute x.id 0 0 kern.f kern.s with
      acc := acc, cix := cix, k := k, cls := bits h 197 196, kind := bits h 199 198, cluster := c, gdim := gdim,
      rank := ((c.2.2 * gdim.2.1 + c.2.1) * gdim.1 + c.1) * (kern.cw * kern.ch) + k, kern := kern, args := args,
      bsa := bits h 383 320, bsz := bits h 447 384, lmem := lm.1, lpoison := lm.2, stash := stashStart kern,
      -- the acquire of R141 leaves no valid bit (R102)
      stashValid := [],
      tbs := (List.range 16).map (fun n => barrierAt s (a + barrierOff n)),
      cbs := (List.range 8).map (fun n => barrierAt s (a + barrierOff (16 + n))), resv := resv, tiles := tiles, mq := mq,
      harrow := harrow, harrowCont := harrow.head?.map (·.cont) }
  let fixed (g : Group) : Group :=
    let ops := opsAt (cs.filter (fun c => c.w.group == g.idx)) (mq.filter (fun m => m.group == g.idx))
    { g with ops := ops, nextOp := (ops.map (·.id)).foldl (fun m i => max m (i + 1)) 0, argsRead := !argsOpen t0 desc g,
             threads := g.threads.zipIdx.map (fun th =>
               if harrow.any (fun d => d.index == 32 * g.idx + th.2) then { th.1 with status := .deposited } else th.1) }
  let t1 := { t0 with groups := groups.map fixed }
  let kept := asideFor x t1
  let stored : List (Nat × Writer) := match kept with | some k => k.dirty | none => []
  let writer (b : Nat) : Writer := match stored.find? (fun d => d.1 == b) with | some d => d.2 | none => writerOf t1 0 0
  { size := bits h 63 0,
    team := { t1 with stashDirty := (List.range (16 * secs)).filterMap (fun i =>
      if bit dirty i then some (0x400000 + i, writer (0x400000 + i)) else none) },
    queues := if bit h 200 then some (coreQueuesAt s p (match kept with | some k => k.wp | none => [])) else none }

/-- The stash addresses of a team of which the device keeps nothing, from its argument block (R100): entries of the kernel
record hold offsets, and the argument words are read again (log 24). -/
def restoreStash (s : State) (x : Ctx) (t : Team) : Team :=
  if t.groups.any (fun g => g.argsRead) then
    match argWords x { t with die := 8, site := 17 } (stashArgs t) (dropClean s 8 17) with
    | .ok (ss, _) => { t with stash := ss.foldl (fun st p => st.modify p.1 (fun e => { e with valid := true, gva := p.2 / 16 * 16 % 2 ^ 56 })) t.stash }
    | .error _ => t
  else t

/-- The team blocks, from an address on. -/
def blocksAt (s : State) (x : Ctx) : Nat → Nat → List Block × Nat
  | 0, a => ([], a)
  | n + 1, a =>
    let b := blockAt s x a
    let rest := blocksAt s x n (a + roundUp (max 64 b.size) 64)
    (b :: rest.1, rest.2)

/-- A lane with what the device keeps of it: held with the mask that it read, or waiting on the barrier at which it has arrived
(R33, R241); another waiting lane makes its instruction again. -/
def laneAside (ls : List AsideLane) (g : Nat) (th : Thread × Nat) : Thread :=
  match ls.find? (fun l => l.group == g && l.lane == th.2) with
  | some l => { th.1 with
      tcause := l.tcause, late := l.late, linkFails := l.linkFails, linkVa := l.linkVa, linkReq := l.linkReq, parked := l.parked,
      status := match l.held with
        | some h => h
        | none => if th.1.status == .waiting .resumed then .running else th.1.status }
  | none => th.1

/-- The first operation number that no recorded fault of some threads names. -/
def pastLate (ths : List Thread) : Nat :=
  ths.foldl (fun m th => th.late.foldl (fun m l => match l.1 with | .copy (some n) => max m (n + 1) | _ => m) m) 0

/-- A group with what the device keeps of it. -/
def groupAside (a : Aside) (g : Group) : Group :=
  let ths := g.threads.zipIdx.map (laneAside a.lanes g.idx)
  { g with threads := ths, nextOp := max g.nextOp (pastLate ths),
           also := match a.also.find? (fun p => p.1 == g.idx) with | some p => p.2 | none => [] }

/-- A restored team goes on where it stood (R54): its stash entries, its engine instructions with what they have read, what its
threads have to report. -/
def resumeAside (s : State) (x : Ctx) (t : Team) : Team :=
  match asideFor x t with
  | none => restoreStash s x t
  | some a =>
    { t with stash := a.stash, lmem := t.lmem ++ a.lmem, lpoison := t.lpoison ++ a.lpoison,
             mq := a.mq.zipWith (fun m n => { m with seq := n.seq }) t.mq, groups := t.groups.map (groupAside a) }

/-- Dirty stash bytes of a restored cluster belong to its teams as they now are. -/
def ownDirty (ts : List Team) (t : Team) : Team :=
  let own (w : Writer) : Writer := match ts.find? (fun u => u.k == w.k) with | some u => { w with uid := u.uid } | none => w
  { t with stashDirty := t.stashDirty.map (fun d => (d.1, own d.2)) }

/-- The barriers of a restored cluster, which the block of cluster core 0 holds, are those of all its teams (R373). -/
def shareBars (p : Pending) : Pending :=
  match p.teams.find? (fun t => t.k == 0) with
  | some t0 => { p with teams := p.teams.map (fun t => { t with cbs := t0.cbs }) }
  | none => p

/-- A saved team joins the waiting clusters of its grid (R376). -/
def joinWaiting (s : State) (x : Ctx) (b : Block) (i : Nat) : State :=
  let t := { resumeAside s x b.team with uid := s.nextUid }
  let s := { s with nextUid := s.nextUid + 1 }
  let t := { t with mq := t.mq.map (fun m => { m with seq := m.seq + 2 ^ 16 * i }),
                    groups := t.groups.map (fun g => { g with ops := g.ops.map (fun o =>
                      { o with kind := match o.kind with | .tile ss => .tile (ss.map (· + 2 ^ 16 * i)) | k => k }) }) }
  let q := match b.queues with | some q => [(t.k, q)] | none => []
  modGrid s x.id t.acc (fun g =>
    let old : Pending := (g.waiting.find? (fun p => p.cix == t.cix)).getD { cix := t.cix, teams := [], queues := [] }
    let ts := old.teams ++ [t]
    let p := shareBars { old with teams := ts.map (ownDirty ts), queues := old.queues ++ q }
    { g with waiting := insertBy (fun a b => decide (a.cix ≤ b.cix)) p (g.waiting.filter (fun p => p.cix != t.cix)),
             away := g.away.filter (fun c => c != t.cix), live := g.live.filter (fun c => c != t.cix) })

/-- A window descriptor as its register stores it: reserved bits are 0 (R9, R111). -/
def wdStored (d : Nat) : Nat := setBits (setBits (setBits d 447 384 0) 122 104 0) 63 56 0

/-- The context section (R375); reserved bits of its registers are stored as 0 (R9). -/
def restoreCtx (s : State) (id a : Nat) : State :=
  modCtx s id (fun x => { x with
    fd := (List.range 16).map (fun i => BitVec.ofNat 64 (bits (rd s (a + 8 * i) 8) 49 0)),
    wd := (List.range 16).map (fun i => BitVec.ofNat 512 (wdStored (rd s (a + 128 + 64 * i) 64))), srk := BitVec.ofNat 64 (rd s (a + 1152) 8),
    srw := BitVec.ofNat 32 (rd s (a + 1160) 8), thand := BitVec.ofNat 64 (rd s (a + 1168) 8) })

def contextSection : Nat := 1344
def queueSection : Nat := 6144

/-- A queue image: the record, the registers and the scratchpad; it runs on if run was 1 (R376). -/
def restoreQueue (s : State) (ctx a : Nat) : State :=
  let q := rd s (a + 1072) 8 % 256
  let w0 := rd s a 8
  let run := bit w0 7
  let s := if atRest (queueRec s q) then s else queueHalt s q
  let s := modQueue s q (fun r => { r with
    prio := BitVec.ofNat 3 w0, flt := bit w0 6, run := run, state := if run then 0 else bits w0 11 8, ctx := BitVec.ofNat 16 ctx,
    pc := BitVec.ofNat 56 (rd s (a + 9) 7), fpc := BitVec.ofNat 56 (rd s (a + 17) 7), fcode := BitVec.ofNat 8 (rd s (a + 25) 1) })
  let fresh := soloTeam q (.queue q) ctx (queueDie q) (queueSite q) 64 4096
  let t : Team := { fresh with
    groups := fresh.groups.map (fun g => { g with threads := [{ threadStart (rd s (a + 9) 7) 0 with p := BitVec.ofNat 8 (rd s (a + 1056) 1) }] }) }
  let t := (List.range 64).foldl (fun (t : Team) n =>
    let t := lwrite8 t (gAddr t.kern 0 n) (rd s (a + 544 + 8 * n) 8)
    match t.groups with | g :: _ => lwrite8 t (vAddr t.kern g 0 n) (rd s (a + 32 + 8 * n) 8) | [] => t) t
  let t := { t with lmem := t.lmem.writeList 0 (s.home.readList (a + 2048) 4096) }
  -- the slot's part in the barriers of its headland core is the slot's, not the program's (R337)
  let t := match thread? s (queueWhere q) 0 with
    | some old => { t with groups := t.groups.map (fun g => { g with threads := g.threads.map (fun th =>
        { th with arr := old.arr, anw := old.anw, voided := old.voided }) }) }
    | none => t
  let s := { s with teams := s.teams.filter (fun u => u.uid != q) ++ [t] }
  if run then queueStart s q else s

/-- A grid that a launch record describes, when the device no longer holds it. -/
def gridOf (x : Ctx) (order acc cls next : Nat) (desc : List Byte) (gdim : Nat × Nat × Nat) (kern : Kern) : Grid :=
  { acc := acc, order := order, cls := cls, kind := ldKind (ofBytes desc), kern := kern, desc := desc, gdim := gdim,
    gbs := List.replicate 4 barrier0, next := next, waiting := [], live := [], away := [], retired := [],
    nextRetire := if x.det then next else 0 }

/-- The kernel of a record: the loader's, or the one that a team block of its grid holds. -/
def kernOfRecord (s : State) (x : Ctx) (desc : List Byte) (saved : List (Nat × Kern)) (acc : Nat) : Kern :=
  match saved.find? (fun p => p.1 == acc) with
  | some p => p.2
  | none => (kernelFor s x (ldKern (ofBytes desc))).getD (flatKern 1 0)

/-- A launch record (R375, R376): a launch with its acceptance number, or a grid with clusters to place. -/
def restoreLaunch (s : State) (id a : Nat) (saved : List (Nat × Kern)) : State :=
  match ctx? s id with
  | none => s
  | some x =>
    let desc := s.home.readList a 128
    let acc := rd s (a + 128) 8
    let flags := rd s (a + 136) 1
    let cls := rd s (a + 137) 1 % 4
    let counts := (rd s (a + 144) 4, rd s (a + 148) 4, rd s (a + 152) 4)
    let next := rd s (a + 160) 8
    let order := s.accOrder
    let kern := kernOfRecord s x desc saved acc
    let s := modCtx { s with accOrder := s.accOrder + 1 } id (fun x => { x with nextAcc := max x.nextAcc (acc + 1) })
    if bit flags 3 then
      match grid? s id acc with
      | some g =>
        let total := gridClusters g
        modGrid s id acc (fun g => { g with next := next, away := g.away.filter (fun c => c != total) })
      | none => modCtx s id (fun x => { x with grids := x.grids ++ [gridOf x order acc cls next desc counts kern] })
    else
      let l : Launch :=
        { acc := acc, order := order, cls := cls, desc := desc, indirect := ldGdim (ofBytes desc) == (0, 0, 0), kern := kern, pass0 := bit flags 0,
          pass1 := bit flags 1, counts := if bit flags 2 then some counts else none, watch0 := none, watch1 := none, parked := none, heldForGood := bit flags 4 }
      modCtx s id (fun x => { x with launches := x.launches ++ [l] })

/-- A grid record (R375): the barriers of the grid. -/
def restoreGrid (s : State) (id a : Nat) : State :=
  modGrid s id (rd s (a + 128) 8) (fun g => { g with gbs := (List.range 4).map (fun n => barrierAt s (a + 32 * n)) })

/-- In a deterministic context the clusters that are neither saved nor still to place have retired (R348). -/
def fixRetire (s : State) (id : Nat) : State :=
  modCtx s id (fun x => if !x.det then x else { x with grids := x.grids.map (fun g =>
    if g.live.isEmpty && g.retired.isEmpty then { g with nextRetire := (g.waiting.map (·.cix)).foldl min g.next } else g) })

/-- The resume register (R376). -/
def setResumeStatus (s : State) (st : Nat) : State := setCmd s 0x400880 47 46 45 1 st

/-- RESTORE (R376): context section, queue images, launch records, grid records, and the clusters that wait. -/
def restoreImage (s : State) (word : Nat) : State :=
  let s := ctlSet s 0x400880 (setBits (ctlGet s 0x400880) 63 48 (bits word 63 48))
  let id := bits word 63 48
  let addr := ctlGet s 0x400888
  let h := rd s addr 64
  if bits h 31 0 != 0x45564153 || bits h 47 33 != 0 || bits h 511 256 != 0 || bits h 63 48 != id || (ctx? s id).isNone
      || !inHbm (addr + bits h 127 64 - 1) || poisoned s addr 64 then setResumeStatus s 2
  else
    let p := addr + 64
    let s := if bit h 32 then restoreCtx s id p else s
    let p := if bit h 32 then p + contextSection else p
    match ctx? s id with
    | none => s
    | some x =>
      -- the blocks are read for their sizes and kernels, and again once the grids stand
      let (sized, afterBlocks) := blocksAt s x (bits h 191 160) p
      let saved := sized.map (fun b => (b.team.acc, b.team.kern))
      let nq := bits h 159 128
      let nl := bits h 255 224
      let s := (List.range nq).foldl (fun s i => restoreQueue s id (afterBlocks + queueSection * i)) s
      let pl := afterBlocks + queueSection * nq
      let s := (List.range nl).foldl (fun s i => restoreLaunch s id (pl + 256 * i) saved) s
      let pg := pl + 256 * nl
      let s := (List.range (bits h 223 192)).foldl (fun s i => restoreGrid s id (pg + 192 * i)) s
      match ctx? s id with
      | none => s
      | some x =>
        let blocks := (blocksAt s x (bits h 191 160) p).1
        let s1 := blocks.zipIdx.foldl (fun s b => joinWaiting s x b.1 b.2) s
        -- one free value for each 64 bytes of the image
        let used := (addr + bits h 127 64) / 64 + 1
        setResumeStatus (fixRetire { s1 with tick := s1.tick + 2 ^ 16 * (blocks.length + 1), fresh := s1.fresh + used } id) 0

/-- R376 RESTORE. -/
def execRestore (word : Word) (s : State) : Host.Outcome State Fault Refusal := .next (restoreImage s word.toNat)

end Sys2Proof.Machine
end

