-- ==== Sys2Proof/Machine/Devices.lean ====
section
/-! DEFINITION. The package seen from its links (spec 16 R404-R420): package and link resets, the control aperture, the token
pool, telemetry and the thermal governor (18 R445, R446), HBM repair (18 R440), lanes and ports, inbound requests of the PCIe
ports and of UALink, and virtual functions. -/
namespace Sys2Proof.Machine

/-! ## Resets -/

/-- PACKAGE_RESET: every Reset column; what stands beyond HBM is the targets' own, and the secure controller keeps its
version floors, owner key and firmware (logs 1, 2, 27). It is a link reset of every port (R409): the PCIe PHY images that
wait for one take effect (R442). -/
def resetPackage (s : State) : State :=
  { State.reset with
    inputs := s.inputs, fresh := s.fresh, home := s.home.filter (fun c => !inHbm c.1), linkFaults := s.linkFaults,
    firmware := s.portFirmware.foldl putFirmware s.firmware,
    regs := { regsReset with floors := s.regs.floors, ownerKey := s.regs.ownerKey, nonce := s.regs.nonce } }

/-- PACKAGE_RESET. -/
def execPackageReset (s : State) : Host.Outcome State Fault Refusal := .next (resetPackage s)

/-- A PCIe PHY's image that waits for its port's link reset takes effect (R442). -/
def linkFirmware (s : State) (port : Nat) : State :=
  match s.portFirmware.find? (fun f => f.unit == port) with
  | some f => { s with firmware := putFirmware s.firmware f, portFirmware := s.portFirmware.filter (fun f => f.unit != port) }
  | none => s

/-- R409 LINK_RESET: a mode of IO1's port that waits takes effect, and a PCIe PHY's image (R442). -/
def execLinkReset (port : Nat) (s : State) : Host.Outcome State Fault Refusal :=
  let s := linkFirmware s port
  .next (if port != 1 then s
    else match s.regs.io1pending with
      | some m => { s with regs := { s.regs with io1mode := m, io1pending := none } }
      | none => s)

/-- The mode of IO1's port written (R409). -/
def io1Mode (s : State) (value : Nat) : State :=
  let m := if value % 4 == 3 then 0 else value % 4
  if m == 0 || s.regs.io1mode == 0 then { s with regs := { s.regs with io1mode := m, io1pending := none } }
  else { s with regs := { s.regs with io1pending := if m == s.regs.io1mode then none else some m } }

/-- R409 IO1_MODE_WRITE. -/
def execIo1ModeWrite (value : Word) (s : State) : Host.Outcome State Fault Refusal := .next (io1Mode s value.toNat)

/-! ## Inbound pieces, and the order of requests at a port (R412, R413) -/

/-- An answer to a request of a PCIe port: kinds 0 memory read, 1 AtomicOp, 2 register read, 3 mailbox read; for UALink 4.
Status 0 done, 1 refused, 2 poisoned. -/
def respond (s : State) (port kind : Nat) (data : List Byte) (status : Nat) : State :=
  { s with responses := s.responses ++ [{ port := port, kind := kind, data := data, status := status }] }

/-- Bytes up to the next boundary of the interleave granule (R91, R360, R412). -/
def granuleRest (s : State) (pa : Nat) : Nat :=
  let e := match s.regs.regions.find? (fun r => r.1 == pa / 2 ^ 30) with
    | some r => r.2
    | none => 0
  let g := match e % 4 with
    | 0 => 2048
    | 1 => 65536
    | _ => 2 ^ 30
  g - pa % g

/-- Pieces of n bytes from an address on, address and length: a write's are its granules (R412), a read's are also cut into
completions of at most 512 bytes (R404, R415). -/
def pieceRuns (s : State) (read : Bool) : Nat → Nat → Nat → List (Nat × Nat)
  | 0, _, _ => []
  | fuel + 1, pa, n => if n == 0 then [] else
      let k := min n (if read then min (granuleRest s pa) (512 - pa % 512) else granuleRest s pa)
      (pa, k) :: pieceRuns s read fuel (pa + k) (n - k)

/-- The access kind of a request (R420). -/
def inClass : InKind → Nat
  | .read => 0
  | .write => 1
  | _ => 2

/-- How an atomic request acts, and whether its operands are signed. -/
def inAtom : InKind → Option (AtomKind × Bool)
  | .fetchAdd => some (.add, false)
  | .swap => some (.xchg, false)
  | .cas => some (.cas, false)
  | .min sg => some (.min, sg)
  | .max sg => some (.max, sg)
  | .and => some (.and, false)
  | .or => some (.or, false)
  | .xor => some (.xor, false)
  | .inc => some (.inc, false)
  | .dec => some (.dec, false)
  | _ => none

/-- PCIe carries three AtomicOps (R404). -/
def pcieAtomic : InKind → Bool
  | .fetchAdd | .swap | .cas => true
  | _ => false

/-- Runs of an inbound access that do not leave a 16-byte sector (R413): address and length. -/
def sectorPieces : Nat → Nat → Nat → List (Nat × Nat)
  | 0, _, _ => []
  | fuel + 1, pa, n => if n == 0 then [] else
      let k := min n (16 - pa % 16)
      (pa, k) :: sectorPieces fuel (pa + k) (n - k)

/-- Bytes of an inbound write at their homes: each sector one event (R413), stored as through a compressible page (R407). -/
def storeInbound (s : State) (pa : Nat) (data : List Byte) : State :=
  setForm ((sectorPieces data.length pa data.length).foldl (fun s r =>
    homeStore s (fullUnit r.1 ((data.drop (r.1 - pa)).take r.2)) none) s) false ((List.range data.length).map (fun i => pa + i))

/-- An inbound atomic at the home's sync engine (R414, R420): the old value, none where it meets poison. -/
def atomInbound (s : State) (kind : InKind) (pa len : Nat) (data : List Byte) : Option Nat × State :=
  match inAtom kind with
  | none => (none, s)
  | some (k, sg) =>
    if poisoned s pa len then (none, s)
    else
      let old := s.home.readN pa len
      let ty := (if sg then 0 else 4) + (if len == 8 then 0 else 1)
      match atomNew k ty old (ofBytes (data.take len)) (ofBytes ((data.drop len).take len)) with
      | some x => (some old, homeStore s (fullUnit pa (leBytes len x)) none)
      | none => (some old, s)

/-- Whether a piece may be performed now (R412, R413): earlier writes it is ordered after, and those on its route, are
acknowledged. -/
def pieceReady (s : State) (p : Piece) : Bool :=
  s.pieces.all (fun q =>
    !(q.port == p.port && q.kind == .write
      && ((decide (q.wr < p.wr) && (p.kind != .write || (!p.relaxed && (!p.idOrdered || q.requester == p.requester))))
          || (p.kind == .write && q.home == p.home && decide (q.id < p.id)))))

/-- A piece reaches its home: its bytes are performed, or read, and the completion goes back. -/
def performPiece (s : State) (p : Piece) : State :=
  let s := { s with pieces := s.pieces.filter (fun q => q.id != p.id) }
  let port := 16 + p.port
  match p.kind with
  | .write => storeInbound s p.pa p.data
  | .read =>
    if poisoned s p.pa p.len then respond s port 0 (s.home.readList p.pa p.len) 2 else respond s port 0 (s.home.readList p.pa p.len) 0
  | k =>
    (match atomInbound s k p.pa p.len p.data with
     | (some old, s) => respond s port 1 (leBytes p.len old) 0
     | (none, s) => respond s port 1 [] 2)

def ackPiece (s : State) (id : Nat) : Option State :=
  match s.pieces.find? (fun p => p.id == id) with
  | some p => if pieceReady s p then some (performPiece s p) else none
  | none => none

/-- The earlier writes of a port are performed before a request to a register, a mailbox or a queue record takes effect there:
that request is ordered after them (R406, R412). -/
def drainWrites (s : State) (port : Nat) : State :=
  (s.pieces.filter (fun p => p.port == port && p.kind == .write)).foldl performPiece s

/-- A request that is refused: counted, and answered where it awaits an answer (R406, R420). -/
def refuseInbound (s : State) (r : InReq) : State :=
  let s := countError s (16 + r.port)
  match r.kind with
  | .write => s
  | .read => respond s (16 + r.port) 0 [] 1
  | _ => respond s (16 + r.port) 1 [] 1

/-! ## The token pool, telemetry and the governor -/

/-- A change of the pool in force is an event of kind 7 of IO0 (R446). -/
def poolEvent (before : Nat) (s : State) : State := if poolSize s == before then s else emit s 8 7 0 0 0 (poolSize s)

/-- The pool size written (R349). -/
def setPool (s : State) (value : Nat) : State :=
  poolEvent (poolSize s) { s with regs := { s.regs with pool := max 320 (min 2560 (value % 4096)) } }

/-- R349 POOL_WRITE. -/
def execPoolWrite (value : Word) (s : State) : Host.Outcome State Fault Refusal := .next (setPool s value.toNat)

def setCap (s : State) (cap : Nat) : State := poolEvent (poolSize s) { s with regs := { s.regs with cap := cap } }

/-- Measurements of a die: all 0 before its first refresh. -/
def telemetryOf (s : State) (die : Nat) : Telemetry :=
  match s.telemetry.find? (fun t => t.1 == die) with
  | some t => t.2
  | none => { temp := 0, power := 0, energy := 0, csram := 0, package := 0 }

def tpeakOf (s : State) (die : Nat) : Nat :=
  match s.tpeak.find? (fun t => t.1 == die) with
  | some t => t.2
  | none => 0

def setTpeak (s : State) (die v : Nat) : State := { s with tpeak := (die, v) :: s.tpeak.filter (fun t => t.1 != die) }

/-- The governor's check at a refresh (R446): temperatures in 1/16 degree, flow in 0.01 L/min. -/
def governor (s : State) : State :=
  let hot (n : Nat) : Bool := s.telemetry.any (fun t => decide (n ≤ t.2.temp.toNat))
  let p := ctlGet s 0x801000
  let inlet := bits p 15 0
  let flow := bits p 47 32
  if hot 1840 then
    -- every context ends, and the device log records it under a kind that no rule names (log 7)
    let s := (s.ctxs.map (·.id)).foldl endCtx s
    let (k, s) := draw s
    logLocated { s with shut := true } none (bits k.toNat 2 0) 0 8
  else if hot 1680 then setCap s 320
  else if decide (640 < inlet) || decide (flow < 600) then setCap s 1280
  else if decide (512 < inlet) || decide (flow < 750) then setCap s 1280
  else setCap s 2560

/-- The block of a die after measurements: energy and corrected errors add up, the second without passing its largest value
(R445). -/
def measured (s : State) (die : Nat) (t : Telemetry) : Telemetry :=
  let old := telemetryOf s die
  let counted := match s.csram.find? (fun c => c.1 == die) with | some c => c.2 | none => 0
  { t with energy := old.energy + t.energy, csram := BitVec.ofNat 32 (min (2 ^ 32 - 1) (old.csram.toNat + counted + t.csram.toNat)) }

/-- A die's telemetry block takes new measurements (R445). -/
def refresh (s : State) (die : Nat) (t : Telemetry) : State :=
  let s := { s with telemetry := (die, measured s die t) :: s.telemetry.filter (fun x => x.1 != die),
                    csram := s.csram.filter (fun c => c.1 != die) }
  let s := setTpeak s die (max (tpeakOf s die) t.temp.toNat)
  governor (ctlSet s 0x801000 (bits t.package.toNat 47 0))

/-- R445, R446 TELEMETRY_REFRESH. -/
def execTelemetryRefresh (die : Nat) (t : Telemetry) (s : State) : Host.Outcome State Fault Refusal :=
  .next (if die < 10 then refresh s die t else s)

/-- Word i of a die's telemetry block (R445). -/
def telemetryWord (s : State) (die i : Nat) : Nat :=
  let t := telemetryOf s die
  match i with
  | 0 => t.temp.toNat + tpeakOf s die * 2 ^ 16 + t.power.toNat * 2 ^ 32
  | 2 => t.energy.toNat
  | 3 => t.csram.toNat + bits (ctlGet s (0x800018 + 0x100 * die)) 63 32 * 2 ^ 32
  | _ => 0

/-- A read of telemetry word 0 starts the peak afresh at the temperature now (R445). -/
def peakRead (s : State) (die : Nat) : State := setTpeak s die (telemetryOf s die).temp.toNat

/-- R445 TPEAK_READ: the read of a die's first telemetry word, at IO0's port. -/
def execTpeakRead (die : Nat) (s : State) : Host.Outcome State Fault Refusal :=
  let s := drainWrites s 0
  .next (if die < 10 then peakRead (respond s 16 2 (leBytes 8 (telemetryWord s die 0)) 0) die else s)

/-- R439 LANE_FAILURE: a spare lane comes into use and the die's telemetry counts it. -/
def execLaneFailure (die : Nat) (s : State) : Host.Outcome State Fault Refusal :=
  let off := 0x800018 + 0x100 * die
  .next (if die < 10 then ctlSet s off (setBits (ctlGet s off) 63 32 (bits (ctlGet s off) 63 32 + 1)) else s)

/-! ## HBM repair (R440) -/

def setRepairStatus (s : State) (st : Nat) : State := setCmd s 0x400C00 63 62 61 1 st

/-- A repair starts or is refused; whether a spare is left is free (log 7). -/
def startRepair (s : State) (word : Nat) : State :=
  if bits (ctlGet s 0x400C00) 62 61 == 1 then s
  else
    let s := ctlSet s 0x400C00 (setBits (ctlGet s 0x400C00) 1 0 word)
    if word % 4 == 3 || !inHbm (ctlGet s 0x400C08) then setRepairStatus s 3
    else
      let (x, s) := draw s
      setRepairStatus s (if bit x.toNat 0 then 2 else 1)

def finishRepair (s : State) : Option State :=
  if bits (ctlGet s 0x400C00) 62 61 == 1 then some (setRepairStatus s 0) else none

/-- R440 HBM_REPAIR. -/
def execHbmRepair (word : Word) (s : State) : Host.Outcome State Fault Refusal := .next (startRepair s word.toNat)
/-- R440 HBM_REPAIR_COMPLETE: stored bytes stay, poison stays. -/
def execHbmRepairComplete (s : State) : Host.Outcome State Fault Refusal := orStay s (finishRepair s)

/-! ## UALink ports (R418) -/

def setPort (s : State) (p : Nat) (f : PortSt → PortSt) : State :=
  { s with regs := { s.regs with ports := s.regs.ports.modify p f } }

/-- R418 UALINK_PORT_DOWN. -/
def execUalinkPortDown (port : Nat) (s : State) : Host.Outcome State Fault Refusal :=
  .next (setPort s port (fun p => { p with trained := false, up := false }))
/-- R418 UALINK_PORT_UP. -/
def execUalinkPortUp (port : Nat) (s : State) : Host.Outcome State Fault Refusal :=
  .next (setPort s port (fun p => { p with trained := true, up := !p.dis }))

def portWord (s : State) (p : Nat) : Nat :=
  match s.regs.ports[p]? with
  | some x => b2n x.up + b2n x.dis * 2 + x.nerr.toNat * 2 ^ 32
  | none => 0

/-! ## Reading the control aperture -/

/-- Four entries of the core map of a die from logical site l on (R344). -/
def coreMapWord (s : State) (die l : Nat) : Nat :=
  sumNat ((List.range 4).map (fun i =>
    if l + i < 168 then (physOf s die (l + i) + b2n (siteAvail s die (l + i)) * 2 ^ 8) * 2 ^ (16 * i) else 0))

/-- The 8-byte word at an offset of the control aperture as it reads (R406). -/
def apertureWord (s : State) (off : Nat) : Nat :=
  if decide (0x100000 ≤ off) && decide (off < 0x102000) then queueWord s ((off - 0x100000) / 32) (off % 32 / 8)
  else if decide (0x200000 ≤ off) && decide (off < 0x208000) && decide (off % 0x1000 < 0x150) then
    coreMapWord s ((off - 0x200000) / 0x1000) (off % 0x1000 / 2)
  else if decide (0x700100 ≤ off) && decide (off < 0x700180) then portWord s ((off - 0x700100) / 8)
  else if decide (0x800000 ≤ off) && decide (off < 0x800A00) then
    (if off % 0x100 < 32 then telemetryWord s ((off - 0x800000) / 0x100) (off % 0x100 / 8) else 0)
  else match off with
    | 0x300000 => s.regs.pool + tokensUsed s % 4096 * 2 ^ 32
    | 0x300008 => s.regs.cap
    | 0x300028 => bits (ctlGet s off) 31 0 + s.regs.drop.toNat * 2 ^ 32
    | 0x300030 => s.regs.evwr.toNat + bits (ctlGet s off) 63 32 * 2 ^ 32
    | 0x400908 => bits (ctlGet s off) 31 0 + s.regs.devdrop.toNat * 2 ^ 32
    | 0x400910 => s.regs.devwr.toNat + bits (ctlGet s off) 63 32 * 2 ^ 32
    | 0x500008 => imageWord s.patch
    | 0x500010 => s.regs.patchEn.toNat
    | 0x500248 => s.regs.nonce.toNat
    | 0x700008 => s.regs.io1pending.getD s.regs.io1mode
    | _ => ctlGet s off

/-- A request that the control aperture takes: 4 or 8 bytes, naturally aligned, inside (R406). -/
def apertureOk (off len size : Nat) : Bool := (len == 4 || len == 8) && off % len == 0 && decide (off + len ≤ size)

/-- The host reads a register through a port (R406). -/
def registerReads (s : State) (port off len : Nat) : State :=
  if !apertureOk off len (2 ^ 24) then respond s (16 + port) 2 [] 1
  else
    let w := off / 8 * 8
    let s' := respond s (16 + port) 2 (((leBytes 8 (apertureWord s w)).drop (off % 8)).take len) 0
    -- reading the word that holds tpeak resets it
    if decide (0x800000 ≤ w) && decide (w < 0x800A00) && w % 0x100 == 0 then peakRead s' ((w - 0x800000) / 0x100) else s'

/-! ## Writing the control aperture -/

/-- Bits of the 8-byte word at an offset that software may store (R406): registers with no behaviour on a store. -/
def storedBits (off : Nat) : Nat :=
  let all := ones 64
  if decide (0x200000 ≤ off) && decide (off < 0x208000) && off % 0x1000 == 0x200 then 0xFFFF
  else if decide (0x500200 ≤ off) && decide (off < 0x500240) then all
  else if decide (0x608000 ≤ off) && decide (off < 0x608400) then
    (match off % 64 / 8 with | 2 => ones 32 | 3 => 0 | _ => all)
  else if decide (0x640000 ≤ off) && decide (off < 0x660000) then 0x87FF87FF87FF87FF
  else if decide (0x701000 ≤ off) && decide (off < 0x702000) then 0x000FFFFF000FFFFF
  else if decide (0x702000 ≤ off) && decide (off < 0x702800) then
    (match off % 32 / 8 with | 0 => 0x7BFF | 3 => 0 | _ => all)
  else match off with
    | 0x300020 | 0x400000 | 0x400900 => ones 56
    | 0x300030 | 0x400910 => ones 32 * 2 ^ 32
    | 0x400008 => ones 17
    | 0x400010 => ones 18
    | 0x400800 => ones 44 * 2 ^ 12
    | 0x400808 => 0x0000FFFF000000FF
    | 0x400840 => ones 30 * 2 ^ 34
    | 0x400848 | 0x400850 | 0x400888 | 0x4008C8 | 0x4008D0 | 0x400C08 => all
    | 0x400880 => ones 16 * 2 ^ 48
    | 0x4008C0 => 0x71FFFFFF
    | 0x400C00 => 3
    | 0x500000 => 0x0000FFFF00030000
    | 0x500100 => 0x0000FFF000000001
    | 0x500240 => 3
    | 0x700000 => 0x103FF
    | _ => 0

/-- x with the bits of a mask taken from y. -/
def mergeBits (x y mask : Nat) : Nat := Nat.xor x (Nat.land (Nat.xor x y) mask)

/-- A ring length written: a power of two from 16 to 2^24, anything else stores 0 (R352). -/
def ringLen (n : Nat) : Nat := if isPow2 n && decide (16 ≤ n) && decide (n ≤ 2 ^ 24) then n else 0

/-- A byte of the region table written (R360). -/
def regionStored (b : Nat) : Nat := if b % 4 == 3 then b % 32 - 3 else b % 32

/-- The command that a go bit starts, by the word that holds it. -/
def startCommand (s : State) (off word : Nat) : State :=
  match off with
  | 0x400010 => (match bits word 17 16 with | 0 => createCtx s word | 1 => destroyCtx s word | _ => setCtxStatus s 2)
  | 0x400400 => commitRegions s
  | 0x400808 => startShootdown s word
  | 0x400840 => (match bits word 35 34 with | 0 => saveTeams s word | 1 => saveContext s word | _ => setSaveStatus s 3)
  | 0x400880 => restoreImage s word
  | 0x4008C0 => takeAction s word (bits word 30 28)
  | 0x400C00 => startRepair s word
  | 0x500000 => patchCommand s word (bits word 17 16)
  | 0x500100 => firmwareCommand s word (bit word 0)
  | 0x500240 => ownerCommand s (bits word 1 0)
  | _ => if decide (0x200000 ≤ off) && decide (off < 0x208000) then swapSites s ((off - 0x200000) / 0x1000) word else s

/-- Place of the go bit in the word at an offset. -/
def goBit (off : Nat) : Option Nat :=
  match off with
  | 0x400010 | 0x500000 | 0x500100 | 0x500240 => some 31
  | 0x400400 => some 0
  | 0x400808 | 0x4008C0 | 0x400C00 => some 63
  | 0x400840 => some 33
  | 0x400880 => some 47
  | _ => if decide (0x200000 ≤ off) && decide (off < 0x208000) && off % 0x1000 == 0x200 then some 16 else none

/-- The status of the command whose go bit stands at an offset is `in progress`. -/
def commandBusy (s : State) (off : Nat) : Bool :=
  match goBit off with
  | some g => bit (ctlGet s off) g
  | none => false

/-- A write to an 8-byte word of the aperture: the word as the write leaves it, and which bits it wrote. -/
def wordWrite (s : State) (off new mask : Nat) (ctxOk : Nat → Bool) : State :=
  if decide (0x100000 ≤ off) && decide (off < 0x102000) then queueWrite s ((off - 0x100000) / 32) (off % 32 / 8) new mask ctxOk
  else if decide (0x110000 ≤ off) && decide (off < 0x110200) then
    (List.range 8).foldl (fun s i => if bit mask (8 * i) then
      membershipWrite s ((off - 0x110000) / 16) (off % 16 + i) (bits new (8 * i + 7) (8 * i)) else s) s
  else if decide (0x200000 ≤ off) && decide (off < 0x208000) && decide (off % 0x1000 < 0x150) then
    (List.range 4).foldl (fun s i => if bit mask (16 * i + 8) then
      setAvail s ((off - 0x200000) / 0x1000) (off % 0x1000 / 2 + i) (bit new (16 * i + 8)) else s) s
  else if decide (0x401000 ≤ off) && decide (off < 0x401400) then
    (List.range 8).foldl (fun s i => if bit mask (8 * i) then
      ctlSet s off (setBits (ctlGet s off) (8 * i + 7) (8 * i) (regionStored (bits new (8 * i + 7) (8 * i)))) else s) s
  else if decide (0x700100 ≤ off) && decide (off < 0x700180) then
    (if bit mask 1 then setPort s ((off - 0x700100) / 8) (fun p => { p with dis := bit new 1, up := p.trained && !bit new 1 }) else s)
  else match off with
    | 0x300000 => if bit mask 0 then setPool s (bits new 11 0) else s
    | 0x300028 | 0x400908 => if bit mask 0 then ctlSet s off (ringLen (bits new 31 0)) else s
    | 0x700008 => if bit mask 0 then io1Mode s (bits new 1 0) else s
    | _ =>
      let busy := commandBusy s off
      let s := ctlSet s off (mergeBits (ctlGet s off) new (Nat.land mask (storedBits off)))
      match goBit off with
      | some g => if bit mask g && bit new g && !busy then startCommand s off new else s
      | none => s

/-- A write of 4 or 8 bytes (R406). -/
def registerWrites (s : State) (off len : Nat) (value : Nat) (word : Nat) (ctxOk : Nat → Bool) : State :=
  let sh := 8 * (off % 8)
  let mask := ones (8 * len) * 2 ^ sh
  wordWrite s (off / 8 * 8) (mergeBits word (value % 2 ^ (8 * len) * 2 ^ sh) mask) mask ctxOk

/-- The physical function writes a register (R406). -/
def hostWrites (s : State) (off len value : Nat) : State :=
  if apertureOk off len (2 ^ 24) then registerWrites s off len value (apertureWord s (off / 8 * 8)) (fun _ => true) else s

/-- R406 REGISTER_WRITE: a write at IO0's port. -/
def execRegisterWrite (off len : Nat) (value : Word) (s : State) : Host.Outcome State Fault Refusal :=
  .next (hostWrites (drainWrites s 0) off len value.toNat)

/-- A port has the control aperture and the mailbox: IO0's always, IO1's as a second host link (R405, R409). -/
def hostPort (s : State) (port : Nat) : Bool := port == 0 || (port == 1 && s.regs.io1mode == 1)

/-- IO1's port is a peer link, which has no such aperture: the request is unsupported (R409); no request comes from a port that
is disabled. -/
def noAperture (s : State) (r : InReq) : State := if r.port == 1 && s.regs.io1mode == 2 then refuseInbound s r else s

/-- A request to the control aperture of a port (R405, R406, R409): an AtomicOp is unsupported, a poisoned write discarded. -/
def controlRequests (s : State) (r : InReq) : State :=
  if !hostPort s r.port then noAperture s r
  else
    let s := drainWrites s r.port
    match r.kind with
    | .read => registerReads s r.port r.addr r.len
    | .write => if r.poisoned then countError s (16 + r.port) else hostWrites s r.addr r.data.length (ofBytes r.data)
    | _ => respond s (16 + r.port) 1 [] 1

/-! ## Virtual functions (R410) -/

/-- The queues that a virtual function holds, ascending. -/
def vfQueues (s : State) (v : Nat) : List Nat :=
  (List.range 256).filter (fun q => bit (ctlGet s (0x608000 + 64 * v + 32 + 8 * (q / 64))) (q % 64))

/-- A write to a virtual function's BAR0: the queue records of its queues in ascending order. -/
def vfWrites (s : State) (v off len value : Nat) : State :=
  if !apertureOk off len 65536 then s
  else
    match (vfQueues s v)[off / 32]? with
    | none => s
    | some q =>
      let base := vfField s v 2 15 0
      let at' := 0x100000 + 32 * q + off % 32
      registerWrites s at' len value (apertureWord s (at' / 8 * 8)) (fun c => decide (base ≤ c) && decide (c < base + vfField s v 2 31 16))

/-- The bytes of a virtual function's BAR0: word i of the record of each of its queues (R410); 0 beyond. -/
def vfReads (s : State) (v off len : Nat) : State :=
  if !apertureOk off len 65536 then respond s 16 2 [] 1
  else
    let word := match (vfQueues s v)[off / 32]? with | some q => queueWord s q (off % 32 / 8) | none => 0
    respond s 16 2 (((leBytes 8 word).drop (off % 8)).take len) 0

/-- A request to a virtual function's BAR0 (R410). -/
def vfControls (s : State) (v : Nat) (r : InReq) : State :=
  if 16 ≤ v then s
  else
    let s := drainWrites s 0
    match r.kind with
    | .read => vfReads s v r.addr r.len
    | .write => if r.poisoned then countError s 16 else vfWrites s v r.addr r.data.length (ofBytes r.data)
    | _ => respond s 16 1 [] 1

/-! ## Inbound requests -/

/-- The pieces of a request stand at the port's die (R412). -/
def enterPieces (s : State) (r : InReq) (runs : List (Nat × Nat)) : State :=
  let (wr, s) := reqUp s
  runs.foldl (fun s p =>
    let (id, s) := reqUp s
    { s with pieces := s.pieces ++ [{ id := id, port := r.port, wr := wr, kind := r.kind, home := homeDie s p.1, pa := p.1, len := p.2,
                                      data := if r.kind == .write then (r.data.drop (p.1 - r.addr)).take p.2 else r.data,
                                      relaxed := r.relaxed, idOrdered := r.idOrdered, requester := r.requester }] }) s

/-- A request that a port does not support: more than 512 bytes of payload, more than 4,096 bytes read (R404; log 36). -/
def tooLong (r : InReq) : Bool :=
  match r.kind with
  | .write => decide (512 < r.data.length)
  | .read => decide (4096 < r.len)
  | _ => false

/-- A request to the device-memory aperture of a PCIe port (R404, R407, R409, R412-R415). -/
def inbound (s : State) (r : InReq) : State :=
  let n := if r.kind == .write then r.data.length else r.len
  if 2 ≤ r.port || (r.port == 1 && s.regs.io1mode == 0) then s
  else if r.poisoned && r.kind != .read then (if r.kind == .write then countError s (16 + r.port) else refuseInbound s r)
  else if 2 ^ 40 < r.addr + n || n == 0 || tooLong r then refuseInbound s r
  else if r.port == 1 && s.regs.io1mode == 2 && !admitted s r.peer r.addr n (inClass r.kind) then refuseInbound s r
  else
    match r.kind with
    | .read => enterPieces s r (pieceRuns s true (n / 512 + 2) r.addr n)
    | .write => enterPieces s r (pieceRuns s false (n / 2048 + 2) r.addr n)
    | k => if pcieAtomic k && (n == 4 || n == 8) && r.addr % n == 0 then enterPieces s r [(r.addr, n)] else refuseInbound s r

/-- R407, R412 INBOUND_WRITE. -/
def execInboundWrite (r : InReq) (s : State) : Host.Outcome State Fault Refusal := .next (inbound s { r with kind := .write })
/-- R414 INBOUND_READ. -/
def execInboundRead (r : InReq) (s : State) : Host.Outcome State Fault Refusal := .next (inbound s { r with kind := .read })
/-- R414 INBOUND_ATOMIC. -/
def execInboundAtomic (r : InReq) (s : State) : Host.Outcome State Fault Refusal :=
  .next (if r.kind == .read || r.kind == .write then s else inbound s r)
/-- R413 PIECE_ACK. -/
def execPieceAck (piece : Nat) (s : State) : Host.Outcome State Fault Refusal := orStay s (ackPiece s piece)

/-- A request to a virtual function's BAR2 (R410). -/
def vfRequests (s : State) (v : Nat) (r : InReq) : State :=
  let n := if r.kind == .write then r.data.length else r.len
  let r := { r with port := 0 }
  if 16 ≤ v || vfField s v 1 63 0 < r.addr + n then refuseInbound s r
  else inbound s { r with addr := vfField s v 0 63 0 + r.addr }

/-- A request of a UALink peer (R416, R417, R420): performed when a window admits it, answered with an error otherwise. -/
def ualinkInbound (s : State) (r : InReq) : State :=
  let n := if r.kind == .write then r.data.length else r.len
  let refuse := respond (countError s r.port) r.port 4 [] 1
  match s.regs.ports[r.port]? with
  | none => s
  | some p =>
    if !p.up then s
    else if !bit (ctlGet s 0x700000) 16 || n == 0 || decide (256 < r.addr % 256 + n) || decide (2 ^ 40 < r.addr + n)
        || !admitted s r.peer r.addr n (inClass r.kind) then refuse
    else
      match r.kind with
      | .read => respond s r.port 4 (s.home.readList r.addr n) (if poisoned s r.addr n then 2 else 0)
      | .write => if r.poisoned then refuse else respond (storeInbound s r.addr r.data) r.port 4 [] 0
      | k =>
        if (inAtom k).isNone || !(n == 4 || n == 8) || r.addr % n != 0 || r.poisoned then refuse
        else match atomInbound s k r.addr n r.data with
          | (some old, s) => respond s r.port 4 (leBytes n old) 0
          | (none, s) => respond s r.port 4 [] 2

/-- R420 UALINK_INBOUND_REQUEST. -/
def execUalinkInboundRequest (r : InReq) (s : State) : Host.Outcome State Fault Refusal := .next (ualinkInbound s r)

/-! ## The mailbox and the agents beyond the links -/

/-- Bytes of the mailbox written (R408). -/
def mailboxWrites (s : State) (off : Nat) (data : List Byte) : State :=
  { s with regs := { s.regs with mailbox := s.regs.mailbox.writeList off (data.take (mailboxSize - off)) } }

def mailboxReads (s : State) (port off len : Nat) : State :=
  respond s (16 + port) 3 (s.regs.mailbox.readList off (min len (mailboxSize - off))) 0

/-- A request to the mailbox of a port (R405, R408, R409). -/
def mailboxRequests (s : State) (r : InReq) : State :=
  let n := if r.kind == .write then r.data.length else r.len
  if !hostPort s r.port then noAperture s r
  else if tooLong r || decide (mailboxSize < r.addr + n) then refuseInbound s r
  else
    let s := drainWrites s r.port
    match r.kind with
    | .read => mailboxReads s r.port r.addr r.len
    | .write => if r.poisoned then countError s (16 + r.port) else mailboxWrites s r.addr r.data
    | _ => refuseInbound s r

/-- The host masks a vector, or unmasks it; one that was raised meanwhile is then sent (R411). -/
def maskVector (s : State) (fn vec : Nat) (masked : Bool) : State :=
  let v := (fn, vec)
  if masked then
    if s.regs.msixMask.contains v then s else { s with regs := { s.regs with msixMask := v :: s.regs.msixMask } }
  else
    let was := s.regs.msixPend.contains v
    let s := { s with regs := { s.regs with msixMask := s.regs.msixMask.filter (· != v), msixPend := s.regs.msixPend.filter (· != v) } }
    if was then msi s fn vec else s

/-- An agent behind a link window writes a byte of its own (log 2). -/
def targetWrites (s : State) (pa : Nat) (b : Byte) : State := if inHbm pa then s else { s with home := s.home.set pa b }

/-- The loader gives a context a kernel record (R318, R319; log 4). -/
def loadRecord (s : State) (ctx handle : Nat) (record : List Byte) : State :=
  modCtx s ctx (fun x => { x with kernels := (handle, record) :: x.kernels.filter (fun k => k.1 != handle) })

/-- The loader gives a context the stepping of a code object (R317, R327; log 4). -/
def loadStepping (s : State) (ctx id stepping : Nat) : State :=
  modCtx s ctx (fun x => { x with steppings := (id, stepping) :: x.steppings.filter (fun k => k.1 != id) })

/-- A link answers a request that it has with poison (R403). -/
def poisonAnswer (s : State) (req : Nat) : State :=
  match s.outReqs.find? (fun r => r.id == req) with
  | some r => if waitsRoom s r then s else failReq s r true
  | none => s

end Sys2Proof.Machine
end

