-- ==== Sys2Proof/Machine/Pace.lean ====
section
/-! DEFINITION. What keeps a ready instruction from issuing, and what a short pace may read (spec 05 R155, 12 R324-R327): the
registers and predicates that an instruction reads and writes, the interlock against results on their way, the order of an
access with the thread's own reductions and link stores (04 R122, R126, R138), the latencies of the contract. -/
namespace Sys2Proof.Machine

/-! ## What an instruction reads and writes -/

/-- Opcodes with a register in field d that they do not write. -/
def readsOnlyD (op : Nat) : Bool := [0x91, 0x93, 0x95, 0x97, 0x98, 0x9B, 0x9D, 0xD9].contains op

/-- The v registers that a small-matrix instruction writes: CHOL the lower triangle (R268), LUP the matrix and the
permutation (R269), the others the first of their operands. -/
def smWrites (op : Nat) (f : Fld) : List (Nat × Nat) :=
  if op == 0xC8 then smFactor op f f.d.toNat
  else if op == 0xC9 then smSpans op f
  else (smSpans op f).take 1

/-- The registers that an instruction writes, by file (true: g), first number and count. A windowed call by n rows writes its
link to what was vn (R187). -/
def dstSpans (op : Nat) (f : Fld) : List (Bool × Nat × Nat) :=
  if 0xC0 ≤ op && op ≤ 0xCB then (smWrites op f).map (fun p => (false, p.1, p.2))
  else if op == 0x06 || op == 0x07 then [(false, f.d.toNat, 1)]
  else if readsOnlyD op || (op == 0x48 && fldBit f 6) then []
  else
    match (sigOf op).map (·.d) with
    | some FieldRole.v => [(false, f.d.toNat, if op == 0x75 || op == 0xCE then 2 else if op == 0xD8 && !fldBit f 6 then f.c.toNat + 1 else 1)]
    | some (FieldRole.vg b) => [(fldBit f b, f.d.toNat, if op == 0x9C then 2 else 1)]
    | _ => []

/-- The data registers of LDMX and STMX with the scale register after them, for the slot's width (R231). -/
def mxSpan (e : Env) (op : Nat) (f : Fld) : List (Bool × Nat × Nat) :=
  if op == 0x96 || op == 0x97 then [(false, f.d.toNat, mxRegs (max 1 (fdrOf (slotWord e.x f.slot.toNat)).w) + 1)] else []

/-- Predicates that an instruction reads, its guard among them (R154, R176, R179). -/
def predSrc (op : Nat) (f : Fld) : List Nat :=
  f.guard.toNat :: (match op with
    | 0x21 => [bits f.c.toNat 2 0]
    | 0x2D => [bits f.c.toNat 2 0]
    | 0x47 => [f.d.toNat, f.a.toNat, f.b.toNat]
    | 0x48 => if fldBit f 6 then [] else [1, 2, 3, 4, 5, 6, 7]
    | 0x4A => [f.a.toNat]
    | 0x7E => [f.a.toNat]
    | 0x7F => [f.a.toNat]
    | 0x80 => [f.a.toNat]
    | 0x81 => [f.a.toNat]
    | 0x82 => [f.a.toNat]
    | _ => [])

/-- Predicates that an instruction writes. -/
def predDst (op : Nat) (f : Fld) : List Nat :=
  match op with
  | 0x19 => [f.a.toNat]
  | 0x2D => [bits f.c.toNat 5 3]
  | 0x46 => [f.d.toNat]
  | 0x47 => [f.d.toNat]
  | 0x48 => if fldBit f 6 then [1, 2, 3, 4, 5, 6, 7] else []
  | 0x49 => [f.d.toNat]
  | 0x69 => [f.d.toNat]
  | 0x7E => [f.d.toNat]
  | 0x7F => [f.d.toNat]
  | 0x80 => [f.d.toNat]
  | 0xB2 => [f.c.toNat]
  | 0xB3 => [f.c.toNat]
  | _ => []

/-! ## The interlock (R155) -/

/-- The window instructions, which move the registers of the whole group (R186-R190). -/
def isWindowOp (op : Nat) : Bool := [0x06, 0x07, 0x09, 0x0B, 0x0C].contains op

/-- The registers that a returning part writes. -/
def partDest (p : Part) : Option (Bool × Nat × Nat) :=
  match p.form with
  | .typed g n _ => some (g, n, 1)
  | .pair g n => some (g, n, 2)
  | .packed g n _ _ _ => some (g, n, 1)
  | .mx n w => some (false, n, mxRegs w + 1)
  | .elem n _ => some (false, n, 1)
  | .word n => some (false, n, 1)
  | .wordPred _ _ => none
  | .none => none

/-- Two runs of registers of one file meet. -/
def spansMeet (x y : Bool × Nat × Nat) : Bool :=
  x.1 == y.1 && decide (x.2.1 < y.2.1 + y.2.2) && decide (y.2.1 < x.2.1 + x.2.2)

/-- A result on its way keeps an instruction that names its register from issuing (R155); a window operation waits for every
v register of its group, whose ring it turns (R97). -/
def partBlocks (op : Nat) (spans : List (Bool × Nat × Nat)) (lane : Nat) (p : Part) : Bool :=
  match partDest p with
  | some d => (isWindowOp op && !d.1) || ((d.1 || p.lane == lane) && spans.any (spansMeet d))
  | none => p.form != .none && (p.lane == lane || isWindowOp op)

/-- A cross-lane instruction (R218), whose mask is in g(c) (R219). -/
def isLaneOp (op : Nat) : Bool := 0x77 ≤ op && op ≤ 0x8B

/-- The g register with the mask of a cross-lane instruction. -/
def maskSpan (op : Nat) (f : Fld) : List (Bool × Nat × Nat) := if isLaneOp op then [(true, f.c.toNat, 1)] else []

/-- Registers that a thread's instruction names. -/
def namedSpans (e : Env) (op : Nat) (f : Fld) : List (Bool × Nat × Nat) := srcSpans op f ++ maskSpan op f ++ dstSpans op f ++ mxSpan e op f

/-- The bytes of the local space that an instruction accesses there (R87, R97): LDL, STL, local LDP and STP, local atomics. -/
def localSpan (e : Env) (op : Nat) (f : Fld) : Option (Nat × Nat) :=
  if op == 0x92 || op == 0x93 then some (effAddr e f, tyWidth f.slot.toNat / 8)
  else if (op == 0x94 || op == 0x95) && fldBit f 3 then
    match slotFor e f.slot.toNat 0 anyFormat with
    | .ok k => (streamCount k f.c.toNat).map (fun n => let x := streamSpan (srcA e f) (srcBz e f) k.w n; (x.1, x.2.2))
    | .error _ => none
  else if 0xA0 ≤ op && op ≤ 0xAF && fldBit f 5 then some (srcA e f, 8)
  else none

/-- Results of a small-matrix instruction that its unit holds keep an instruction of the group from issuing (R31, R155, R264)
where it needs the unit, names one of the registers or reads their bytes, moves the registers of the group, or reads what
comes with them: smst, s.sx and nf. -/
def unitBlocks (s : State) (e : Env) (op : Nat) (f : Fld) : Bool :=
  (core s e.t.die e.t.site).smu.any (fun u => u.uid == e.t.uid && u.group == e.g.idx
    && ((0xC0 ≤ op && op ≤ 0xCB) || isWindowOp op || (match u.lanes.find? (fun r => r.1 == e.lane) with
      | none => false
      | some r => op == 0x12 || op == 0x13 || op == 0xEF || (r.2.2.2.2.isSome && 0x51 ≤ op && op ≤ 0x8B)
        || r.2.1.any (fun p => (namedSpans e op f).any (spansMeet (false, p.1, 1))
          || (match localSpan e op f with
            | some (a, n) => let x := vAddr e.t.kern e.g e.lane p.1; decide (x < a + n) && decide (a < x + 8)
            | none => false)))))

/-- An operation's result that is not written holds the instruction back. -/
def resultBlocks (s : State) (e : Env) (op : Nat) (f : Fld) : Bool :=
  let spans := namedSpans e op f
  e.g.ops.any (fun o => !o.done && o.parts.any (partBlocks op spans e.lane)) || unitBlocks s e op f

/-! ## The thread's own reductions and link stores -/

/-- The bytes of the global space that a plain access reaches, and whether it stays in its thread's order by them alone. -/
def accessSpan (e : Env) (op : Nat) (f : Fld) : Option (Nat × Nat) :=
  if [0x90, 0x91, 0x98, 0x9A, 0x9B].contains op then some (effAddr e f, tyWidth f.slot.toNat / 8)
  else if op == 0x9C || op == 0x9D then some (effAddr e f, 16)
  else if op == 0x10 then some (srcA e f, tyWidth f.slot.toNat / 8)
  else none

/-- Instructions whose accesses stand behind every reduction and link store of their thread: packed and MX streams, discards
and write-backs, window images, deques, check reads, tile loads and stores, launches, and the rows of window operations. -/
def waitsForOwn (op : Nat) : Bool :=
  [0x94, 0x95, 0x96, 0x97, 0x9F, 0x16, 0xB0, 0xB1, 0xB2, 0xB3, 0xDA, 0xDB, 0xE6, 0xEB, 0xEC, 0xED, 0xEE].contains op || isWindowOp op

/-- Two runs of bytes touch one line. -/
def linesMeet (a n b m : Nat) : Bool :=
  decide (a / 128 ≤ (b + m - 1) / 128) && decide (b / 128 ≤ (a + n - 1) / 128)

/-- Where an address lies, whatever rights its page gives: its physical address and page type; none in a window or without a
translation. -/
def spotOf (s : State) (c : Ctx) (va : Nat) : Option (Nat × Nat) :=
  match findWindow c.wd va, leafOf s c va with
  | none, .ok l => some (l.base + (va - l.va), bits l.pte 8 7)
  | _, _ => none

/-- A reduction or link store of the thread that has not been performed stands before the access: it touches the same line
(R122), or both reach STRONG pages (R138). A local access to a stash byte, which may fill or dirty its sector (R101), stands
behind all of them. -/
def orderBlocks (s : State) (e : Env) (op : Nat) (f : Fld) : Bool :=
  if s.syncQ.isEmpty && s.outReqs.isEmpty then false
  else if waitsForOwn op || (match localSpan e op f with
      | some (a, n) => (List.range n).any (fun i => (stashMap e.t (a + i)).isSome)
      | none => false) then ownPending s e.c.w e.lane
  else
    match accessSpan e op f with
    | none => false
    | some (va, n) =>
      match spotOf s e.x va with
      | some (pa, ty) =>
        let mine (w : Where) (l : Nat) : Bool := w == e.c.w && l == e.lane
        s.syncQ.any (fun i => mine i.w i.lane && linesMeet pa n i.pa i.size)
          || s.outReqs.any (fun r => r.copy.isNone && mine r.w r.lane && (linesMeet pa n r.pa r.len || (ty == 3 && r.ty == 3)))
      | none => false

/-- A thread's next instruction is not ready (R26, R155). -/
def laneBlocked (s : State) (e : Env) (op : Nat) (f : Fld) : Bool :=
  resultBlocks s e op f || (guardTrue f e.th && orderBlocks s e op f)

/-! ## Short reads (R324-R327) -/

/-- The latency of a register writer on stepping A0 (R324); 0 for a writer that is interlocked whatever the pace. The table goes
by slot width and says it for one slot: of an instruction with two slots, CVT takes the wider of both, and SCALE and UNSCALE
the slot field's (the model's choice, log 13). -/
def latencyOf (e : Env) (op : Nat) (f : Fld) : Nat :=
  let width (n : Nat) : Nat := (fdrOf (slotWord e.x n)).w
  let by32 (a b : Nat) : Nat := if 32 < (if op == 0x6C then max (width f.slot.toNat) (width (f.c.toNat % 16)) else width f.slot.toNat) then b else a
  if op == 0x24 || op == 0x25 || op == 0x26 then 6
  else if op == 0x27 || op == 0x28 then (if tyWidth f.slot.toNat == 64 then 22 else 14)
  else if (0x20 ≤ op && op ≤ 0x4D) || [0x04, 0x05, 0x0D, 0x0E, 0x18].contains op then 4
  else if (0x51 ≤ op && op ≤ 0x5F) || (0x68 ≤ op && op ≤ 0x71) then by32 6 8
  else if 0x60 ≤ op && op ≤ 0x63 then by32 18 26
  else if 0x64 ≤ op && op ≤ 0x67 then by32 20 36
  else if 0x72 ≤ op && op ≤ 0x74 then by32 10 12
  else if op == 0x75 || op == 0x76 then 12
  else 0

/-- The stall count s of a pace field, as the distance that an issue adds (R155, R324). -/
def issueDistance (f : Fld) : Nat := max 1 (f.pace.toNat / 2)

/-- A thread of a team executes an object of the device's stepping, A0, whose pace fields count (R327). -/
def paced (e : Env) : Bool :=
  e.t.role == .compute && e.x.steppings.any (fun p => p.1 == e.th.cid.toNat && p.2 == 0)

/-- Local addresses of some registers of a thread (R95). -/
def regPlaces (e : Env) (spans : List (Bool × Nat × Nat)) : List Nat :=
  spans.flatMap (fun p => (List.range p.2.2).map (fun i =>
    if p.1 then gAddr e.t.kern e.g.idx (p.2.1 + i) else vAddr e.t.kern e.g e.lane (p.2.1 + i)))

/-- Places among some registers and predicates. -/
def placeIn (e : Env) (spans : List (Bool × Nat × Nat)) (preds : List Nat) (r : Recent) : Bool :=
  if r.pred then preds.contains r.place else (regPlaces e spans).contains r.place

/-- The place is a g register, which the threads of a group share. -/
def Recent.isG (e : Env) (r : Recent) : Bool :=
  !r.pred && decide (ubase e.t.kern e.g.idx ≤ r.place) && decide (r.place < ubase e.t.kern e.g.idx + 512)

/-- The places that a thread's instruction reads sooner than their last writer's latency (R326). -/
def shortReads (e : Env) (op : Nat) (f : Fld) : List Recent :=
  if f.pace == 0 || !paced e then []
  else e.th.recent.filter (fun r => decide (0 < r.left) && placeIn e (srcSpans op f ++ maskSpan op f ++ (if op == 0x97 then mxSpan e op f else [])) (predSrc op f) r)

/-- Whether each of some short reads returns the older value: a free bit, since R326 allows either. -/
def chooseOld : List Recent → State → List Recent × State
  | [], s => ([], s)
  | r :: rs, s =>
    let (n, s) := draw s
    let (os, s) := chooseOld rs s
    (if bit n.toNat 0 then r :: os else os, s)

/-- The value of a place of a thread. -/
def placeValue (s : State) (w : Where) (lane : Nat) (r : Recent) : Nat :=
  if r.pred then (match thread? s w lane with | some th => b2n (predOf th r.place) | none => 0)
  else match team? s w.uid with | some t => t.lmem.readN r.place 8 | none => 0

/-- A place of a thread set to a value. -/
def setPlace (w : Where) (lane : Nat) (s : State) (r : Recent) (v : Nat) : State :=
  if r.pred then modThread s w lane (setPred r.place (v % 2 == 1))
  else modTeam s w.uid (fun t => { t with lmem := t.lmem.writeN r.place 8 v })

/-- A short read: its lane, its entry and the value that the place really holds. -/
structure ShortRead where
  lane : Nat
  entry : Recent
  value : Nat
  deriving DecidableEq, Repr

/-- The short reads of an issue group that return older values. A g register returns one to all of its threads, and only if
all of them read it short. -/
def shortReadsOf (s : State) (c : Cur) (op : Nat) (f : Fld) : List ShortRead × State :=
  let es := c.lanes.filterMap (env? s c)
  let common (r : Recent) : Bool := es.all (fun e => (shortReads e op f).any (fun q => q.place == r.place && q.old == r.old && !q.pred))
  es.foldl (fun (o : List ShortRead × State) e =>
    let rs := (shortReads e op f).filter (fun r => !r.isG e || (common r && e.lane == c.lanes.headD 0))
    let (os, s') := chooseOld rs o.2
    (o.1 ++ os.map (fun r => { lane := e.lane, entry := r, value := placeValue s c.w e.lane r }), s')) ([], s)

/-- A thread has done an instruction that it issued, or that was held for it: it neither waits nor has faulted, and it has gone
on from the address. A WAITMEM that waits has issued all the same: the value comes later (R198, R324). -/
def laneDone (s : State) (w : Where) (pc op lane : Nat) : Bool :=
  match thread? s w lane with
  | some th =>
    (match th.status with
     | .waiting .monitor => true
     | .waiting _ => false
     | .heldLane _ _ _ _ => false
     | .heldWindow _ _ _ _ => false
     | .faulted => false
     | _ => th.pc.toNat != pc || [0x04, 0x05, 0x06, 0x07, 0x09, 0x18].contains op)
    && !(match s.lastFault with | some (ls, _) => ls.contains lane | none => false)
  | none => false

/-- The result of the instruction for a place comes later. -/
def resultLater (s : State) (w : Where) (lane op : Nat) (f : Fld) (e : Env) (r : Recent) : Bool :=
  [0xB2, 0xB3].contains op
  || (op == 0x10 && (match thread? s w lane with | some th => th.status == .waiting .monitor | none => false))
  || (match group? s w with
    | some g => g.ops.any (fun o => !o.done && (o.kind == .smu || o.parts.any (fun p => p.lane == lane && (match partDest p with
        | some d => placeIn e [d] [] r && placeIn e (dstSpans op f) [] r
        | none => false))))
    | none => false)

/-- The register words of the local space that an instruction itself stores to (R97). -/
def storedWords (e : Env) (op : Nat) (f : Fld) : List Nat :=
  if op == 0x92 || op == 0x94 then []
  else match localSpan e op f with
    | some (a, n) => (List.range ((a + n - 1) / 8 + 1 - a / 8)).map (fun i => 8 * (a / 8 + i))
    | none => []

/-- The place has been stored to by address. -/
def storedOver (ws : List Nat) (r : Recent) : Bool := !r.pred && ws.contains r.place

/-- The v registers of a thread that a window instruction reads from the backing store, or the link of a windowed call, have
their new values when it ends: it is interlocked (R187-R189, R324). -/
def windowSettles (e : Env) (op : Nat) (f : Fld) (r : Recent) : Bool :=
  if op == 0x09 || op == 0x0C then !r.pred && !r.isG e
  else placeIn e (dstSpans op f) [] r

/-- What a thread remembers after an instruction that it has done (R324, R325): entries come closer, and those of places that
an interlocked writer has written go. A writer of the latency table that would finish before an earlier, slower writer of
the same place is held back and finishes with it: the place keeps the older entry alone. One that finishes later leaves its
own entry beside. -/
def remember (s0 : State) (op : Nat) (f : Fld) (e : Env) (act : Bool) (stored : List Nat) (rs : List Recent) : List Recent :=
  let d := issueDistance f
  let n := if paced e then latencyOf e op f else 0
  let dst := if act then dstSpans op f ++ (if op == 0x96 then mxSpan e op f else []) else []
  let preds := if act then (predDst op f).filter (· != 0) else []
  let gone (r : Recent) : Bool :=
    if isWindowOp op then windowSettles e op f r
    else storedOver stored r || (n == 0 && placeIn e dst preds r)
  let near := (rs.filter (fun r => !gone r)).filterMap (fun r => if r.left ≤ d then none else some { r with left := r.left - d })
  let entry (pred : Bool) (place : Nat) : Recent :=
    let r : Recent := { pred := pred, place := place, old := 0, left := n - d }
    { r with old := placeValue s0 e.c.w e.lane r }
  let slower (r : Recent) : Bool := near.any (fun q => q.pred == r.pred && q.place == r.place && decide (n - d ≤ q.left))
  if n ≤ d then near
  else near ++ ((regPlaces e dst).map (entry false) ++ preds.map (entry true)).filter (fun r => !slower r)

/-- The cross-lane or window instruction at which a thread was held, which has now executed for it (R33, R186): its opcode and
fields. -/
def heldInstr (th : Thread) (op : Nat) : Option (Nat × Fld) :=
  match th.status with
  | .heldLane _ f _ _ => some (op, f)
  | .heldWindow o f _ _ => some (o, f)
  | _ => none

/-- After an instruction: places that were read short hold their values again, unless the instruction has written them; and
the threads that have done it, those that it was held for among them, remember what they wrote. `s1` is the state in which
it ran. -/
def afterShort (s0 s1 : State) (c : Cur) (op : Nat) (f : Fld) (act : List Nat) (shorts : List ShortRead) (s : State) : State :=
  let stored (l : Nat) : List Nat :=
    if act.contains l && laneDone s c.w c.pc op l then (match env? s1 c l with | some e => storedWords e op f | none => []) else []
  let s' := shorts.foldl (fun s' x =>
    match env? s0 c x.lane with
    | none => s'
    | some e =>
      let writer := if x.entry.isG e then act.headD 0 else x.lane
      if storedOver (c.lanes.flatMap stored) x.entry || (act.contains writer && laneDone s c.w c.pc op writer
          && placeIn e (dstSpans op f) (predDst op f) x.entry && !resultLater s c.w x.lane op f e x.entry) then s'
      else setPlace c.w x.lane s' x.entry x.value) s
  (List.range (match group? s0 c.w with | some g => g.threads.length | none => 0)).foldl (fun s' l =>
    match env? s0 c l with
    | none => s'
    | some e =>
      let ran : Option (Nat × Fld) := if c.lanes.contains l then some (op, f) else heldInstr e.th op
      match ran with
      | some (o, g) =>
        if laneDone s c.w e.th.pc.toNat o l then
          modThread s' c.w l (fun th => { th with recent := remember s0 o g e (if c.lanes.contains l then act.contains l else guardTrue g e.th) (stored l) th.recent })
        else s'
      | none => s') s'

/-- An instruction issues for its issue group under R155 and R324-R327: short reads see older values, and what it writes may
be read short. Where no thread of the group executes paced code, this is the instruction alone. -/
def runPaced (run : State → Host.Outcome State Fault Refusal) (c : Cur) (op : Nat) (f : Fld) (s : State) : Host.Outcome State Fault Refusal :=
  let es := (List.range (match group? s c.w with | some g => g.threads.length | none => 0)).filterMap (env? s c)
  if es.all (fun e => !paced e && e.th.recent.isEmpty) then run s
  else
    let (shorts, s1) := shortReadsOf s c op f
    let s1 := shorts.foldl (fun s x => setPlace c.w x.lane s x.entry x.entry.old) s1
    let act := active s1 c f
    match run s1 with
    | .next s' => .next (afterShort s s1 c op f act shorts s')
    | o => o

end Sys2Proof.Machine
end

