-- ==== Sys2Proof/Machine/Integer.lean ====
section
/-! DEFINITION. The integer class: arithmetic (spec 06 R176), logic and shifts (R177), bit fields (R178) and predicates
(R179), typed under R174. -/
namespace Sys2Proof.Machine

/-- A result clamped to a type's range (R174). -/
def saturate (t : Nat) (y : Int) : Int :=
  let w := tyWidth t
  let hi : Int := if tySigned t then ((2 ^ (w - 1) : Nat) : Int) - 1 else ((2 ^ w : Nat) : Int) - 1
  let lo : Int := if tySigned t then -((2 ^ (w - 1) : Nat) : Int) else 0
  max lo (min hi y)

/-- The quotient of IDIV: truncated toward zero; by 0, all ones (R176). -/
def idivVal (t : Nat) (a b : Int) : Int :=
  if b = 0 then (if tySigned t then -1 else ((2 ^ tyWidth t : Nat) : Int) - 1) else Int.tdiv a b

/-- The remainder of IREM; by 0, a (R176). -/
def iremVal (a b : Int) : Int := if b = 0 then a else Int.tmod a b

/-- a rotated left by k < w within w bits. -/
def rotl (w a k : Nat) : Nat := (a * 2 ^ k + a / 2 ^ (w - k)) % 2 ^ w

/-- Position and length of the bit-field instructions, from source b (R178). -/
def fieldPos (b : Nat) : Nat := bits b 5 0
def fieldLen (b : Nat) : Nat := min (bits b 14 8) 64

/-- d := op(a, b) on operands read under the type (R174, R176). -/
def typed3 (op : Nat) (f : Fld) (s : State) (k : Nat → Int → Int → Int) : Host.Outcome State Fault Refusal :=
  runPure op f s (fun e =>
    let t := f.slot.toNat
    .ok [dstEff f (tyWrite t (k t (tyRead t (srcA e f)) (tyRead t (srcB e f))))])

/-- d := op(b) on an operand read under the type. -/
def typedB (op : Nat) (f : Fld) (s : State) (k : Nat → Int → Int) : Host.Outcome State Fault Refusal :=
  runPure op f s (fun e => let t := f.slot.toNat; .ok [dstEff f (tyWrite t (k t (tyRead t (srcB e f))))])

/-- d := op(a, b) on the w bits of the operands as naturals (R177). -/
def bits3 (op : Nat) (f : Fld) (s : State) (k : Nat → Nat → Nat → Nat) : Host.Outcome State Fault Refusal :=
  runPure op f s (fun e =>
    let t := f.slot.toNat
    let w := tyWidth t
    .ok [dstEff f (tyWrite t ((k w (srcA e f % 2 ^ w) (srcB e f % 2 ^ w) : Nat) : Int))])

/-- d := op(b) on the w bits of the operand as a natural (R177, R178). -/
def bitsB (op : Nat) (f : Fld) (s : State) (k : Nat → Nat → Nat) : Host.Outcome State Fault Refusal :=
  runPure op f s (fun e =>
    let t := f.slot.toNat
    let w := tyWidth t
    .ok [dstEff f (tyWrite t ((k w (srcB e f % 2 ^ w) : Nat) : Int))])

/-- d := a shifted by the 64 bits of source b (R177). -/
def shift3 (op : Nat) (f : Fld) (s : State) (k : Nat → Nat → Nat → Nat) : Host.Outcome State Fault Refusal :=
  runPure op f s (fun e =>
    let t := f.slot.toNat
    let w := tyWidth t
    .ok [dstEff f (tyWrite t ((k w (srcA e f % 2 ^ w) (srcB e f) : Nat) : Int))])

/-- R176 MOV: b. -/
def execMov (f : Fld) (s : State) : Host.Outcome State Fault Refusal :=
  typedB 0x20 f s (fun _ b => b)

/-- R176 SEL: a where pc is true, else b. -/
def execSel (f : Fld) (s : State) : Host.Outcome State Fault Refusal :=
  runPure 0x21 f s (fun e => .ok [dstEff f (tyWrite f.slot.toNat
    (if predOf e.th (bits f.c.toNat 2 0) then tyRead f.slot.toNat (srcA e f) else tyRead f.slot.toNat (srcB e f)))])

/-- R176 IADD: a + b. -/
def execIadd (f : Fld) (s : State) : Host.Outcome State Fault Refusal :=
  typed3 0x22 f s (fun _ a b => a + b)

/-- R176 ISUB: a - b. -/
def execIsub (f : Fld) (s : State) : Host.Outcome State Fault Refusal :=
  typed3 0x23 f s (fun _ a b => a - b)

/-- R176 IMUL: a × b. -/
def execImul (f : Fld) (s : State) : Host.Outcome State Fault Refusal :=
  typed3 0x24 f s (fun _ a b => a * b)

/-- R176 IMULH: the high half of the 2w-bit product. -/
def execImulh (f : Fld) (s : State) : Host.Outcome State Fault Refusal :=
  typed3 0x25 f s (fun t a b => (a * b) / ((2 ^ tyWidth t : Nat) : Int))

/-- R176 IDIV: a / b truncated toward zero; by 0: all ones. -/
def execIdiv (f : Fld) (s : State) : Host.Outcome State Fault Refusal :=
  typed3 0x27 f s (fun t a b => idivVal t a b)

/-- R176 IREM: a - b × trunc(a / b); by 0: a. -/
def execIrem (f : Fld) (s : State) : Host.Outcome State Fault Refusal :=
  typed3 0x28 f s (fun _ a b => iremVal a b)

/-- R176 IMIN: the lesser. -/
def execImin (f : Fld) (s : State) : Host.Outcome State Fault Refusal :=
  typed3 0x2B f s (fun _ a b => if b < a then b else a)

/-- R176 IMAX: the greater. -/
def execImax (f : Fld) (s : State) : Host.Outcome State Fault Refusal :=
  typed3 0x2C f s (fun _ a b => if a < b then b else a)

/-- R176 IADDS: a + b, saturated. -/
def execIadds (f : Fld) (s : State) : Host.Outcome State Fault Refusal :=
  typed3 0x2E f s (fun t a b => saturate t (a + b))

/-- R176 ISUBS: a - b, saturated. -/
def execIsubs (f : Fld) (s : State) : Host.Outcome State Fault Refusal :=
  typed3 0x2F f s (fun t a b => saturate t (a - b))

/-- R176 IMAD: a × b + c. -/
def execImad (f : Fld) (s : State) : Host.Outcome State Fault Refusal :=
  runPure 0x26 f s (fun e =>
    let t := f.slot.toNat
    .ok [dstEff f (tyWrite t (tyRead t (srcA e f) * tyRead t (srcB e f) + tyRead t (srcC e f)))])

/-- R176 INEG: −b. -/
def execIneg (f : Fld) (s : State) : Host.Outcome State Fault Refusal :=
  typedB 0x29 f s (fun _ b => -b)

/-- R176 IABS: |b|, where the most negative value gives itself. -/
def execIabs (f : Fld) (s : State) : Host.Outcome State Fault Refusal :=
  typedB 0x2A f s (fun _ b => if b < 0 then -b else b)

/-- R176 IADC: a + b + carry, with the carry-out. -/
def execIadc (f : Fld) (s : State) : Host.Outcome State Fault Refusal :=
  runPure 0x2D f s (fun e =>
    let t := f.slot.toNat
    let ci := predOf e.th (bits f.c.toNat 2 0)
    let a := srcA e f
    let b := srcB e f
    .ok [dstEff f (tyWrite t (tyRead t a + tyRead t b + (b2n ci : Nat))), .p (bits f.c.toNat 5 3) (carryOut (tyWidth t) a b ci)])

/-- R176 LEA: (a as 64 bits + b × 2^s) mod 2^64. -/
def execLea (f : Fld) (s : State) : Host.Outcome State Fault Refusal :=
  runPure 0x30 f s (fun e => .ok [dstEff f (ofInt 64
    ((srcA e f : Int) + tyRead f.slot.toNat (srcB e f) * ((2 ^ f.c.toNat : Nat) : Int)))])

/-- R176 LEAR: (address of this instruction + b) mod 2^64. -/
def execLear (f : Fld) (s : State) : Host.Outcome State Fault Refusal :=
  runPure 0x31 f s (fun e => .ok [dstEff f (ofInt 64 ((e.c.pc : Int) + tyRead f.slot.toNat (srcB e f)))])

/-- R177 AND: a and b. -/
def execAnd (f : Fld) (s : State) : Host.Outcome State Fault Refusal :=
  bits3 0x32 f s (fun _ a b => Nat.land a b)

/-- R177 OR: a or b. -/
def execOr (f : Fld) (s : State) : Host.Outcome State Fault Refusal :=
  bits3 0x33 f s (fun _ a b => Nat.lor a b)

/-- R177 XOR: a ⊕ b. -/
def execXor (f : Fld) (s : State) : Host.Outcome State Fault Refusal :=
  bits3 0x34 f s (fun _ a b => Nat.xor a b)

/-- R177 ANDN: a and not b. -/
def execAndn (f : Fld) (s : State) : Host.Outcome State Fault Refusal :=
  bits3 0x36 f s (fun w a b => Nat.land a (ones w - b))

/-- R177 NOT: not b. -/
def execNot (f : Fld) (s : State) : Host.Outcome State Fault Refusal :=
  bitsB 0x35 f s (fun w b => ones w - b)

/-- R177 LOGIC3: bit i is tt[4·d_i + 2·a_i + b_i], d read before the instruction. -/
def execLogic3 (f : Fld) (s : State) : Host.Outcome State Fault Refusal :=
  runPure 0x37 f s (fun e =>
    let t := f.slot.toNat
    let w := tyWidth t
    let d := srcD e f
    let a := srcA e f
    let b := srcB e f
    .ok [dstEff f (tyWrite t (((List.range w).foldl (fun r i =>
      if truth3 f.c.toNat (bit d i) (bit a i) (bit b i) then r + 2 ^ i else r) 0 : Nat) : Int))])

/-- R177 SHL: a × 2^n; 0 when n ≥ w. -/
def execShl (f : Fld) (s : State) : Host.Outcome State Fault Refusal :=
  shift3 0x38 f s (fun w a n => if w ≤ n then 0 else a * 2 ^ n)

/-- R177 SHR: floor(a / 2^n); 0 when n ≥ w. -/
def execShr (f : Fld) (s : State) : Host.Outcome State Fault Refusal :=
  shift3 0x39 f s (fun w a n => if w ≤ n then 0 else a / 2 ^ n)

/-- R177 ROL: a rotated left by n mod w. -/
def execRol (f : Fld) (s : State) : Host.Outcome State Fault Refusal :=
  shift3 0x3B f s (fun w a n => rotl w a (n % w))

/-- R177 ROR: a rotated right by n mod w. -/
def execRor (f : Fld) (s : State) : Host.Outcome State Fault Refusal :=
  shift3 0x3C f s (fun w a n => rotl w a ((w - n % w) % w))

/-- R177 SAR: floor(a′ / 2^n) of a in two's complement whatever the type. -/
def execSar (f : Fld) (s : State) : Host.Outcome State Fault Refusal :=
  runPure 0x3A f s (fun e =>
    let t := f.slot.toNat
    let w := tyWidth t
    .ok [dstEff f (tyWrite t (sext (srcA e f) w / ((2 ^ (min (srcB e f) w) : Nat) : Int)))])

/-- R177 DSHR: the 2w-bit value a:c shifted right by n mod 2w. -/
def execDshr (f : Fld) (s : State) : Host.Outcome State Fault Refusal :=
  runPure 0x3D f s (fun e =>
    let t := f.slot.toNat
    let w := tyWidth t
    .ok [dstEff f (tyWrite t ((((srcA e f % 2 ^ w) * 2 ^ w + srcC e f % 2 ^ w) / 2 ^ (srcB e f % (2 * w)) : Nat) : Int))])

/-- R178 BFX: the field of a at pos, of len bits, zero-extended. -/
def execBfx (f : Fld) (s : State) : Host.Outcome State Fault Refusal :=
  runPure 0x3E f s (fun e =>
    let b := srcB e f
    .ok [dstEff f (srcA e f / 2 ^ fieldPos b % 2 ^ fieldLen b)])

/-- R178 BFXS: the same field sign-extended from its bit len − 1; 0 when len = 0. -/
def execBfxs (f : Fld) (s : State) : Host.Outcome State Fault Refusal :=
  runPure 0x3F f s (fun e =>
    let b := srcB e f
    .ok [dstEff f (ofInt 64 (sext (srcA e f / 2 ^ fieldPos b) (fieldLen b)))])

/-- R178 BFI: vd with bits pos to pos + len − 1 replaced by the low bits of a. -/
def execBfi (f : Fld) (s : State) : Host.Outcome State Fault Refusal :=
  runPure 0x40 f s (fun e =>
    let b := srcB e f
    let m := Nat.land ((2 ^ fieldLen b - 1) * 2 ^ fieldPos b) (ones 64)
    let d := srcD e f
    .ok [dstEff f (d - Nat.land d m + Nat.land (srcA e f * 2 ^ fieldPos b) m)])

/-- R178 POPC: the number of ones. -/
def execPopc (f : Fld) (s : State) : Host.Outcome State Fault Refusal :=
  bitsB 0x41 f s (fun w b => popCount w b)

/-- R178 CLZ: leading zeros; w when b is 0. -/
def execClz (f : Fld) (s : State) : Host.Outcome State Fault Refusal :=
  bitsB 0x42 f s (fun w b => if b = 0 then w else w - 1 - Nat.log2 b)

/-- R178 CTZ: trailing zeros; w when b is 0. -/
def execCtz (f : Fld) (s : State) : Host.Outcome State Fault Refusal :=
  bitsB 0x43 f s (fun w b => if b = 0 then w else Nat.log2 (Nat.xor b (b - 1)))

/-- R178 BREV: the bits in reverse order. -/
def execBrev (f : Fld) (s : State) : Host.Outcome State Fault Refusal :=
  bitsB 0x44 f s (fun w b => revBits w b)

/-- R178 BSWAP: the bytes in reverse order. -/
def execBswap (f : Fld) (s : State) : Host.Outcome State Fault Refusal :=
  bitsB 0x45 f s (fun w b => revBytes (w / 8) b)

/-- R179 SETP: pd := a cc b. -/
def execSetp (f : Fld) (s : State) : Host.Outcome State Fault Refusal :=
  runPure 0x46 f s (fun e => .ok [.p f.d.toNat (compareCc f.c.toNat
    (tyRead f.slot.toNat (srcA e f)) (tyRead f.slot.toNat (srcB e f)))])

/-- R179 PLOGIC: pd := tt[4·pd + 2·pa + pb]. -/
def execPlogic (f : Fld) (s : State) : Host.Outcome State Fault Refusal :=
  runPure 0x47 f s (fun e => .ok [.p f.d.toNat
    (truth3 f.c.toNat (predOf e.th f.d.toNat) (predOf e.th f.a.toNat) (predOf e.th f.b.toNat))])

/-- R179 PMOV: .rd reads the predicates into vd, .wr writes p1-p7 from va. -/
def execPmov (f : Fld) (s : State) : Host.Outcome State Fault Refusal :=
  runPure 0x48 f s (fun e =>
    if fldBit f 6 then
      let a := srcV e f.a.toNat
      .ok ((List.range 7).map (fun k => Eff.p (k + 1) (bit a (k + 1))))
    else .ok [.v f.d.toNat ((List.range 8).foldl (fun r k => r + b2n (predOf e.th k) * 2 ^ k) 0)])

/-- R179 PSET: pd := bit (b mod 64) of a. -/
def execPset (f : Fld) (s : State) : Host.Outcome State Fault Refusal :=
  runPure 0x49 f s (fun e => .ok [.p f.d.toNat (bit (srcA e f) (srcB e f % 64))])

/-- R179 SETV: vd := −1 for .i or 1 for .n where pa is true, else 0. -/
def execSetv (f : Fld) (s : State) : Host.Outcome State Fault Refusal :=
  runPure 0x4A f s (fun e => .ok [dstEff f (tyWrite f.slot.toNat
    (if predOf e.th f.a.toNat then (if tySigned f.slot.toNat then -1 else 1) else 0))])

/-- R178 SEXT: a with bits above q = b[5:0] set equal to bit q. -/
def execSext (f : Fld) (s : State) : Host.Outcome State Fault Refusal :=
  runPure 0x4B f s (fun e =>
    .ok [dstEff f (ofInt 64 (sext (srcA e f) (srcB e f % 64 + 1)))])

/-- R178 ZEXT: a with bits above q = b[5:0] cleared. -/
def execZext (f : Fld) (s : State) : Host.Outcome State Fault Refusal :=
  runPure 0x4C f s (fun e =>
    .ok [dstEff f (srcA e f % 2 ^ (srcB e f % 64 + 1))])

/-- R178 BMSK: ones in bits pos to pos + len − 1. -/
def execBmsk (f : Fld) (s : State) : Host.Outcome State Fault Refusal :=
  runPure 0x4D f s (fun e =>
    let b := srcB e f
    .ok [dstEff f (Nat.land ((2 ^ fieldLen b - 1) * 2 ^ fieldPos b) (ones 64))])

end Sys2Proof.Machine
end

