-- ==== Sys2Proof/Machine/Short.lean ====
section
/-! DEFINITION. The 16-bit forms (spec 05 R150, R161): each executes as its equivalent, whose fields are built here. -/
namespace Sys2Proof.Machine

/-- An unguarded equivalent with registers d, a and b. -/
def shortFld (d a b : Nat) : Fld :=
  { form := .w64, sense := false, guard := 0, pace := 0, d := BitVec.ofNat 8 d, a := BitVec.ofNat 8 a, b := BitVec.ofNat 8 b,
    c := 0, slot := 0, m := 0, lit := 0 }

/-- An unguarded equivalent whose operand b is a number. -/
def shortImm (d a x : Nat) : Fld := { shortFld d a 0 with form := .w96, lit := BitVec.ofNat 32 x }

/-- The equivalent of a 16-bit load or store: vd and [vs + 8·mod] under .n64. -/
def shortMem (mod rd rs : Nat) : Fld := { shortFld rd rs 0 with c := BitVec.ofNat 8 (8 * mod), slot := 4 }

/-- Comparison and type of a 16-bit setp. -/
def setp16Mode (mod : Nat) : Nat × Nat :=
  match mod with
  | 4 => (2, 4)
  | 5 => (3, 4)
  | n => (n, 0)

/-- R161 mov: vd := vs. -/
def execMov16 (rd rs : BitVec 4) (s : State) : Host.Outcome State Fault Refusal := execMov (shortFld rd.toNat 0 rs.toNat) s
/-- R161 iadd: vd := vd + vs. -/
def execIadd16 (rd rs : BitVec 4) (s : State) : Host.Outcome State Fault Refusal :=
  execIadd (shortFld rd.toNat rd.toNat rs.toNat) s
/-- R161 iadd: vd := vd + imm. -/
def execIadd16Imm (rd imm : BitVec 4) (s : State) : Host.Outcome State Fault Refusal :=
  execIadd (shortImm rd.toNat rd.toNat imm.toNat) s
/-- R161 isub: vd := vd - vs. -/
def execIsub16 (rd rs : BitVec 4) (s : State) : Host.Outcome State Fault Refusal :=
  execIsub (shortFld rd.toNat rd.toNat rs.toNat) s
/-- R161 isub: vd := vd - imm. -/
def execIsub16Imm (rd imm : BitVec 4) (s : State) : Host.Outcome State Fault Refusal :=
  execIsub (shortImm rd.toNat rd.toNat imm.toNat) s
/-- R161 and: vd := vd and vs. -/
def execAnd16 (rd rs : BitVec 4) (s : State) : Host.Outcome State Fault Refusal :=
  execAnd (shortFld rd.toNat rd.toNat rs.toNat) s
/-- R161 or: vd := vd or vs. -/
def execOr16 (rd rs : BitVec 4) (s : State) : Host.Outcome State Fault Refusal :=
  execOr (shortFld rd.toNat rd.toNat rs.toNat) s
/-- R161 xor: vd := vd xor vs. -/
def execXor16 (rd rs : BitVec 4) (s : State) : Host.Outcome State Fault Refusal :=
  execXor (shortFld rd.toNat rd.toNat rs.toNat) s
/-- R161 shl: vd shifted left by vs. -/
def execShl16 (rd rs : BitVec 4) (s : State) : Host.Outcome State Fault Refusal :=
  execShl (shortFld rd.toNat rd.toNat rs.toNat) s
/-- R161 shl: vd shifted left by 16·kk + imm. -/
def execShl16Imm (kk : BitVec 2) (rd imm : BitVec 4) (s : State) : Host.Outcome State Fault Refusal :=
  execShl (shortImm rd.toNat rd.toNat (16 * kk.toNat + imm.toNat)) s
/-- R161 shr: vd shifted right by vs, logically. -/
def execShr16 (rd rs : BitVec 4) (s : State) : Host.Outcome State Fault Refusal :=
  execShr (shortFld rd.toNat rd.toNat rs.toNat) s
/-- R161 shr: vd shifted right by 16·kk + imm, logically. -/
def execShr16Imm (kk : BitVec 2) (rd imm : BitVec 4) (s : State) : Host.Outcome State Fault Refusal :=
  execShr (shortImm rd.toNat rd.toNat (16 * kk.toNat + imm.toNat)) s
/-- R161 fadd: vd := vd + vs in slot 0. -/
def execFadd16 (rd rs : BitVec 4) (s : State) : Host.Outcome State Fault Refusal :=
  execFadd (shortFld rd.toNat rd.toNat rs.toNat) s
/-- R161 fmul: vd := vd × vs in slot 0. -/
def execFmul16 (rd rs : BitVec 4) (s : State) : Host.Outcome State Fault Refusal :=
  execFmul (shortFld rd.toNat rd.toNat rs.toNat) s
/-- R161 fmax: vd := the greater of vd and vs in slot 0. -/
def execFmax16 (rd rs : BitVec 4) (s : State) : Host.Outcome State Fault Refusal :=
  execFmax (shortFld rd.toNat rd.toNat rs.toNat) s
/-- R161 ld64: vd := the 8 bytes at vs + 8·mod. -/
def execLd64 (mod : BitVec 3) (rd rs : BitVec 4) (s : State) : Host.Outcome State Fault Refusal :=
  execLd (shortMem mod.toNat rd.toNat rs.toNat) s
/-- R161 st64: the 8 bytes at vs + 8·mod := vd. -/
def execSt64 (mod : BitVec 3) (rd rs : BitVec 4) (s : State) : Host.Outcome State Fault Refusal :=
  execSt (shortMem mod.toNat rd.toNat rs.toNat) s
/-- R161 bra: to this instruction's address + 2 × off. -/
def execBra16 (off : BitVec 11) (s : State) : Host.Outcome State Fault Refusal :=
  let x := ofInt 18 (sext off.toNat 11)
  execBra { shortFld (bits x 5 0) (bits x 11 6) (bits x 17 12) with form := .w32 } s
/-- R161 setp: p1 := the comparison of vd and vs. -/
def execSetp16 (mod : BitVec 3) (rd rs : BitVec 4) (s : State) : Host.Outcome State Fault Refusal :=
  let k := setp16Mode mod.toNat
  execSetp { shortFld 1 rd.toNat rs.toNat with c := BitVec.ofNat 8 k.1, slot := BitVec.ofNat 4 k.2 } s
/-- R161 nop. -/
def execNop16 (s : State) : Host.Outcome State Fault Refusal := execNop (shortFld 0 0 0) s

end Sys2Proof.Machine
end

