-- ==== Sys2Proof/Machine/Issue.lean ====
section
/-! DEFINITION. How the machine takes a step: what happens by itself (R124-R134, R243, R340-R352), which group and which subset of
it issues (01 R26-R31), fetch, patch fabric, decode and the checks of 05 R164, the REWRITE sequences of 15 R392 and R393, and
the inputs of the outside (log 3). -/
namespace Sys2Proof.Machine

/-- What a step answers. -/
abbrev Out := Host.Outcome State Fault Refusal

/-! ## Equivalents, and the decode word (R388) -/

/-- Opcode and fields of the equivalent of a 16-bit form (R161). -/
def shortEquiv : Instr → Option (Nat × Fld)
  | .mov16 rd rs => some (0x20, shortFld rd.toNat 0 rs.toNat)
  | .iadd16 rd rs => some (0x22, shortFld rd.toNat rd.toNat rs.toNat)
  | .iadd16Imm rd imm => some (0x22, shortImm rd.toNat rd.toNat imm.toNat)
  | .isub16 rd rs => some (0x23, shortFld rd.toNat rd.toNat rs.toNat)
  | .isub16Imm rd imm => some (0x23, shortImm rd.toNat rd.toNat imm.toNat)
  | .and16 rd rs => some (0x32, shortFld rd.toNat rd.toNat rs.toNat)
  | .or16 rd rs => some (0x33, shortFld rd.toNat rd.toNat rs.toNat)
  | .xor16 rd rs => some (0x34, shortFld rd.toNat rd.toNat rs.toNat)
  | .shl16 rd rs => some (0x38, shortFld rd.toNat rd.toNat rs.toNat)
  | .shl16Imm kk rd imm => some (0x38, shortImm rd.toNat rd.toNat (16 * kk.toNat + imm.toNat))
  | .shr16 rd rs => some (0x39, shortFld rd.toNat rd.toNat rs.toNat)
  | .shr16Imm kk rd imm => some (0x39, shortImm rd.toNat rd.toNat (16 * kk.toNat + imm.toNat))
  | .fadd16 rd rs => some (0x52, shortFld rd.toNat rd.toNat rs.toNat)
  | .fmul16 rd rs => some (0x54, shortFld rd.toNat rd.toNat rs.toNat)
  | .fmax16 rd rs => some (0x59, shortFld rd.toNat rd.toNat rs.toNat)
  | .ld64 m rd rs => some (0x90, shortMem m.toNat rd.toNat rs.toNat)
  | .st64 m rd rs => some (0x91, shortMem m.toNat rd.toNat rs.toNat)
  | .bra16 off => let x := ofInt 18 (sext off.toNat 11); some (0x02, shortFld (bits x 5 0) (bits x 11 6) (bits x 17 12))
  | .setp16 m rd rs =>
    let k := setp16Mode m.toNat
    some (0x46, { shortFld 1 rd.toNat rs.toNat with c := BitVec.ofNat 8 k.1, slot := BitVec.ofNat 4 k.2 })
  | .nop16 => some (0x00, shortFld 0 0 0)
  | _ => none

/-- Opcode and fields under which an instruction executes. -/
def asLong (i : Instr) : Option (Nat × Fld) :=
  match opFld i with
  | some p => some p
  | none => shortEquiv i

/-- The decode word of fetched bytes, the literal that goes with it, and the form's bit of R384 (R388). -/
def decodeWord (bs : List Byte) : Nat × Nat × Nat :=
  let w := ofBytes bs
  match bs.length with
  | 2 =>
    (match (decode16 w).bind shortEquiv with
     | some (op, f) => (wordLong op { f with form := .w64 }, f.lit.toNat, 0)
     | none => (w, 0, 0))
  | 4 => (wordLong (bits w 10 3) { fields32 w with form := .w64 }, 0, 1)
  | 8 => (w, 0, 2)
  | _ => (setBits (w % 2 ^ 64) 2 0 3, w / 2 ^ 64, 3)

/-! ## Which instructions a queue program and emulation code may use (R334, R394) -/

/-- The special registers that a queue program reads (R334). -/
def headlandSelector (n : Nat) : Bool := decide (n ≤ 8) || n == 0x18 || n == 0x19

/-- R334: the table and the conditions of its rows. -/
def headlandOk (op : Nat) (f : Fld) : Bool :=
  [0x00, 0x02, 0x0A, 0x0E, 0x0F, 0x10, 0x11, 0x18, 0x1A].contains op
  || (op == 0x12 && headlandSelector f.c.toNat)
  || (decide (0x20 ≤ op) && decide (op ≤ 0x4D))
  || [0x90, 0x91, 0x92, 0x93, 0x9A, 0x9B].contains op
  || (decide (0xA0 ≤ op) && decide (op ≤ 0xA9)) || op == 0xAD
  || (decide (0xB4 ≤ op) && decide (op ≤ 0xBB))
  || ([0xE0, 0xE2, 0xE3].contains op && !bit f.d.toNat 2)
  || op == 0xED || op == 0xEE

/-- R394: those without LAUNCH, LAUNCHI, PARK and WAITMEM, with the format class. -/
def emulationOk (op : Nat) (f : Fld) : Bool :=
  (headlandOk op f && !([0xED, 0xEE, 0x0F, 0x10].contains op)) || (decide (0x51 ≤ op) && decide (op ≤ 0x76))

/-! ## Readiness (R26, R31, R155) -/

/-- A thread awaits the answer of an access that may still fault it (an atomic, a deque operation, a load on a link), or whose
acquire precedes what it does next (R127); or its release point, which precedes what it stores next (R126). -/
def awaitsAnswer (s : State) (w : Where) (lane : Nat) : Bool :=
  s.syncQ.any (fun i => i.w == w && i.lane == lane
    && (i.acquire || i.rel || decide (i.instr < 0xAD) || (match i.op with | .atomic _ _ _ => false | _ => true)))
  || s.outReqs.any (fun r => r.copy.isNone && r.w == w && r.lane == lane
    && (r.rel || (r.cur.isSome && !r.posted) || (match r.atomic with | some i => i.acquire || i.rel | none => false)))
  || s.launchQ.any (fun r => readsCounts r && r.w == w && r.lane == lane)

/-- A thread can issue when its wait, if any, is over. -/
def laneReady (s : State) (w : Where) (g : Group) (lane : Nat) (th : Thread) : Bool :=
  (match th.status with
   | .running => true
   | .waiting (.barrier n) => !bit th.arr.toNat n && !bit th.voided.toNat n
   | .waiting (.counters nl ns nc nt) => countersOk s w g nl ns nc nt
   | .waiting .resource => true
   | .waiting .resumed => true
   | _ => false)
  && !awaitsAnswer s w lane

/-- The threads of a group that are ready, as far as their waits say (R31); what a result on its way keeps from issuing is for
`freeLanes`. -/
def readyLanes (s : State) (t : Team) (g : Group) : List Nat :=
  if g.stopped || t.lost then []
  else if (match t.role with | .queue q => !([1, 3].contains (queueRec s q).state) | _ => false) then []
  else (List.range g.threads.length).filter (fun l => match g.threads[l]? with
    | some th => laneReady s { uid := t.uid, group := g.idx } g l th
    | none => false)

/-- Subsets of the ready threads by address, in the order of R27: the longest wait first, or the lowest address. Threads whose
instruction a patch slot has begun are a subset of their own, under that slot (R387). R27 does not say how long a subset has
waited whose threads last issued at different moments: the earliest of their last issues counts (the model's choice, log 3). -/
def subsets (det : Bool) (g : Group) (lanes : List Nat) : List (Nat × Option (Nat × SlotRec) × List Nat) :=
  let pcOf (l : Nat) : Nat := match g.threads[l]? with | some t => t.pc.toNat | none => 0
  let lastOf (l : Nat) : Nat := match g.threads[l]? with | some t => t.last | none => 0
  let slotOfLane (l : Nat) : Option (Nat × SlotRec) := (g.threads[l]?).bind (fun t => t.slot)
  let keys := (lanes.map (fun l => (pcOf l, slotOfLane l))).eraseDups
  let sets : List (Nat × Nat × Option (Nat × SlotRec) × List Nat) := keys.map (fun k =>
    let ls := lanes.filter (fun l => (pcOf l, slotOfLane l) == k)
    (ls.foldl (fun m l => min m (lastOf l)) (lastOf (ls.headD 0)), k.1, k.2, ls))
  (sortBy (fun a b => if det then decide (a.2.1 ≤ b.2.1) else decide (a.1 < b.1) || (a.1 == b.1 && decide (a.2.1 ≤ b.2.1))) sets).map (·.2)

/-- The ready threads of some lanes: none of what they name is on its way (R26, R155). -/
def freeLanes (s : State) (c : Cur) (i : Instr) : List Nat :=
  match asLong i with
  | some (op, f) => c.lanes.filter (fun l => match env? s c l with | some e => !laneBlocked s e op f | none => true)
  | none => c.lanes

/-! ## REWRITE (R392, R393) -/

/-- The bits of a substitute for a decode word and a literal: length in bytes and bits. -/
def substitute (u d lit : Nat) : Nat × Nat :=
  let pick (hi lo own : Nat) : Nat := match bits u hi lo with
    | 1 => bits d 26 19
    | 2 => bits d 34 27
    | 3 => bits d 42 35
    | 4 => bits d 50 43
    | _ => own
  let w := bits u 63 0
  let x := setBits w 26 19 (pick 114 112 (bits w 26 19))
  let x := setBits x 34 27 (pick 117 115 (bits w 34 27))
  let x := setBits x 42 35 (pick 120 118 (bits w 42 35))
  let x := setBits x 50 43 (pick 123 121 (bits w 50 43))
  let x := if bit u 111 then setBits x 63 55 (bits d 63 55) else x
  let x := if bit u 109 then setBits x 54 51 (bits d 54 51) else x
  if bits w 2 0 == 5 then (12, x + (if bit u 110 then lit else bits u 95 64) * 2 ^ 64) else (8, x)

/-- The substitutes of a slot as instructions: steps 5 and 6 of R164 on their own bits. -/
def subInstrs (c : Cur) (subs : List Nat) : Option (List Instr) :=
  subs.mapM (fun u => let (len, w) := substitute u c.dword c.lit; (decodeBits len w).toOption)

/-- Threads of the issue group that no substitute must keep waiting (R155): none of the registers that they name is on its way,
and a last substitute that reaches memory stands behind the thread's own reductions and link stores. -/
def rewriteFree (s : State) (c : Cur) (is : List Instr) : List Nat :=
  let last := match is.getLast?.bind asLong with | some (op, _) => decide (0x90 ≤ op) || waitsForOwn op | none => false
  c.lanes.filter (fun l => match env? s c l with
    | none => true
    | some e => !(last && ownPending s c.w l) && is.all (fun i => match asLong i with | some (op, f) => !resultBlocks s e op f | none => true))

/-- One substitute for the threads of an issue group: those that fault leave, and it runs again without them, the last one
without changes for the whole issue group. What an earlier one writes to a g register the next ones read (R393). -/
def runSub (ex : Instr → State → Out) (i : Instr) (last : Bool) : Nat → Cur → State → List (Nat × FaultInfo) → Except Out (Cur × State × List (Nat × FaultInfo))
  | 0, c, s, fs => .ok (c, s, fs)
  | fuel + 1, c, s, fs =>
    if c.lanes.isEmpty then .ok (c, s, fs)
    else
      match ex i { s with cur := some c, lastFault := none } with
      | .next s' =>
        (match s'.lastFault with
         | some (ls, f) => runSub ex i last fuel { c with lanes := c.lanes.filter (fun l => !ls.contains l), noG := last } s (fs ++ ls.map (fun l => (l, f)))
         | none => .ok (c, s', fs))
      | o => .error o

/-- The substitutes in order. The pc reads as I's until the last has issued; the last makes no change for the whole issue group
when a thread has faulted (R393). -/
def runSubs (ex : Instr → State → Out) (fuel next : Nat) :
    List Instr → Cur → State → List (Nat × FaultInfo) → Except Out (Cur × State × List (Nat × FaultInfo))
  | [], c, s, fs => .ok (c, s, fs)
  | i :: rest, c, s, fs =>
    match runSub ex i rest.isEmpty fuel { c with next := if rest.isEmpty then next else c.pc, noPatch := true, noG := rest.isEmpty && !fs.isEmpty } s fs with
    | .error o => .error o
    | .ok (c, s, fs) => runSubs ex fuel next rest c s fs

/-- An 8-byte word of a team's local space as another team record has it, poison included. -/
def restoreWord (t0 t : Team) (a : Nat) : Team :=
  { t with lmem := t.lmem.writeN a 8 (t0.lmem.readN a 8),
           lpoison := (if t0.lpoison.contains (a / 8) then [a / 8] else []) ++ t.lpoison.filter (fun p => p != a / 8) }

/-- What the threads that faulted in the sequence have written is discarded, with the changes made once for the issue group:
g registers (R393). -/
def undoSubs (s0 s : State) (c : Cur) (is : List Instr) (bad : List Nat) : State :=
  let spans := is.flatMap (fun i => match asLong i with | some (op, f) => dstSpans op f | none => [])
  bad.foldl (fun s l =>
    match env? s0 c l with
    | none => s
    | some e =>
      let s := modThread s c.w l (fun th => { th with p := e.th.p, nf := e.th.nf, sx := e.th.sx, smst := e.th.smst })
      modTeam s c.w.uid (fun t => (regPlaces e spans).foldl (restoreWord e.t) t)) s

def laneWaits (s : State) (w : Where) (lane : Nat) : Bool :=
  match thread? s w lane with
  | some th => (match th.status with | .waiting .resource => true | _ => false)
  | none => false

/-- No issue group stands. -/
def noIssue (s : State) : State := { s with cur := none, lastFault := none }

/-- Threads wait at I for what an action of a patch slot needs, and come back under that slot (R387). -/
def waitUnder (s : State) (c : Cur) (r : SlotRec) (lanes : List Nat) : State :=
  modThreads s c.w lanes (fun th => { th with pc := BitVec.ofNat 64 c.pc, status := .waiting .resource, slot := some (c.gen, r) })

/-- A REWRITE for the threads of an issue group (R393): threads that fault leave the sequence and nothing of theirs stays; a
sequence whose last substitute must wait takes no effect and comes back under its slot (R387). -/
def rewriteRun (ex : Instr → State → Out) (r : SlotRec) (s : State) (c : Cur) : Out :=
  match subInstrs c r.subs with
  | none => .next (takeFaults s { c with noPatch := true } (c.lanes.map (fun l => (l, { code := .illegalInstruction }))))
  | some is =>
    match runSubs ex (c.lanes.length + 1) c.next is c s [] with
    | .error o => o
    | .ok (k, s', fs) =>
      if k.lanes.any (laneWaits s' c.w) then
        let back := waitUnder s c r c.lanes
        .next (match group? s' c.w with
          | some g' => modGroup back c.w (fun g => { g with tokenWait := g'.tokenWait, tokenHeld := g'.tokenHeld })
          | none => back)
      else
        let s' := forgetRecent (undoSubs s s' c is (fs.map (·.1))) c.w c.lanes
        .next (takeFaults s' { c with noPatch := true } (sortBy (fun a b => decide (a.1 ≤ b.1)) fs))

/-- Fault-path REWRITEs, one after another (R397); threads that a substitute keeps waiting come back under the slot. -/
def faultRewrites (ex : Instr → State → Out) : List (Cur × SlotRec × List Nat × FaultInfo) → State → Out
  | [], s => .next s
  | (c, r, lanes, _) :: rest, s =>
    let c := { c with lanes := lanes }
    let free := match subInstrs c r.subs with | some is => rewriteFree s c is | none => lanes
    match rewriteRun ex r (waitUnder s c r (lanes.filter (fun l => !free.contains l))) { c with lanes := free } with
    | .next s => faultRewrites ex rest (noIssue s)
    | o => o

/-- The fault path's REWRITEs that faults have asked for (R397). -/
def faultRewrite (ex : Instr → State → Out) (s : State) : Out := faultRewrites ex s.rewrite { s with rewrite := [] }

/-! ## After an event or an issue -/

/-- The state that a queue's record shows (R333). -/
def queueShows (s : State) (r : QueueRec) : Nat :=
  match thread? s (queueWhere r.q) 0 with
  | some th => (match th.status with
      | .waiting .park => 2
      | .waiting .monitor => 3
      | .waiting (.barrier _) => 3
      | .waiting (.counters _ _ _ _) => 3
      | .running => 1
      | .waiting .resource => 1
      | _ => r.state)
  | none => r.state

/-- Queue records follow their programs. -/
def showQueues (s : State) : State :=
  { s with queues := updIf (fun r => r.state == 1 || r.state == 2 || r.state == 3) (fun r => { r with state := queueShows s r }) s.queues }

/-- A queue program that is not ready has not been ready up to now (R336). -/
def markReady (s : State) : State :=
  let queue (t : Team) : Bool := match t.role with | .queue _ => true | _ => false
  let mark (t : Team) (g : Group) : Group :=
    if (readyLanes s t g).isEmpty then { g with threads := g.threads.map (fun th => { th with ready := s.tick }) } else g
  { s with teams := updIf queue (fun t => { t with groups := t.groups.map (mark t) }) s.teams }

/-- No issue group is left standing. -/
def atRestNow (s : State) : State := markReady (showQueues (noIssue s))

def settled (ex : Instr → State → Out) (o : Out) : Out :=
  match o with
  | .next s =>
    (match faultRewrite ex (noIssue s) with
     | .next s => .next (atRestNow s)
     | o => o)
  | o => o

/-! ## Issue -/

/-- What an attempt to issue comes to. -/
inductive Attempt
  /-- nothing issued: the state with what was fetched -/
  | blocked (s : State)
  | issued (o : Out)

/-- Threads are marked as having issued now (R27), under a patch configuration (R387). -/
def markIssue (s : State) (w : Where) (gen : Nat) (lanes : List Nat) : State :=
  modThreads { s with tick := s.tick + 1 } w lanes (fun th => { th with last := s.tick + 1, idle := 0, slot := none, gen := gen })

/-- The action of a decode slot in place of steps 5 to 8 (R390-R394); a 16-bit form always takes effect. Steps 5 and 6 on
a substitute's bits are the same for every thread, so an illegal one faults those whose guard is false too. Threads whose
registers await a result are not ready for it (R155). -/
def decodeAction (ex : Instr → State → Out) (s : State) (c : Cur) (t : Team) (x : Ctx) (r : SlotRec) : Attempt :=
  let act := c.lanes.filter (guardOn s c)
  let off := c.lanes.filter (fun l => !guardOn s c l)
  let go (lanes : List Nat) (k : State → Out) : Attempt :=
    if lanes.isEmpty && off.isEmpty then .blocked s
    else
      let s := goto { markIssue s c.w c.gen (lanes ++ off) with lastFault := none } c.w off c.next
      if lanes.isEmpty then .issued (.next s) else .issued (k s)
  match r.act with
  | 0 => go act (fun s => let (s, bad) := slotTrap s c act r.tnum; .next (takeFaults (forgetRecent s c.w act) c bad))
  | 1 =>
    (match subInstrs c r.subs with
     | none => .issued (.next (takeFaults (markIssue s c.w c.gen c.lanes) { c with noPatch := true } (c.lanes.map (fun l => (l, { code := .illegalInstruction })))))
     | some is =>
       let free := rewriteFree s { c with lanes := act } is
       go free (fun s => rewriteRun ex r s { c with lanes := free }))
  | _ =>
    let spans := [19, 27, 35, 43].map (fun lo => (false, bits c.dword (lo + 7) lo, 1))
    let free := act.filter (fun l => match env? s c l with
      | some e => !e.g.ops.any (fun o => !o.done && o.parts.any (partBlocks 0 spans l))
          && !(core s e.t.die e.t.site).smu.any (fun u => u.uid == e.t.uid && u.group == e.g.idx && u.lanes.any (fun r => r.1 == l))
      | none => true)
    go free (fun s => .next (emuRequest (forgetRecent s c.w free) c t x free r))

/-- A decoded instruction that the container may not use: a headland-subset fault, or an illegal instruction (R334, R394). -/
def subsetFault (t : Team) (i : Instr) : Option FaultCode :=
  match asLong i with
  | none => none
  | some (op, f) =>
    match t.role with
    | .compute => none
    | .queue _ => if headlandOk op f then none else some .headlandSubset
    | .patch _ => if emulationOk op f then none else some .illegalInstruction

/-- Attempts to issue the threads of a subset at an address (R26, R164). -/
def issueAt (ex : Instr → State → Out) (s : State) (w : Where) (t : Team) (x : Ctx) (pc : Nat) (slot : Option (Nat × SlotRec)) (lanes : List Nat) :
    Attempt :=
  let gen := match slot with | some q => q.1 | none => (core s t.die t.site).patchGen
  let c0 : Cur :=
    { w := w, lanes := lanes, pc := pc, next := pc, dword := 0, lit := 0, form := 0, noPatch := false, noG := false, gen := gen }
  let run (s : State) (c : Cur) (m : State → Out) : Out := m { markIssue s w c.gen c.lanes with cur := some c, lastFault := none }
  if pc % 2 == 1 then .issued (run s c0 execIllegalLength)
  else
    match fetch s t x pc with
    | (.badLength, s) => .issued (run s c0 execIllegalLength)
    | (.fault i, s) => .issued (run s { c0 with next := i.data } (execInstructionFetchFault i.detail))
    | (.bytes bs, s) =>
      let (d, lit, form) := decodeWord bs
      let c : Cur := { c0 with next := pc + bs.length, dword := d, lit := lit, form := form }
      match (slot <|> matchSlot s t x c none).map (·.2) with
      | some r => decodeAction ex s c t x r
      | none =>
        match decode bs with
        | .error _ => .issued (run s c execIllegalInstruction)
        | .ok (i, _) =>
          match subsetFault t i with
          | some code => .issued (.next (takeFault (markIssue s w c.gen lanes) c lanes { code := code }))
          | none =>
            let c := { c with lanes := freeLanes s c i }
            if c.lanes.isEmpty then .blocked s
            else
              match asLong i with
              | some (op, f) => .issued (run s c (runPaced (ex i) c op f))
              | none => .issued (run s c (ex i))

/-- A thread is held at a cross-lane or window instruction, which issues when it executes for all (R33, R186). -/
def laneHeld (s : State) (w : Where) (lane : Nat) : Bool := ((thread? s w lane).bind (heldAs w lane)).isSome

/-- Threads that only wait for a unit, a token or room, or are held, have not issued: their last issue stands (R27). -/
def keepLast (g : Group) (s : State) (w : Where) (lanes : List Nat) : State :=
  (lanes.filter (fun l => laneWaits s w l || laneHeld s w l)).foldl (fun s l => match g.threads[l]? with
    | some th => modThread s w l (fun t => { t with last := th.last })
    | none => s) s

/-- The first subset, in the order of R27, whose instruction can issue; one that finds its unit, token or tile taken stays
and lets the next one issue (R31). -/
def issueSubsets (ex : Instr → State → Out) (w : Where) (x : Ctx) : List (Nat × Option (Nat × SlotRec) × List Nat) → State → Attempt
  | [], s => .blocked s
  | (pc, slot, lanes) :: rest, s =>
    match team? s w.uid, group? s w with
    | some t, some g =>
      (match issueAt ex s w t x pc slot lanes with
       | .blocked s => issueSubsets ex w x rest s
       | .issued (.next s') =>
         let s' := keepLast g s' w lanes
         if lanes.all (laneWaits s' w) then issueSubsets ex w x rest { s' with cur := none, lastFault := none } else .issued (.next s')
       | .issued o => .issued o)
    | _, _ => .blocked s

/-- Attempts to issue for a group (R25, R26). -/
def issueGroup (ex : Instr → State → Out) (s : State) (w : Where) : Attempt :=
  match startGroup s w with
  | (s, false) => .issued (.next s)
  | (s, true) =>
    match team? s w.uid, group? s w with
    | some t, some g =>
      (match ctxOf s t with
       | some x => issueSubsets ex w x (subsets x.det g (readyLanes s t g)) s
       | none => .blocked s)
    | _, _ => .blocked s

def issueFirst (ex : Instr → State → Out) : List Where → State → Out
  | [], s => .next s
  | w :: rest, s =>
    match issueGroup ex s w with
    | .blocked s => issueFirst ex rest s
    | .issued o => o

/-! ## Which group issues -/

/-- Since when a ready group has waited: its last issue (R51), or for a queue program the moment from which it has been ready
(R336); none when no thread is ready. -/
def readySince (s : State) (t : Team) (g : Group) : Option Nat :=
  if (readyLanes s t g).isEmpty then none else some (g.threads.foldl (fun m th => max m (max th.last th.ready)) 0)

/-- The ready queue programs of a headland core, by queue number: prio, since when it has waited, place. -/
def readyQueues (s : State) (die site : Nat) : List (Nat × Nat × Nat × Where) :=
  s.teams.filterMap (fun t => match t.role with
    | .queue q =>
      if t.die == die && t.site == site then
        (t.groups.head?.bind (fun g => (readySince s t g).map (fun n => (q, (queueRec s q).prio.toNat, n, { uid := t.uid, group := g.idx }))))
      else none
    | _ => none)

/-- The slot of a headland core that issued last (R336). -/
def lastSlot (s : State) (die site : Nat) : Nat :=
  let qs : List (Nat × Nat) := s.teams.filterMap (fun t => match t.role with
    | .queue q => if t.die == die && t.site == site then t.groups.head?.bind (fun g => g.threads.head?.map (fun th => (th.last, q % 8))) else none
    | _ => none)
  (qs.foldl (fun m q => if m.1 < q.1 then q else m) (0, 7)).2

/-- The order in which a headland core chooses among its ready queue programs (R336): one that has waited for 64 issues of the
machine first (log 3), then by prio, ties round-robin from the slot after the one that issued last. -/
def headlandOrder (s : State) (die site : Nat) : List Where :=
  let qs := readyQueues s die site
  let from' := lastSlot s die site + 1
  let turn (q : Nat) : Nat := (q % 8 + 8 - from' % 8) % 8
  let aged := qs.filter (fun q => decide (q.2.2.1 + 64 ≤ s.tick))
  let rest := qs.filter (fun q => !decide (q.2.2.1 + 64 ≤ s.tick))
  (sortBy (fun a b => decide (a.2.2.1 ≤ b.2.2.1)) aged
    ++ sortBy (fun a b => decide (b.2.1 < a.2.1) || (a.2.1 == b.2.1 && decide (turn a.1 ≤ turn b.1))) rest).map (·.2.2.2)

/-- The groups that may issue now, as the units that choose them: each group of a team or emulation thread, each headland core
with its queue programs; the one that has waited longest first (R51). -/
def readyGroups (s : State) : List Where :=
  let teams : List (Nat × List Where) := s.teams.flatMap (fun t => match t.role with
    | .queue _ => []
    | _ => t.groups.filterMap (fun g => (readySince s t g).map (fun n => (n, [{ uid := t.uid, group := g.idx }]))))
  let cores := (s.teams.filterMap (fun t => match t.role with | .queue _ => some (t.die, t.site) | _ => none)).eraseDups
  let heads : List (Nat × List Where) := cores.map (fun k =>
    ((readyQueues s k.1 k.2).foldl (fun m q => min m q.2.2.1) s.tick, headlandOrder s k.1 k.2))
  (sortBy (fun a b => decide (a.1 ≤ b.1)) (teams ++ heads)).flatMap (·.2)

/-- The groups that issue when one is asked to: a queue program stands for its core's choice (R336). -/
def chosenFor (s : State) (w : Where) : List Where :=
  match team? s w.uid with
  | some t => (match t.role with | .queue _ => headlandOrder s t.die t.site | _ => [w])
  | none => [w]

/-! ## What happens by itself -/

/-- A core that has not taken the patch configuration in force takes it (R387). -/
def switchCore (s : State) : Option State :=
  (s.cores.find? (fun c => decide (c.die < 8) && c.patchGen != s.patchGen)).map (fun k =>
    settle { s with cores := updIf (fun c => c.die == k.die && c.site == k.site) (fun c => { c with patchGen := s.patchGen }) s.cores })

def firstOf (s : State) (f : Where → Nat → Option State) : Option State :=
  s.teams.findSome? (fun t => t.groups.findSome? (fun g =>
    (List.range g.threads.length).findSome? (fun l => match g.threads[l]? with
      | some th => if th.watch.isSome then f { uid := t.uid, group := g.idx } l else none
      | none => none)))

/-- Operations of threads and cores that can complete. -/
def nextInCores (s : State) : Option State :=
  (s.teams.findSome? (fun t => t.groups.findSome? (fun g => g.ops.findSome? (fun o =>
    if o.done then none else returnData s { uid := t.uid, group := g.idx } o.id))))
  <|> (s.syncQ.head?.bind (fun i => syncRun s i.die))
  <|> (s.deliveries.findSome? (fun d => deliverAtom s d.id))
  <|> hostAnswer s
  <|> (s.cores.findSome? (fun c => c.smu.head?.map (fun o => smFinish s c.die c.site o.quadrant)))
  <|> firstOf s (satisfy s)
  <|> firstOf s (wakePark s)
  <|> (s.teams.findSome? (fun t => if t.harrowClosed then startHarrow s t.uid else none))
  <|> (s.teams.findSome? (fun t => if t.mq.isEmpty then none else stepEngine s t.die t.site))
  <|> grantToken s
  <|> (s.copies.findSome? (fun c => (copyAdvance s c.id) <|> (copyFinish s c.id) <|> (copyHalt s c.id)))

/-- What the arbiters, the placers and the secure controller can do. -/
def nextInArbiters (s : State) : Option State :=
  recordEvent s
  <|> (s.ctxs.findSome? (fun x => writeFaultQueue s x.id))
  <|> launchArrives s
  <|> (s.ctxs.findSome? (fun x => x.launches.findSome? (fun l => gateStep s x.id l.acc)))
  <|> (if s.ctxs.all (fun x => x.grids.isEmpty) then none else (List.range 8).findSome? (placeCluster s))
  <|> (s.ctxs.findSome? (fun x => x.grids.findSome? (fun g => g.live.findSome? (fun c => retireCluster s x.id g.acc c))))
  <|> (s.ctxs.findSome? (fun x => x.grids.findSome? (fun g => completeGrid s x.id g.acc)))
  <|> (if s.emuQ.isEmpty then none else (emuStart s 0) <|> (emuStart s 1) <|> (emuResult s 0) <|> (emuResult s 1))
  <|> switchCore s
  <|> finishShootdown s
  <|> finishRepair s
  <|> (s.pieces.findSome? (fun p => ackPiece s p.id))

def nextInternal (s : State) : Option State := (nextInCores s) <|> (nextInArbiters s)

/-- Where no instruction has issued, a home writes a stored word back (R377). -/
def restWork (before : State) (o : Out) : Out :=
  match o with
  | .next s => if s.tick == before.tick then .next ((nextWriteBack s).getD s) else .next s
  | o => o

/-! ## Inputs -/

/-- Rows of the opcode table that threads execute: only an issue reaches them. -/
def isCode (i : Instr) : Bool :=
  (asLong i).isSome || i == .illegalInstruction || i == .illegalLength || (match i with | .instructionFetchFault _ => true | _ => false)

/-- Rows that the host brings about by a write on IO0's port: earlier inbound writes of the port come first (R412). -/
def hostWritten : Instr → Bool
  | .queueRun _ | .queueStop _ | .queueFaultClear _ | .headlandMembershipWrite _ _ _ | .poolWrite _ | .shootdown _ | .regionCommit _
  | .contextCreate _ | .contextDestroy _ | .actionReplay _ | .actionSkip _ | .actionEnd _ | .actionDestroy _ | .saveTeams _
  | .saveContext _ | .restore _ | .patchLoad _ | .patchUnload _ | .patchSetEnables _ | .io1ModeWrite _ | .hbmRepair _
  | .firmwareStage _ | .firmwareActivate _ | .ownerKeySet _ | .ownerKeyClear _ => true
  | _ => false

/-- An input acts (log 3). -/
def takeInput (ex : Instr → State → Out) (s : State) (i : Input) : Out :=
  match i with
  | .event e => if isCode e then .next s else ex e (if hostWritten e then drainWrites s 0 else s)
  | .issue w => issueFirst ex (chosenFor s w) s
  | .targetWrite pa b => .next (targetWrites s pa b)
  | .linkPoison req => .next (poisonAnswer s req)
  | .kernelRecord ctx h r => .next (loadRecord s ctx h r)
  | .objectStepping ctx id stepping => .next (loadStepping s ctx id stepping)
  | .controlRequest r => .next (controlRequests s r)
  | .mailboxRequest r => .next (mailboxRequests s r)
  | .msixMask fn vec masked => .next (maskVector s fn vec masked)
  | .vfControl v r => .next (vfControls s v r)
  | .vfRequest v r => .next (vfRequests s v r)
  | i => .next (memoryError s i)

/-- A step of the machine, over the meanings of the rows: the next input, else what happens by itself, else the next issue. -/
def stepWith (ex : Instr → State → Out) (s : State) : Out :=
  match s.inputs with
  | i :: rest => settled ex (takeInput ex { s with inputs := rest } i)
  | [] =>
    match nextInternal s with
    | some s' => settled ex (.next s')
    | none => restWork s (settled ex (issueFirst ex (readyGroups s) s))

end Sys2Proof.Machine
end

