-- ==== Sys2Proof/Machine/Boot.lean ====
section
/-! DEFINITION. Where the next instruction is fetched, and an instruction placed there. The package loads its programs by the
driver's commands and a launch (log 4): where no group is ready, a context with one team that stands at an address stands
for that. -/
namespace Sys2Proof.Machine

/-- The physical places of the next 12 bytes of a group's instruction stream, with its core; none where they cannot be fetched. -/
def fetchPlaces (s : State) (w : Where) : Option (Nat × Nat × List Nat) :=
  match team? s w.uid, group? s w with
  | some t, some g =>
    if !(t.role == .compute && g.started && g.argsRead && g.ops.isEmpty && g.threads.all (fun th => th.slot.isNone)) then none
    else
      (ctxOf s t).bind (fun x =>
        match subsets x.det g (readyLanes s t g) with
        | [] => none
        | (pc, _, _) :: _ =>
          let pas := (List.range 12).filterMap (fun i =>
            match locate s x (pc + i) .fetch with
            | .ok (.mem pa _) => if inHbm pa then some pa else none
            | _ => none)
          if pc % 2 == 0 && pas.length == 12 then some (t.die, t.site, pas) else none)
  | _, _ => none

/-- The first ready group whose instruction stream can be written, and the places. -/
def nextFetch (s : State) : Option (Where × Nat × Nat × List Nat) :=
  (readyGroups s).findSome? (fun w => (fetchPlaces s w).map (fun p => (w, p)))

/-- Bytes stand at places that a core fetches next, and the group there issues next. -/
def placeBytes (s : State) (bs : List Byte) (n : Where × Nat × Nat × List Nat) : State :=
  let pas := n.2.2.2
  let s := { s with
    home := (pas.zip bs).foldl (fun m p => m.set p.1 p.2) s.home,
    poison := s.poison.filter (fun p => !pas.any (fun a => a / 32 == p.word)),
    inputs := .issue n.1 :: s.inputs }
  modCore s n.2.1 n.2.2.1 (fun c => { c with icache := [] })

/-- Addresses of the boot context's page tables, and of its first instruction: the first GiB mapped to itself. -/
def bootTables : Nat := 0x10000
def bootPc : Nat := 0x100000

def bootUid (s : State) : Nat := s.nextUid

/-- An id that no live context has. -/
def bootCtx (s : State) : Nat := ((List.range (s.ctxs.length + 1)).find? (fun i => (ctx? s i).isNone)).getD 0

/-- A context with its page tables, and a team of one group whose 32 threads stand at `bootPc` (log 4). -/
def boot (s : State) : State :=
  let id := bootCtx s
  let m := ((s.home.writeN bootTables 8 (bootTables + 0x1001)).writeN (bootTables + 0x1000) 8 (bootTables + 0x2001)).writeN (bootTables + 0x2000) 8 0x73
  let x : Ctx :=
    { id := id, det := false, ptroot := bootTables, part := 1, cotbase := 0, cotn := 0, wdog := 0, fqbase := 0, fqlen := 16,
      fqwr := 0, elbase := 0, ellen := 16, elwr := 0, fd := fdPresets, wd := List.replicate 16 0, srk := 0, srw := 0, thand := 0,
      nextAcc := 0, kernels := [], steppings := [], launches := [], grids := [], tags := [], claims := [], fqPend := [], prevDie := 8, aside := [] }
  let t : Team :=
    { soloTeam (bootUid s) .compute id 0 0 256 0x10000 with
      groups := [{ groupStart 0 (List.replicate 32 (threadStart bootPc 0)) 0 0 with started := true, argsRead := true }] }
  { s with home := m, ctxs := s.ctxs ++ [x], teams := s.teams ++ [t], nextUid := s.nextUid + 1 }

/-- The bytes of a word of the opcode table where the next step fetches. -/
def placeWord (s : State) (nbits w : Nat) : State :=
  let bs := leBytes 12 (w % 2 ^ nbits)
  match nextFetch s with
  | some n => placeBytes s bs n
  | none =>
    let s := boot s
    placeBytes s bs ({ uid := s.nextUid - 1, group := 0 }, 0, 0, (List.range 12).map (fun i => bootPc + i))

end Sys2Proof.Machine
end

