-- ==== Sys2Proof/Machine/Lanes.lean ====
section
/-! DEFINITION. The cross-lane instructions (spec 07 R218-R223) and their arrival (01 R33, R34; 07 R219). -/
namespace Sys2Proof.Machine

/-- Threads held at one cross-lane instruction: at an address, with the mask each read. -/
def heldAt (g : Group) (pc : Nat) : List (Nat × Nat) :=
  (List.range g.threads.length).filterMap (fun l => match g.threads[l]? with
    | some th => (match th.status with
      | .heldLane m _ _ _ => if th.pc.toNat == pc then some (l, m) else none
      | _ => none)
    | none => none)

/-- The v registers of some threads that lie in poisoned words hold free values: what a thread that faults on reading them
supplies to the others of a cross-lane instruction is not given (log 34). -/
def freePoison (op : Nat) (f : Fld) (s : State) (es : List Env) : State :=
  let addrs := es.flatMap (fun e => (srcSpans op f).flatMap (fun p => (List.range p.2.2).map (fun i =>
    if p.1 then gAddr e.t.kern e.g.idx (p.2.1 + i) else vAddr e.t.kern e.g e.lane (p.2.1 + i))))
  match es with
  | [] => s
  | e :: _ =>
    (addrs.eraseDups.filter (fun a => e.t.lpoison.contains (a / 8))).foldl (fun s a =>
      let (x, s) := draw s
      modTeam s e.t.uid (fun t => { t with lmem := t.lmem.writeN a 8 x.toNat })) s

/-- Executes a cross-lane instruction once for all named threads (R219), which issue with it (R27): participants are those
whose guard is true, and `body` answers their effects in their order, all read before any is written. Participants whose
registers are out of range or poisoned fault here (R94, R164, R380); the other named threads complete (R363). -/
def laneExec (op : Nat) (f : Fld) (s : State) (c : Cur) (body : List Env → Except FaultInfo (List (List Eff))) : State :=
  let s := modThreads s c.w c.lanes (fun th => { th with last := s.tick })
  let act := active s c f
  let bad := (act.filterMap (env? s c)).filterMap (fun e => (registerFault e op f).map (fun i => (e.lane, i)))
  let s := goto s c.w c.lanes c.pc
  let idle := c.lanes.filter (fun l => !act.contains l)
  let faulty := act.filter (fun l => bad.any (fun b => b.1 == l))
  let free := freePoison op f s (faulty.filterMap (env? s c))
  let es := act.filterMap (env? free c)
  let s := { s with fresh := free.fresh }
  if bad.any (fun b => b.2.code == .registerRange) then takeFaults (goto s c.w idle c.next) c bad
  else
    match body es with
    | .error i => takeFaults (takeFault (goto s c.w idle c.next) c (act.filter (fun l => !faulty.contains l)) i) c bad
    | .ok effs =>
      let done := (es.zip effs).filter (fun p => !faulty.contains p.1.lane)
      takeFaults (done.foldl (fun s p => applyEffs c.w p.1.lane false s p.2) (goto s c.w (c.lanes.filter (fun l => !faulty.contains l)) c.next)) c bad

/-- Arrival at a cross-lane instruction (R33): each thread of the issue group reads the mask, and faults where the mask's
register is poisoned (R380); the last named thread to arrive makes it execute. -/
def laneRun (op : Nat) (f : Fld) (s : State) (body : List Env → Except FaultInfo (List (List Eff))) :
    Host.Outcome State Fault Refusal :=
  withCur s (fun c =>
    let arriving := c.lanes
    match (if arriving.isEmpty then none else env? s c (arriving.headD 0)) with
    | none => s
    | some e =>
      match regPoison e.t e.g e.lane [(true, f.c.toNat, 1)] with
      | some i => takeFault s c arriving i
      | none =>
      let mask := readG e.t e.g f.c.toNat % 2 ^ 32
      let member : FaultInfo := { code := .crossLaneMember }
      let out := arriving.filter (fun l => !bit mask l)
      let inn := arriving.filter (fun l => bit mask l)
      let held := heldAt e.g c.pc
      let ended := (List.range 32).any (fun l => bit mask l && (match e.g.threads[l]? with
        | some th => !alive th
        | none => true))
      if held.any (fun h => h.2 != mask) || ended then takeFault s c (arriving ++ held.map (·.1)) member
      else
        let s := modThreads s c.w inn (fun th => { th with status := .heldLane mask f c.next c.dword })
        let s := takeFault s c out member
        let named := (List.range 32).filter (fun l => bit mask l)
        if !inn.isEmpty && named.all (fun l => inn.contains l || held.any (fun h => h.1 == l)) then laneExec op f s { c with lanes := named } body
        else s)

/-- The lane moves (R220): `src` gives the source lane from the participants; own a, or 0 under .z, where there is none. -/
def laneMove (op : Nat) (f : Fld) (s : State) (src : Env → List Nat → Option Nat) : Host.Outcome State Fault Refusal :=
  laneRun op f s (fun es =>
    let ps := es.map (·.lane)
    .ok (es.map (fun e =>
      let own := if fldBit f 6 then 0 else srcV e f.a.toNat
      let r := match src e ps with
        | some l => (match es.find? (fun u => u.lane == l) with
          | some u => srcV u f.a.toNat
          | none => own)
        | none => own
      [.v f.d.toNat r])))

/-- Votes whose result all participants share (R221). -/
def laneVote (op : Nat) (f : Fld) (s : State) (r : List Bool → Eff) : Host.Outcome State Fault Refusal :=
  laneRun op f s (fun es => let x := r (es.map (fun e => predOf e.th f.a.toNat)); .ok (es.map (fun _ => [x])))

/-- The operands at their lane positions, holes elsewhere (R222). -/
def laneSlots {α : Type} (es : List Env) (x : Env → α) (inSet : Nat → Bool) : List (Option α) :=
  (List.range 32).map (fun l => (es.find? (fun e => e.lane == l && inSet l)).map x)

def laneLevel {α : Type} (combine : α → α → α × Nat) : List (Option α) → List (Option α) × Nat
  | x :: y :: rest =>
    let (r, g) := laneLevel combine rest
    (match x, y with
      | none, y => (y :: r, g)
      | x, none => (x :: r, g)
      | some x, some y => let (c, h) := combine x y; (some c :: r, g ||| h))
  | xs => (xs, 0)

/-- The fixed tree over lane positions (R222). -/
def laneTree {α : Type} (combine : α → α → α × Nat) : Nat → List (Option α) → Option α × Nat
  | 0, xs => (xs.headD none, 0)
  | n + 1, xs =>
    let (ys, g) := laneLevel combine xs
    let (r, h) := laneTree combine n ys
    (r, g ||| h)

/-- What a format reduction combines with (R223). -/
inductive LaneOp
  | sum
  | pick (greater nanWins : Bool)

/-- Format reductions and scans (R222, R223): `inSet ℓ x` says whether lane x counts for the result of lane ℓ. -/
def laneFormat (op : Nat) (f : Fld) (s : State) (how : LaneOp) (inSet : Nat → Nat → Bool) : Host.Outcome State Fault Refusal :=
  laneRun op f s (fun es =>
    match es with
    | [] => .ok []
    | e0 :: _ =>
      match slotFor e0 f.slot.toNat 0 anyFormat with
      | .error i => .error i
      | .ok k =>
        let mode := match how with | .sum => modeOf k (bits f.m.toNat 2 0) | _ => 0
        let read (e : Env) (i : Nat) : Val × Nat := readCode k (fiOf f) (elemAt k.w (srcV e f.a.toNat) i)
        let el (l i : Nat) : Nat × Nat :=
          let u := if mode == 5 then drawFor e0 f.slot.toNat i else 0
          let combine : Val → Val → Val × Nat := match how with
            | .sum => addRound k mode u
            | .pick g n => fun x y => (minmaxVal g n x y, 0)
          match laneTree combine 5 (laneSlots es (fun e => (read e i).1) (inSet l)) with
          | (none, _) => (0, 0)
          | (some v, fl) => let r := flushOut k (foOf f) (roundVal k v mode u); (r.1, r.2 ||| fl)
        let rows := es.map (fun e => (List.range (elems k)).map (el e.lane))
        let fl := orAll (rows.map (fun r => orAll (r.map (·.2)))) ||| orAll (es.map (fun e => orAll ((List.range (elems k)).map (fun i => (read e i).2))))
        .ok ((es.zip rows).map (fun p =>
          [.v f.d.toNat (packElems k.w (p.2.map (·.1))), .nf fl] ++ sxEff p.1 mode (elems k))))

/-- Integer reductions and scans (R222, R223). -/
def laneInt (op : Nat) (f : Fld) (s : State) (inSet : Nat → Nat → Bool) : Host.Outcome State Fault Refusal :=
  laneRun op f s (fun es =>
    let t := f.slot.toNat
    .ok (es.map (fun e =>
      let r := match laneTree (fun x y => (x + y, 0)) 5 (laneSlots es (fun u => tyRead t (srcV u f.a.toNat)) (inSet e.lane)) with
        | (some x, _) => tyWrite t x
        | (none, _) => 0
      [.v f.d.toNat r])))

/-- R221 LPEERS: the participants whose a equals its own. -/
def execLpeers (f : Fld) (s : State) : Host.Outcome State Fault Refusal :=
  laneRun 0x77 f s (fun es => .ok (es.map (fun e =>
    [.v f.d.toNat (laneMask ((es.filter (fun u => srcV u f.a.toNat == srcV e f.a.toNat)).map (·.lane)))])))

/-- R220 LGET: from lane b[4:0]. -/
def execLget (f : Fld) (s : State) : Host.Outcome State Fault Refusal :=
  laneMove 0x78 f s (fun e _ => some (srcBz e f % 32))

/-- R220 LSLIDE: from lane ℓ + b, b signed. -/
def execLslide (f : Fld) (s : State) : Host.Outcome State Fault Refusal :=
  laneMove 0x79 f s (fun e _ => let l := (e.lane : Int) + sext (srcBs e f) 64; if l < 0 || 31 < l then none else some l.toNat)

/-- R220 LSLIDEW: from lane (ℓ + b) mod 32, b signed. -/
def execLslideW (f : Fld) (s : State) : Host.Outcome State Fault Refusal :=
  laneMove 0x7A f s (fun e _ => some (((e.lane : Int) + sext (srcBs e f) 64) % 32).toNat)

/-- R220 LPAIR: from lane ℓ ⊕ b[4:0]. -/
def execLpair (f : Fld) (s : State) : Host.Outcome State Fault Refusal :=
  laneMove 0x7B f s (fun e _ => some (Nat.xor e.lane (srcBz e f % 32)))

/-- R220 LCYCLE: from the participant b places on, b natural. -/
def execLcycle (f : Fld) (s : State) : Host.Outcome State Fault Refusal :=
  laneMove 0x7C f s (fun e ps => ps[(ps.idxOf e.lane + srcBz e f) % ps.length]?)

/-- R220 LCAST: from lane j. -/
def execLcast (f : Fld) (s : State) : Host.Outcome State Fault Refusal :=
  laneMove 0x7D f s (fun _ _ => some (f.b.toNat % 32))

/-- R221 LALL: true when pa is true in every participant. -/
def execLall (f : Fld) (s : State) : Host.Outcome State Fault Refusal :=
  laneVote 0x7E f s (fun ps => .p f.d.toNat (ps.all id))

/-- R221 LANY: true when pa is true in some participant. -/
def execLany (f : Fld) (s : State) : Host.Outcome State Fault Refusal :=
  laneVote 0x7F f s (fun ps => .p f.d.toNat (ps.any id))

/-- R221 LSAME: true when pa is the same in every participant. -/
def execLsame (f : Fld) (s : State) : Host.Outcome State Fault Refusal :=
  laneVote 0x80 f s (fun ps => .p f.d.toNat (ps.all id || !ps.any id))

/-- R221 LBITS: the participants whose pa is true. -/
def execLbits (f : Fld) (s : State) : Host.Outcome State Fault Refusal :=
  laneRun 0x81 f s (fun es =>
    let m := laneMask ((es.filter (fun e => predOf e.th f.a.toNat)).map (·.lane))
    .ok (es.map (fun _ => [.v f.d.toNat m])))

/-- R221 LCOUNT: the number of participants whose pa is true. -/
def execLcount (f : Fld) (s : State) : Host.Outcome State Fault Refusal :=
  laneVote 0x82 f s (fun ps => .v f.d.toNat (ps.filter id).length)

/-- R223 RED.LANE: the sum over the lane tree, rounded at each combine. -/
def execRedLane (f : Fld) (s : State) : Host.Outcome State Fault Refusal :=
  laneFormat 0x83 f s .sum (fun _ _ => true)

/-- R223 RED.LANE.MIN. -/
def execRedLaneMin (f : Fld) (s : State) : Host.Outcome State Fault Refusal :=
  laneFormat 0x84 f s (.pick false (fldBit f 5)) (fun _ _ => true)

/-- R223 RED.LANE.MAX. -/
def execRedLaneMax (f : Fld) (s : State) : Host.Outcome State Fault Refusal :=
  laneFormat 0x85 f s (.pick true (fldBit f 5)) (fun _ _ => true)

/-- R223 RED.LANE.I: the integer sum. -/
def execRedLaneI (f : Fld) (s : State) : Host.Outcome State Fault Refusal :=
  laneInt 0x86 f s (fun _ _ => true)

/-- R223 RED.LANE.LOG: 64-bit and, or, xor. -/
def execRedLaneLog (f : Fld) (s : State) : Host.Outcome State Fault Refusal :=
  laneRun 0x87 f s (fun es =>
    let g : Nat → Nat → Nat := match bits f.m.toNat 6 5 with
      | 0 => Nat.land
      | 1 => Nat.lor
      | _ => Nat.xor
    let r := match laneTree (fun x y => (g x y, 0)) 5 (laneSlots es (fun e => srcV e f.a.toNat) (fun _ => true)) with
      | (some x, _) => x
      | (none, _) => 0
    .ok (es.map (fun _ => [.v f.d.toNat r])))

/-- R223 SCAN: the sum over the participants at or below the lane, below it with .ex. -/
def execScan (f : Fld) (s : State) : Host.Outcome State Fault Refusal :=
  laneFormat 0x88 f s .sum (fun l x => if fldBit f 6 then decide (x < l) else decide (x ≤ l))

/-- R223 SCAN.MIN. -/
def execScanMin (f : Fld) (s : State) : Host.Outcome State Fault Refusal :=
  laneFormat 0x89 f s (.pick false (fldBit f 5)) (fun l x => if fldBit f 6 then decide (x < l) else decide (x ≤ l))

/-- R223 SCAN.MAX. -/
def execScanMax (f : Fld) (s : State) : Host.Outcome State Fault Refusal :=
  laneFormat 0x8A f s (.pick true (fldBit f 5)) (fun l x => if fldBit f 6 then decide (x < l) else decide (x ≤ l))

/-- R223 SCAN.I. -/
def execScanI (f : Fld) (s : State) : Host.Outcome State Fault Refusal :=
  laneInt 0x8B f s (fun l x => if fldBit f 6 then decide (x < l) else decide (x ≤ l))

end Sys2Proof.Machine
end

