-- ==== Sys2Proof/Machine/Dispatch.lean ====
section
/-! DEFINITION. One arm for every instruction of the opcode table. -/
namespace Sys2Proof.Machine

/-- What an instruction, or an event of the part, does to the package. -/
def exec (i : Instr) (s : State) : Host.Outcome State Fault Refusal :=
  match i with
  | .mov16 rd rs => Sys2Proof.Machine.execMov16 rd rs s
  | .iadd16 rd rs => Sys2Proof.Machine.execIadd16 rd rs s
  | .iadd16Imm rd imm => Sys2Proof.Machine.execIadd16Imm rd imm s
  | .isub16 rd rs => Sys2Proof.Machine.execIsub16 rd rs s
  | .isub16Imm rd imm => Sys2Proof.Machine.execIsub16Imm rd imm s
  | .and16 rd rs => Sys2Proof.Machine.execAnd16 rd rs s
  | .or16 rd rs => Sys2Proof.Machine.execOr16 rd rs s
  | .xor16 rd rs => Sys2Proof.Machine.execXor16 rd rs s
  | .shl16 rd rs => Sys2Proof.Machine.execShl16 rd rs s
  | .shl16Imm kk rd imm => Sys2Proof.Machine.execShl16Imm kk rd imm s
  | .shr16 rd rs => Sys2Proof.Machine.execShr16 rd rs s
  | .shr16Imm kk rd imm => Sys2Proof.Machine.execShr16Imm kk rd imm s
  | .fadd16 rd rs => Sys2Proof.Machine.execFadd16 rd rs s
  | .fmul16 rd rs => Sys2Proof.Machine.execFmul16 rd rs s
  | .fmax16 rd rs => Sys2Proof.Machine.execFmax16 rd rs s
  | .ld64 mod rd rs => Sys2Proof.Machine.execLd64 mod rd rs s
  | .st64 mod rd rs => Sys2Proof.Machine.execSt64 mod rd rs s
  | .bra16 off => Sys2Proof.Machine.execBra16 off s
  | .setp16 mod rd rs => Sys2Proof.Machine.execSetp16 mod rd rs s
  | .nop16 => Sys2Proof.Machine.execNop16 s
  | .nop f => Sys2Proof.Machine.execNop f s
  | .trap f => Sys2Proof.Machine.execTrap f s
  | .bra f => Sys2Proof.Machine.execBra f s
  | .brx f => Sys2Proof.Machine.execBrx f s
  | .call f => Sys2Proof.Machine.execCall f s
  | .callx f => Sys2Proof.Machine.execCallx f s
  | .callW f => Sys2Proof.Machine.execCallW f s
  | .callxW f => Sys2Proof.Machine.execCallxW f s
  | .ret f => Sys2Proof.Machine.execRet f s
  | .retW f => Sys2Proof.Machine.execRetW f s
  | .exit f => Sys2Proof.Machine.execExit f s
  | .spill f => Sys2Proof.Machine.execSpill f s
  | .fill f => Sys2Proof.Machine.execFill f s
  | .mkh f => Sys2Proof.Machine.execMkh f s
  | .rdpc f => Sys2Proof.Machine.execRdpc f s
  | .park f => Sys2Proof.Machine.execPark f s
  | .waitmem f => Sys2Proof.Machine.execWaitmem f s
  | .sysq f => Sys2Proof.Machine.execSysq f s
  | .movsRead f => Sys2Proof.Machine.execMovsRead f s
  | .movsWrite f => Sys2Proof.Machine.execMovsWrite f s
  | .icinv f => Sys2Proof.Machine.execIcinv f s
  | .fbar f => Sys2Proof.Machine.execFbar f s
  | .cwb f => Sys2Proof.Machine.execCwb f s
  | .brk f => Sys2Proof.Machine.execBrk f s
  | .brdec f => Sys2Proof.Machine.execBrdec f s
  | .elect f => Sys2Proof.Machine.execElect f s
  | .idle f => Sys2Proof.Machine.execIdle f s
  | .tret f => Sys2Proof.Machine.execTret f s
  | .frec f => Sys2Proof.Machine.execFrec f s
  | .icpf f => Sys2Proof.Machine.execIcpf f s
  | .mov f => Sys2Proof.Machine.execMov f s
  | .sel f => Sys2Proof.Machine.execSel f s
  | .iadd f => Sys2Proof.Machine.execIadd f s
  | .isub f => Sys2Proof.Machine.execIsub f s
  | .imul f => Sys2Proof.Machine.execImul f s
  | .imulh f => Sys2Proof.Machine.execImulh f s
  | .imad f => Sys2Proof.Machine.execImad f s
  | .idiv f => Sys2Proof.Machine.execIdiv f s
  | .irem f => Sys2Proof.Machine.execIrem f s
  | .ineg f => Sys2Proof.Machine.execIneg f s
  | .iabs f => Sys2Proof.Machine.execIabs f s
  | .imin f => Sys2Proof.Machine.execImin f s
  | .imax f => Sys2Proof.Machine.execImax f s
  | .iadc f => Sys2Proof.Machine.execIadc f s
  | .iadds f => Sys2Proof.Machine.execIadds f s
  | .isubs f => Sys2Proof.Machine.execIsubs f s
  | .lea f => Sys2Proof.Machine.execLea f s
  | .lear f => Sys2Proof.Machine.execLear f s
  | .and f => Sys2Proof.Machine.execAnd f s
  | .or f => Sys2Proof.Machine.execOr f s
  | .xor f => Sys2Proof.Machine.execXor f s
  | .not f => Sys2Proof.Machine.execNot f s
  | .andn f => Sys2Proof.Machine.execAndn f s
  | .logic3 f => Sys2Proof.Machine.execLogic3 f s
  | .shl f => Sys2Proof.Machine.execShl f s
  | .shr f => Sys2Proof.Machine.execShr f s
  | .sar f => Sys2Proof.Machine.execSar f s
  | .rol f => Sys2Proof.Machine.execRol f s
  | .ror f => Sys2Proof.Machine.execRor f s
  | .dshr f => Sys2Proof.Machine.execDshr f s
  | .bfx f => Sys2Proof.Machine.execBfx f s
  | .bfxs f => Sys2Proof.Machine.execBfxs f s
  | .bfi f => Sys2Proof.Machine.execBfi f s
  | .popc f => Sys2Proof.Machine.execPopc f s
  | .clz f => Sys2Proof.Machine.execClz f s
  | .ctz f => Sys2Proof.Machine.execCtz f s
  | .brev f => Sys2Proof.Machine.execBrev f s
  | .bswap f => Sys2Proof.Machine.execBswap f s
  | .setp f => Sys2Proof.Machine.execSetp f s
  | .plogic f => Sys2Proof.Machine.execPlogic f s
  | .pmov f => Sys2Proof.Machine.execPmov f s
  | .pset f => Sys2Proof.Machine.execPset f s
  | .setv f => Sys2Proof.Machine.execSetv f s
  | .sext f => Sys2Proof.Machine.execSext f s
  | .zext f => Sys2Proof.Machine.execZext f s
  | .bmsk f => Sys2Proof.Machine.execBmsk f s
  | .fdset f => Sys2Proof.Machine.execFdset f s
  | .fdget f => Sys2Proof.Machine.execFdget f s
  | .fadd f => Sys2Proof.Machine.execFadd f s
  | .fsub f => Sys2Proof.Machine.execFsub f s
  | .fmul f => Sys2Proof.Machine.execFmul f s
  | .ffma f => Sys2Proof.Machine.execFfma f s
  | .ffms f => Sys2Proof.Machine.execFfms f s
  | .fnma f => Sys2Proof.Machine.execFnma f s
  | .fmin f => Sys2Proof.Machine.execFmin f s
  | .fmax f => Sys2Proof.Machine.execFmax f s
  | .fminp f => Sys2Proof.Machine.execFminp f s
  | .fmaxp f => Sys2Proof.Machine.execFmaxp f s
  | .fabs f => Sys2Proof.Machine.execFabs f s
  | .fneg f => Sys2Proof.Machine.execFneg f s
  | .fcpys f => Sys2Proof.Machine.execFcpys f s
  | .fclamp f => Sys2Proof.Machine.execFclamp f s
  | .fdiv f => Sys2Proof.Machine.execFdiv f s
  | .fsqrt f => Sys2Proof.Machine.execFsqrt f s
  | .frcp f => Sys2Proof.Machine.execFrcp f s
  | .frsq f => Sys2Proof.Machine.execFrsq f s
  | .fexp2 f => Sys2Proof.Machine.execFexp2 f s
  | .flog2 f => Sys2Proof.Machine.execFlog2 f s
  | .fsin f => Sys2Proof.Machine.execFsin f s
  | .fcos f => Sys2Proof.Machine.execFcos f s
  | .fcmp f => Sys2Proof.Machine.execFcmp f s
  | .fsetp f => Sys2Proof.Machine.execFsetp f s
  | .fclass f => Sys2Proof.Machine.execFclass f s
  | .fsel f => Sys2Proof.Machine.execFsel f s
  | .cvt f => Sys2Proof.Machine.execCvt f s
  | .frnd f => Sys2Proof.Machine.execFrnd f s
  | .fscl f => Sys2Proof.Machine.execFscl f s
  | .fxexp f => Sys2Proof.Machine.execFxexp f s
  | .scale f => Sys2Proof.Machine.execScale f s
  | .unscale f => Sys2Proof.Machine.execUnscale f s
  | .fhsum f => Sys2Proof.Machine.execFhsum f s
  | .fhmax f => Sys2Proof.Machine.execFhmax f s
  | .fdot f => Sys2Proof.Machine.execFdot f s
  | .sowg f => Sys2Proof.Machine.execSowg f s
  | .sowgf f => Sys2Proof.Machine.execSowgf f s
  | .lpeers f => Sys2Proof.Machine.execLpeers f s
  | .lget f => Sys2Proof.Machine.execLget f s
  | .lslide f => Sys2Proof.Machine.execLslide f s
  | .lslideW f => Sys2Proof.Machine.execLslideW f s
  | .lpair f => Sys2Proof.Machine.execLpair f s
  | .lcycle f => Sys2Proof.Machine.execLcycle f s
  | .lcast f => Sys2Proof.Machine.execLcast f s
  | .lall f => Sys2Proof.Machine.execLall f s
  | .lany f => Sys2Proof.Machine.execLany f s
  | .lsame f => Sys2Proof.Machine.execLsame f s
  | .lbits f => Sys2Proof.Machine.execLbits f s
  | .lcount f => Sys2Proof.Machine.execLcount f s
  | .redLane f => Sys2Proof.Machine.execRedLane f s
  | .redLaneMin f => Sys2Proof.Machine.execRedLaneMin f s
  | .redLaneMax f => Sys2Proof.Machine.execRedLaneMax f s
  | .redLaneI f => Sys2Proof.Machine.execRedLaneI f s
  | .redLaneLog f => Sys2Proof.Machine.execRedLaneLog f s
  | .scan f => Sys2Proof.Machine.execScan f s
  | .scanMin f => Sys2Proof.Machine.execScanMin f s
  | .scanMax f => Sys2Proof.Machine.execScanMax f s
  | .scanI f => Sys2Proof.Machine.execScanI f s
  | .ld f => Sys2Proof.Machine.execLd f s
  | .st f => Sys2Proof.Machine.execSt f s
  | .ldl f => Sys2Proof.Machine.execLdl f s
  | .stl f => Sys2Proof.Machine.execStl f s
  | .ldp f => Sys2Proof.Machine.execLdp f s
  | .stp f => Sys2Proof.Machine.execStp f s
  | .ldmx f => Sys2Proof.Machine.execLdmx f s
  | .stmx f => Sys2Proof.Machine.execStmx f s
  | .stnt f => Sys2Proof.Machine.execStnt f s
  | .ntdrain f => Sys2Proof.Machine.execNtdrain f s
  | .ldacq f => Sys2Proof.Machine.execLdacq f s
  | .strel f => Sys2Proof.Machine.execStrel f s
  | .ldw f => Sys2Proof.Machine.execLdw f s
  | .stw f => Sys2Proof.Machine.execStw f s
  | .pref f => Sys2Proof.Machine.execPref f s
  | .cdisc f => Sys2Proof.Machine.execCdisc f s
  | .atomAdd f => Sys2Proof.Machine.execAtomAdd f s
  | .atomMin f => Sys2Proof.Machine.execAtomMin f s
  | .atomMax f => Sys2Proof.Machine.execAtomMax f s
  | .atomAnd f => Sys2Proof.Machine.execAtomAnd f s
  | .atomOr f => Sys2Proof.Machine.execAtomOr f s
  | .atomXor f => Sys2Proof.Machine.execAtomXor f s
  | .atomXchg f => Sys2Proof.Machine.execAtomXchg f s
  | .atomCas f => Sys2Proof.Machine.execAtomCas f s
  | .atomInc f => Sys2Proof.Machine.execAtomInc f s
  | .atomDec f => Sys2Proof.Machine.execAtomDec f s
  | .atomFadd f => Sys2Proof.Machine.execAtomFadd f s
  | .atomFmin f => Sys2Proof.Machine.execAtomFmin f s
  | .atomFmax f => Sys2Proof.Machine.execAtomFmax f s
  | .red f => Sys2Proof.Machine.execRed f s
  | .redF f => Sys2Proof.Machine.execRedF f s
  | .atomrd f => Sys2Proof.Machine.execAtomrd f s
  | .dqinit f => Sys2Proof.Machine.execDqinit f s
  | .dqpush f => Sys2Proof.Machine.execDqpush f s
  | .dqpop f => Sys2Proof.Machine.execDqpop f s
  | .dqsteal f => Sys2Proof.Machine.execDqsteal f s
  | .pub f => Sys2Proof.Machine.execPub f s
  | .acq f => Sys2Proof.Machine.execAcq f s
  | .phase f => Sys2Proof.Machine.execPhase f s
  | .fence f => Sys2Proof.Machine.execFence f s
  | .arrive f => Sys2Proof.Machine.execArrive f s
  | .bwait f => Sys2Proof.Machine.execBwait f s
  | .bsync f => Sys2Proof.Machine.execBsync f s
  | .wait f => Sys2Proof.Machine.execWait f s
  | .smmul f => Sys2Proof.Machine.execSmmul f s
  | .smmad f => Sys2Proof.Machine.execSmmad f s
  | .smmsb f => Sys2Proof.Machine.execSmmsb f s
  | .smadd f => Sys2Proof.Machine.execSmadd f s
  | .smscl f => Sys2Proof.Machine.execSmscl f s
  | .smtrn f => Sys2Proof.Machine.execSmtrn f s
  | .smperm f => Sys2Proof.Machine.execSmperm f s
  | .smnrm f => Sys2Proof.Machine.execSmnrm f s
  | .chol f => Sys2Proof.Machine.execChol f s
  | .lup f => Sys2Proof.Machine.execLup f s
  | .solv f => Sys2Proof.Machine.execSolv f s
  | .solvt f => Sys2Proof.Machine.execSolvt f s
  | .resv f => Sys2Proof.Machine.execResv f s
  | .relv f => Sys2Proof.Machine.execRelv f s
  | .resq f => Sys2Proof.Machine.execResq f s
  | .oprdy f => Sys2Proof.Machine.execOprdy f s
  | .mma f => Sys2Proof.Machine.execMma f s
  | .mmas f => Sys2Proof.Machine.execMmas f s
  | .tlmov f => Sys2Proof.Machine.execTlmov f s
  | .acz f => Sys2Proof.Machine.execAcz f s
  | .acmov f => Sys2Proof.Machine.execAcmov f s
  | .acadd f => Sys2Proof.Machine.execAcadd f s
  | .acscl f => Sys2Proof.Machine.execAcscl f s
  | .accvt f => Sys2Proof.Machine.execAccvt f s
  | .acrd f => Sys2Proof.Machine.execAcrd f s
  | .acwr f => Sys2Proof.Machine.execAcwr f s
  | .acld f => Sys2Proof.Machine.execAcld f s
  | .acst f => Sys2Proof.Machine.execAcst f s
  | .copy f => Sys2Proof.Machine.execCopy f s
  | .copyq f => Sys2Proof.Machine.execCopyq f s
  | .copys f => Sys2Proof.Machine.execCopys f s
  | .copyx f => Sys2Proof.Machine.execCopyx f s
  | .wpld f => Sys2Proof.Machine.execWpld f s
  | .wpset f => Sys2Proof.Machine.execWpset f s
  | .ldchk f => Sys2Proof.Machine.execLdchk f s
  | .qpush f => Sys2Proof.Machine.execQpush f s
  | .qpop f => Sys2Proof.Machine.execQpop f s
  | .qpeek f => Sys2Proof.Machine.execQpeek f s
  | .qstat f => Sys2Proof.Machine.execQstat f s
  | .winset f => Sys2Proof.Machine.execWinset f s
  | .winget f => Sys2Proof.Machine.execWinget f s
  | .launch f => Sys2Proof.Machine.execLaunch f s
  | .launchi f => Sys2Proof.Machine.execLaunchi f s
  | .regrp f => Sys2Proof.Machine.execRegrp f s
  | .packageReset => Sys2Proof.Machine.execPackageReset s
  | .linkReset port => Sys2Proof.Machine.execLinkReset port s
  | .registerWrite off len value => Sys2Proof.Machine.execRegisterWrite off len value s
  | .queueRun q => Sys2Proof.Machine.execQueueRun q s
  | .queueStop q => Sys2Proof.Machine.execQueueStop q s
  | .queueFaultClear q => Sys2Proof.Machine.execQueueFaultClear q s
  | .headlandMembershipWrite core n value => Sys2Proof.Machine.execHeadlandMembershipWrite core n value s
  | .siteSwap die word => Sys2Proof.Machine.execSiteSwap die word s
  | .poolWrite value => Sys2Proof.Machine.execPoolWrite value s
  | .shootdown word => Sys2Proof.Machine.execShootdown word s
  | .shootdownComplete => Sys2Proof.Machine.execShootdownComplete s
  | .regionCommit word => Sys2Proof.Machine.execRegionCommit word s
  | .contextCreate word => Sys2Proof.Machine.execContextCreate word s
  | .contextDestroy word => Sys2Proof.Machine.execContextDestroy word s
  | .actionReplay word => Sys2Proof.Machine.execActionReplay word s
  | .actionSkip word => Sys2Proof.Machine.execActionSkip word s
  | .actionEnd word => Sys2Proof.Machine.execActionEnd word s
  | .actionDestroy word => Sys2Proof.Machine.execActionDestroy word s
  | .saveTeams word => Sys2Proof.Machine.execSaveTeams word s
  | .saveContext word => Sys2Proof.Machine.execSaveContext word s
  | .saveTimeout word die site => Sys2Proof.Machine.execSaveTimeout word die site s
  | .restore word => Sys2Proof.Machine.execRestore word s
  | .patchLoad word => Sys2Proof.Machine.execPatchLoad word s
  | .patchUnload word => Sys2Proof.Machine.execPatchUnload word s
  | .patchSetEnables word => Sys2Proof.Machine.execPatchSetEnables word s
  | .patchSwitch core => Sys2Proof.Machine.execPatchSwitch core s
  | .io1ModeWrite value => Sys2Proof.Machine.execIo1ModeWrite value s
  | .hbmRepair word => Sys2Proof.Machine.execHbmRepair word s
  | .hbmRepairComplete => Sys2Proof.Machine.execHbmRepairComplete s
  | .firmwareStage word => Sys2Proof.Machine.execFirmwareStage word s
  | .firmwareActivate word => Sys2Proof.Machine.execFirmwareActivate word s
  | .ownerKeySet word => Sys2Proof.Machine.execOwnerKeySet word s
  | .ownerKeyClear word => Sys2Proof.Machine.execOwnerKeyClear word s
  | .tpeakRead die => Sys2Proof.Machine.execTpeakRead die s
  | .telemetryRefresh die t => Sys2Proof.Machine.execTelemetryRefresh die t s
  | .watchdog ctx acc => Sys2Proof.Machine.execWatchdog ctx acc s
  | .placerHold die => Sys2Proof.Machine.execPlacerHold die s
  | .emulationTimeout iod => Sys2Proof.Machine.execEmulationTimeout iod s
  | .completionTimeout req => Sys2Proof.Machine.execCompletionTimeout req s
  | .ualinkResponseTimeout req => Sys2Proof.Machine.execUalinkResponseTimeout req s
  | .outboundFailure req => Sys2Proof.Machine.execOutboundFailure req s
  | .ualinkResponse req => Sys2Proof.Machine.execUalinkResponse req s
  | .inboundWrite r => Sys2Proof.Machine.execInboundWrite r s
  | .pieceAck piece => Sys2Proof.Machine.execPieceAck piece s
  | .inboundRead r => Sys2Proof.Machine.execInboundRead r s
  | .inboundAtomic r => Sys2Proof.Machine.execInboundAtomic r s
  | .ualinkInboundRequest r => Sys2Proof.Machine.execUalinkInboundRequest r s
  | .spdmRequest index => Sys2Proof.Machine.execSpdmRequest index s
  | .laneFailure die => Sys2Proof.Machine.execLaneFailure die s
  | .ualinkPortDown port => Sys2Proof.Machine.execUalinkPortDown port s
  | .launchArrival => Sys2Proof.Machine.execLaunchArrival s
  | .gatePass ctx acc => Sys2Proof.Machine.execGatePass ctx acc s
  | .clusterPlace die => Sys2Proof.Machine.execClusterPlace die s
  | .clusterRetire ctx acc cix => Sys2Proof.Machine.execClusterRetire ctx acc cix s
  | .gridComplete ctx acc => Sys2Proof.Machine.execGridComplete ctx acc s
  | .eventRecord => Sys2Proof.Machine.execEventRecord s
  | .faultQueueWrite ctx => Sys2Proof.Machine.execFaultQueueWrite ctx s
  | .tokenGrant => Sys2Proof.Machine.execTokenGrant s
  | .matrixStep core => Sys2Proof.Machine.execMatrixStep core s
  | .smallMatrixComplete core quadrant => Sys2Proof.Machine.execSmallMatrixComplete core quadrant s
  | .loadDataReturn uid group op => Sys2Proof.Machine.execLoadDataReturn uid group op s
  | .storePerform core line => Sys2Proof.Machine.execStorePerform core line s
  | .syncEngineExecute die => Sys2Proof.Machine.execSyncEngineExecute die s
  | .atomrdDelivery n => Sys2Proof.Machine.execAtomrdDelivery n s
  | .copyWrite copy => Sys2Proof.Machine.execCopyWrite copy s
  | .copyComplete copy => Sys2Proof.Machine.execCopyComplete copy s
  | .copyStop copy => Sys2Proof.Machine.execCopyStop copy s
  | .pageWalk ctx va => Sys2Proof.Machine.execPageWalk ctx va s
  | .waitmemSatisfied uid group lane => Sys2Proof.Machine.execWaitmemSatisfied uid group lane s
  | .parkWake uid group lane => Sys2Proof.Machine.execParkWake uid group lane s
  | .harrowGroupsStart uid => Sys2Proof.Machine.execHarrowGroupsStart uid s
  | .emulationStart iod => Sys2Proof.Machine.execEmulationStart iod s
  | .emulationResult iod => Sys2Proof.Machine.execEmulationResult iod s
  | .illegalInstruction => Sys2Proof.Machine.execIllegalInstruction s
  | .illegalLength => Sys2Proof.Machine.execIllegalLength s
  | .instructionFetchFault detail => Sys2Proof.Machine.execInstructionFetchFault detail s
  | .ualinkPortUp port => Sys2Proof.Machine.execUalinkPortUp port s

end Sys2Proof.Machine
end

