-- ==== Sys2Proof/Safety.lean ====
section
/-! DEFINITION. The terms in which statements about the machine are made: what stands at an instruction, what a register
reads as, what an instruction leaves alone, and the invariants of a safe run. -/
namespace Sys2Proof.Machine

/-- What holds of the package between two steps: its memories have their canonical form, no issue group is left standing,
and no fault of one is kept. -/
structure Sound (s : State) : Prop where
  home : s.home.wf = true
  mailbox : s.regs.mailbox.wf = true
  idle : s.cur = none
  calm : s.lastFault = none

/-- A step of the machine goes on: it does not stop with a fault of the model or a refusal. -/
def goesOn (s : State) : Prop := ∃ t, step s = .next t

/-! ## An issue group at its instruction -/

/-- An issue group stands at its instruction: team, group and context are there, its threads have lanes below 32 in
ascending order (R26, R27), and no REWRITE has set its group-wide effects aside (R393). -/
structure Stands (s : State) (c : Cur) (T : Team) (G : Group) (x : Ctx) : Prop where
  cur : s.cur = some c
  team : team? s c.w.uid = some T
  group : grp? T c.w.group = some G
  ctx : ctxOf s T = some x
  lanes : ∀ l ∈ c.lanes, l < 32 ∧ l < G.threads.length
  rising : c.lanes.Pairwise (· < ·)
  whole : c.noG = false

/-- The instruction can be held by its encoding, its v registers are the kernel's (R94), and no register is poisoned
(R380). -/
structure Ready (i : Instr) (s : State) (c : Cur) (T : Team) (G : Group) (x : Ctx) : Prop extends Stands s c T G x where
  wf : i.wf = true
  range : ∀ op f, asLong i = some (op, f) → vNeed op f ≤ T.kern.f
  clean : T.lpoison = []
  canon : T.lmem.wf = true

/-- The threads of the issue group whose guard is true, in ascending lane order (R154). -/
def acting (c : Cur) (G : Group) (f : Fld) : List Nat :=
  c.lanes.filter (fun l => match G.threads[l]? with | some th => guardTrue f th | none => false)

/-- What the thread of a lane reads. -/
def laneEnv (c : Cur) (T : Team) (G : Group) (x : Ctx) (l : Nat) : Env :=
  { t := T, g := G, th := (G.threads[l]?).getD threadNone, x := x, c := c, lane := l }

/-! ## What is left alone -/

/-- Between two states nothing differs but the threads of one group and the local space of its team. -/
structure SameBut (s s' : State) (w : Where) (T T' : Team) (G G' : Group) : Prop where
  rest : { s' with teams := s.teams } = s
  others : ∀ u, u ≠ w.uid → team? s' u = team? s u
  team : team? s' w.uid = some T'
  teamRest : { T' with lmem := T.lmem, lpoison := T.lpoison, groups := T.groups } = T
  groups : ∀ k, k ≠ w.group → grp? T' k = grp? T k
  group : grp? T' w.group = some G'
  groupRest : { G' with threads := G.threads } = G

/-- Registers of one group written and its threads changed, and nothing else: `v l n` is what vN of lane l is written
with, `g n` what gN is written with, `th l` what happens to the thread of lane l. Every register that is not written, and
every other byte of the local space, reads as before. -/
def Wrote (s s' : State) (c : Cur) (T : Team) (G : Group) (v : Nat → Nat → Option Nat) (g : Nat → Option Nat)
    (th : Nat → Thread → Thread) : Prop :=
  ∃ T' G', SameBut s s' c.w T T' G G'
    ∧ (∀ l, G'.threads[l]? = (G.threads[l]?).map (th l))
    ∧ T'.lpoison = [] ∧ T'.lmem.wf = true
    ∧ (∀ l n, l < 32 → n < T.kern.f → readV T' G' l n = match v l n with | some y => y % 2 ^ 64 | none => readV T G l n)
    ∧ (∀ n, n < 64 → readG T' G' n = match g n with | some y => y % 2 ^ 64 | none => readG T G n)
    ∧ (∀ a, (∀ l n, l < 32 → n < T.kern.f → (v l n).isSome → a < vAddr T.kern G l n ∨ vAddr T.kern G l n + 8 ≤ a) →
        (∀ n, n < 64 → (g n).isSome → a < gAddr T.kern G.idx n ∨ gAddr T.kern G.idx n + 8 ≤ a) →
        T'.lmem.get a = T.lmem.get a)

/-- A thread after the instruction: at the next one, ready to issue. -/
def stepped (pc : Nat) (th : Thread) : Thread := { th with pc := BitVec.ofNat 64 pc, status := .running, watch := none }

/-- Threads of the issue group advance; `k` happens besides to those whose guard is true. -/
def advance (c : Cur) (act : List Nat) (k : Nat → Thread → Thread) (l : Nat) (th : Thread) : Thread :=
  if l ∈ c.lanes then (if l ∈ act then k l (stepped c.next th) else stepped c.next th) else th

/-- Register `n` of v, or of g when `file` is true, as an instruction's destination: each acting lane writes its own value
to v; g takes that of the lowest (R175). -/
def toV (file : Bool) (n : Nat) (act : List Nat) (val : Nat → Nat) (l m : Nat) : Option Nat :=
  if !file && m == n && act.contains l then some (val l) else none
def toG (file : Bool) (n : Nat) (act : List Nat) (val : Nat → Nat) (m : Nat) : Option Nat :=
  if file && m == n then act.head?.map val else none

/-- An instruction whose only result is register d: each acting thread writes `val` there and changes its own state by
`k`; every thread of the issue group advances; nothing else changes. -/
def Computes (i : Instr) (f : Fld) (s : State) (c : Cur) (T : Team) (G : Group) (x : Ctx) (val : Env → Nat)
    (k : Env → Thread → Thread) : Prop :=
  ∃ s', exec i s = .next s' ∧
    Wrote s s' c T G (toV (fldBit f 4) f.d.toNat (acting c G f) (fun l => val (laneEnv c T G x l)))
      (toG (fldBit f 4) f.d.toNat (acting c G f) (fun l => val (laneEnv c T G x l)))
      (advance c (acting c G f) (fun l => k (laneEnv c T G x l)))

/-- The definition in slot n (R56). -/
def slotDef (x : Ctx) (n : Nat) : Fdr := fdrOf (slotWord x n)
/-- The definition in slot n is valid (R58), and one that an instruction accepts (R207). -/
def slotGood (x : Ctx) (n : Nat) (accepts : Fdr → Bool) : Prop := fdrValid (slotWord x n) = true ∧ accepts (slotDef x n) = true

/-- What an instruction that writes elements through a slot does besides: it ORs the nf bits of its elements in, and under
stochastic rounding moves sx on by the slot's number of elements (R205). -/
def flagged (flags : Env → Nat) (mode n : Nat) (e : Env) (th : Thread) : Thread :=
  { th with nf := th.nf ||| BitVec.ofNat 9 (flags e), sx := if mode = 5 then BitVec.ofNat 64 (e.th.sx.toNat + n) else th.sx }

/-- A value written as element j of the destination, with the nf bits of its operands (R205 step 4). -/
def writeElem (e : Env) (f : Fld) (k : Fdr) (mode j : Nat) (r : Exact × Nat) : Nat × Nat :=
  let w := flushOut k (foOf f) (roundEl e k f.slot.toNat mode j r.1)
  (w.1, w.2 ||| r.2)

/-- An instruction of R205 whose element j is the exact result `elem`, rounded once under the mode of R204 where the
instruction rounds. -/
def ComputesElements (i : Instr) (f : Fld) (s : State) (c : Cur) (T : Team) (G : Group) (x : Ctx) (rounds : Bool)
    (elem : Env → Fdr → Nat → Nat → Exact × Nat) : Prop :=
  let k := slotDef x f.slot.toNat
  let mode := if rounds then modeOf k (f.m.toNat % 8) else 0
  let rs (e : Env) := (List.range (elems k)).map (fun j => writeElem e f k mode j (elem e k mode j))
  Computes i f s c T G x (fun e => packElems k.w ((rs e).map (·.1))) (flagged (fun e => orAll ((rs e).map (·.2))) mode (elems k))

/-- The number whose bits below n are those that p names. -/
def fromBits : Nat → (Nat → Bool) → Nat
  | 0, _ => 0
  | n + 1, p => fromBits n p + b2n (p n) * 2 ^ n

/-- Zeros above the highest one among the low w bits, and below the lowest. -/
def leadingZeros (w x : Nat) : Nat := ((List.range w).takeWhile (fun k => !bit x (w - 1 - k))).length
def trailingZeros (w x : Nat) : Nat := ((List.range w).takeWhile (fun k => !bit x k)).length

/-! ## Small matrices -/

/-- A value with its code and the nf bits of the rounding that gave it. -/
abbrev Cell : Type := Val × Nat × Nat

/-- One rounding at position `el` of a small matrix (R262), with the nf bits of its operands. -/
def cellAt (e : Env) (f : Fld) (k : Fdr) (mode el : Nat) (r : Exact × Nat) : Cell :=
  let w := writeElem e f k mode el r
  ((codeVal k w.1).1, w.1, w.2)

/-- A quotient of R262, with DZ. -/
def quotient (a b : Val) : Val × Nat := ((divVal a b).1, (divVal a b).2.1 ||| (divVal a b).2.2)

/-- d − Σ of products (R268 to R270). -/
def lessProducts (mode : Nat) (d : Val) (ps : List (Val × Val)) : Val × Nat := smPlus mode true d ps

/-- The lower factor L of A by R268, column by column, with the pivots d of its columns. -/
def CholFactor (e : Env) (f : Fld) (k : Fdr) (mode r : Nat) (A : Nat → Nat → Val) (d : Nat → Val × Nat) (L : Nat → Nat → Cell) : Prop :=
  ∀ j i, j ≤ i → i < r →
    d j = lessProducts mode (A j j) ((List.range j).map (fun m => ((L j m).1, (L j m).1)))
    ∧ L i j = (if i = j then cellAt e f k mode (r * j + j) (sqrtVal (d j).1)
        else
          let t := lessProducts mode (A i j) ((List.range j).map (fun m => ((L i m).1, (L j m).1)))
          let q := quotient t.1 (L j j).1
          cellAt e f k mode (r * i + j) (.val q.1, q.2 ||| t.2))

/-- A run of R269: `a j` is the matrix before column j, `s j` the candidates of the column, `p j` the row of the largest,
`c j` the pivot, `l` and `u` what the column writes below and right of it, `pi j` the permutation before column j. -/
structure LupRun (e : Env) (f : Fld) (k : Fdr) (mode r : Nat) (tau : Val) (A : Nat → Nat → Val × Nat) where
  a : Nat → Nat → Nat → Val × Nat
  s : Nat → Nat → Cell
  p : Nat → Nat
  c : Nat → Cell
  l : Nat → Nat → Cell
  u : Nat → Nat → Cell
  pi : Nat → Nat → Nat

/-- The row that stands at row i once column j has interchanged its rows. -/
def LupRun.row {e : Env} {f : Fld} {k : Fdr} {mode r : Nat} {tau : Val} {A : Nat → Nat → Val × Nat} (R : LupRun e f k mode r tau A)
    (j i : Nat) : Nat := if i = j then R.p j else if i = R.p j then j else i

/-- The pivot of column j is replaced. -/
def LupRun.small {e : Env} {f : Fld} {k : Fdr} {mode r : Nat} {tau : Val} {A : Nat → Nat → Val × Nat} (R : LupRun e f k mode r tau A)
    (j : Nat) : Bool := !(R.s j (R.p j)).1.isNan && !valLt tau (R.s j (R.p j)).1.abs

/-- The equations of R269 for one column. -/
def LupRun.Column {e : Env} {f : Fld} {k : Fdr} {mode r : Nat} {tau : Val} {A : Nat → Nat → Val × Nat} (R : LupRun e f k mode r tau A)
    (j : Nat) : Prop :=
  let larger (x y : Val) : Bool := !y.isNan && (x.isNan || valLt y.abs x.abs)
  let top := R.s j (R.p j)
  (∀ i, j ≤ i → i < r →
    let t := lessProducts mode (R.a j i j).1 ((List.range j).map (fun m => ((R.a j i m).1, (R.a j m j).1)))
    R.s j i = cellAt e f k mode (r * i + j) (.val t.1, t.2))
  ∧ (j ≤ R.p j ∧ R.p j < r ∧ ∀ i, j ≤ i → i < r → larger (R.s j i).1 top.1 = false ∧ (i < R.p j → larger top.1 (R.s j i).1 = true))
  ∧ R.c j = (if R.small j then cellAt e f k mode (r * j + j) (.val (if top.1.neg then tau.negate else tau), 0) else top)
  ∧ (∀ i, j < i → i < r →
    let q := quotient (R.s j (R.row j i)).1 (R.c j).1
    R.l i j = cellAt e f k mode (r * i + j) (.val q.1, q.2))
  ∧ (∀ n, j < n → n < r →
    let t := lessProducts mode (R.a j (R.p j) n).1 ((List.range j).map (fun m => ((R.a j (R.p j) m).1, (R.a j m n).1)))
    R.u j n = cellAt e f k mode (r * j + n) (.val t.1, t.2))
  ∧ (∀ i n, i < r → n < r → R.a (j + 1) i n =
    if n = j ∧ i = j then ((R.c j).1, (R.c j).2.1)
    else if n = j ∧ j < i then ((R.l i j).1, (R.l i j).2.1)
    else if i = j ∧ j < n then ((R.u j n).1, (R.u j n).2.1)
    else R.a j (R.row j i) n)
  ∧ ∀ i, i < 6 → R.pi (j + 1) i = R.pi j (R.row j i)

/-- The equations of R269. -/
def LupRun.Holds {e : Env} {f : Fld} {k : Fdr} {mode r : Nat} {tau : Val} {A : Nat → Nat → Val × Nat} (R : LupRun e f k mode r tau A) :
    Prop :=
  (∀ i n, i < r → n < r → R.a 0 i n = A i n) ∧ (∀ i, i < 6 → R.pi 0 i = i) ∧ ∀ j, j < r → R.Column j

/-- One pass of R270 over column j of n: x from y, forward or backward, by the factor g, with or without division. -/
def SolvePass (e : Env) (f : Fld) (k : Fdr) (mode r n j : Nat) (forward unit : Bool) (g : Nat → Nat → Val) (y : Nat → Val)
    (x : Nat → Cell) : Prop :=
  ∀ i, i < r →
    let before := (List.range r).filter (fun m => if forward then decide (m < i) else decide (i < m))
    let t := lessProducts mode (y i) (before.map (fun m => (g i m, (x m).1)))
    let q := quotient t.1 (g i i)
    x i = cellAt e f k mode (n * i + j) (if unit then (.val t.1, t.2) else (.val q.1, q.2 ||| t.2))

/-! ## Converting copies -/

/-- The value x of source element i of the row that a COPYQ has read, by the steps of R250: an escape takes the next entry of
its group's side list (R79). -/
def copySource (k : Copy) (i : Nat) : Val :=
  let f := slotS k
  let g := 32 * qGlen k.desc
  let code (i : Nat) : Nat := ofBytes k.srcRow / 2 ^ (f.w * i) % 2 ^ f.w
  let esc (i : Nat) : Bool := (codeVal f (code i)).2
  let x := (readCode f (qFi k.desc) (code i)).1
  if qIn k.desc = true ∧ qGlen k.desc ≠ 0 then
    let a := k.aux.drop (auxLen k * (i / g))
    let X := ofBytes (a.take 1)
    let nth := ((List.range (i % g)).filter (fun j => esc (i - i % g + j))).length
    if X = 0xFF then .nan
    else if esc i = true then (if nth < 4 then (codeVal fdBinary32 (ofBytes ((a.drop (1 + 4 * nth)).take 4))).1 else .nan)
    else match x with
      | .fin n q => .fin n (qMul q (qPow2 ((X : Int) - 127)))
      | y => y
  else x

/-- R250: X is the scale of a group of the values x 0 … x (n − 1), and `esc` says which of them become escapes: steps 1 to 4. -/
def GroupScale (f : Fdr) (n : Nat) (x : Nat → Val) (X : Nat) (esc : Nat → Bool) : Prop :=
  let larger (j i : Nat) : Bool := match magOf (x j), magOf (x i) with
    | some p, some q => qLt q p || (decide (qCmp p q = .eq) && decide (j < i))
    | _, _ => false
  let cand (i : Nat) : Bool := f.esc && (magOf (x i)).isSome && decide (((List.range n).filter (fun j => larger j i)).length < 4)
  let rest := (List.range n).filter (fun i => (magOf (x i)).isSome && !cand i)
  (rest = [] → X = 127)
  ∧ (∀ i ∈ rest, ∀ q, magOf (x i) = some q → (∀ j ∈ rest, ∀ p, magOf (x j) = some p → qLt q p = false) →
    (X : Int) = max 0 (min 254 (qLog2 q - qLog2 (vmaxAny f) + 127)))
  ∧ ∀ i, i < n → esc i = (cand i && match magOf (x i) with
    | some q => qLe (overflowPoint f) (qMul q (qPow2 (127 - (X : Int))))
    | none => false)

/-- The destination of a COPYQ is grouped (R249). -/
def copyGrouped (k : Copy) : Prop := qIn k.desc = false ∧ qGlen k.desc ≠ 0

/-- The scales X and escapes of the row that a COPYQ has read (R250). -/
structure RowScales (k : Copy) (X : Nat → Nat) (esc : Nat → Bool) : Prop where
  scaled : copyGrouped k → ∀ g, g * (32 * qGlen k.desc) < qNe k.desc →
    GroupScale (slotD k) (min (32 * qGlen k.desc) (qNe k.desc - g * (32 * qGlen k.desc)))
      (fun i => copySource k (g * (32 * qGlen k.desc) + i)) (X g) (fun i => esc (g * (32 * qGlen k.desc) + i))
  alone : ¬ copyGrouped k → ∀ i, esc i = false

/-- Code and nf bits of destination element i of a row, with its group's scale (R250). -/
def copyElement (k : Copy) (i X : Nat) (escaped : Bool) : Nat × Nat :=
  let f := slotD k
  let x := copySource k i
  let y : Val := if qIn k.desc = false ∧ qGlen k.desc ≠ 0 then
      (match x with | .fin n q => .fin n (qMul q (qPow2 (127 - (X : Int)))) | y => y)
    else x
  let mode := modeOf f (qRnd k.desc)
  if escaped = true then (if f.sgn = true then 2 ^ (f.w - 1) else 0, 0)
  else flushOut f (qFo k.desc) (roundVal f y mode
    (if mode = 5 then sowDraw (k.row * qNe k.desc + i) (qD k.desc) (qSw k.desc) k.srk.toNat else 0))

/-! ## One thread, code objects, faults -/

/-- The issue group is one thread, lane l, and its guard is true. -/
structure Solo (i : Instr) (f : Fld) (s : State) (c : Cur) (T : Team) (G : Group) (x : Ctx) (l : Nat) : Prop
    extends Ready i s c T G x where
  one : c.lanes = [l]
  on : acting c G f = [l]

/-- The core keeps this entry of the code-object table for an id that can name a code object (R180, R181). -/
def Keeps (s : State) (x : Ctx) (T : Team) (id base len : Nat) : Prop :=
  id ≠ 0 ∧
  (core s T.die T.site).codes.find? (fun e => e.ctx == x.id && e.id == id) = some { ctx := x.id, id := id, base := base, len := len }

/-- The handle h(a) of an address in the code object `id` at `base` (R183). -/
def handle (id base a : Nat) : Nat := (id * 2 ^ 40 + 2 ^ 64 + a - base) % 2 ^ 64

/-- Threads of a team's group take a fault that is no translation fault and are delivered with it (R363, R364, R366): the
record goes to the group and to its context's fault queue, the group stops, the threads stand at I. A group that was parked
stays parked where it was (R359). Nothing else changes but the threads that did not
fault, to which `k` happens. -/
def Delivered (s s' : State) (c : Cur) (T : Team) (G : Group) (x : Ctx) (lanes : List Nat) (i : FaultInfo)
    (k : Nat → Thread → Thread) : Prop :=
  ∃ T' G', { s' with teams := s.teams, ctxs := s.ctxs, lastFault := s.lastFault } = s
    ∧ s'.lastFault = some (lanes, i)
    ∧ s'.ctxs = s.ctxs.map (fun y => if y.id == x.id then { y with fqPend := y.fqPend ++ [G'.frec] } else y)
    ∧ (∀ u, u ≠ c.w.uid → team? s' u = team? s u)
    ∧ team? s' c.w.uid = some T' ∧ { T' with groups := T.groups } = T
    ∧ (∀ g, g ≠ c.w.group → grp? T' g = grp? T g)
    ∧ grp? T' c.w.group = some G'
    ∧ { G' with threads := G.threads, frec := G.frec, stopped := G.stopped, parked := G.parked, also := G.also } = G
    ∧ G'.stopped = true ∧ G'.parked = (G.parked.toList ++ G.also).head? ∧ G'.also = (G.parked.toList ++ G.also).drop 1
    ∧ (∀ l, G'.threads[l]? = (G.threads[l]?).map (fun th =>
        if l ∈ lanes then { th with pc := BitVec.ofNat 64 c.pc, status := .faulted, parked := false } else k l th))
    ∧ G'.frec.length = 8
    ∧ G'.frec.getD 0 0 = BitVec.ofNat 64 (i.code.num + i.detail % 2 ^ 16 * 2 ^ 16 + laneMask lanes % 2 ^ 32 * 2 ^ 32)
    ∧ G'.frec.getD 1 0 = BitVec.ofNat 64 c.pc
    ∧ G'.frec.getD 3 0 = BitVec.ofNat 64 i.data ∧ G'.frec.getD 4 0 = BitVec.ofNat 64 i.datum2
    ∧ G'.frec.getD 5 0 = BitVec.ofNat 64 T.acc ∧ G'.frec.getD 6 0 = BitVec.ofNat 64 T.cix
    ∧ G'.frec.getD 7 0 = BitVec.ofNat 64 (T.ctx + T.k * 2 ^ 16 + c.w.group * 2 ^ 20 + T.die * 2 ^ 28 + T.site * 2 ^ 32)

/-- A fault of this issue group is delivered: it is a team's, and no fault-path slot of the patch fabric acts (R397). -/
def NoPatch (s : State) (c : Cur) (T : Team) (x : Ctx) : Prop :=
  T.role = .compute ∧ (c.noPatch = true ∨ slotsFor s T x c.gen = [])

/-! ## Memory -/

/-- A byte of HBM as the threads of a core see it on a page of a type (R123, R128): the core's own stores in core order,
over its cached copy of a NORMAL sector or over the home. -/
def seen (s : State) (die site ty pa : Nat) : Byte :=
  if 2 ≤ ty then s.home.get pa
  else overlay (core s die site).dirty pa
    (match (if ty = 0 then (core s die site).clean.find? (fun e => e.line == pa / 128) else none) with
      | some e => e.bytes.getD (pa % 128) 0
      | none => s.home.get pa)

/-- A counted instruction of one thread has issued (R243): from the state s0 that its accesses leave, its group has one
more operation, with a number of its own, and the thread has advanced. Nothing else of any team changes; an operation is
forgotten only once it is complete. -/
def Issued (s0 s' : State) (c : Cur) (l : Nat) (o : Op) : Prop :=
  ∃ T G T' G', team? s0 c.w.uid = some T ∧ grp? T c.w.group = some G
    ∧ { s' with teams := s0.teams } = s0 ∧ (∀ u, u ≠ c.w.uid → team? s' u = team? s0 u)
    ∧ team? s' c.w.uid = some T' ∧ { T' with groups := T.groups } = T
    ∧ (∀ k, k ≠ c.w.group → grp? T' k = grp? T k) ∧ grp? T' c.w.group = some G'
    ∧ { G' with threads := G.threads, ops := G.ops, nextOp := G.nextOp } = G
    ∧ (∀ m, G'.threads[m]? = (G.threads[m]?).map (fun th => if m = l then stepped c.next th else th))
    ∧ o.id = G.nextOp ∧ G'.nextOp = G.nextOp + 1 ∧ o ∈ G'.ops
    ∧ (∀ p ∈ G.ops, p ∈ G'.ops ∨ opDone s0 c.w p = true) ∧ (∀ p ∈ G'.ops, p = o ∨ p ∈ G.ops)

/-- A group's operations have numbers below the next one, and a counted instruction has room (R243). -/
structure Room (s : State) (c : Cur) (G : Group) (k : Ctr) : Prop where
  numbered : ∀ o ∈ G.ops, o.id < G.nextOp
  room : ctrFull s c.w k = false

/-- A load's operation: the bytes of one thread that will go to registers (R97). -/
def loadOp (G : Group) (l : Nat) (bs : List Byte) (form : RForm) : Op :=
  { id := G.nextOp, ctr := .loads, kind := .parts, done := false,
    parts := [{ lane := l, bytes := bs, links := [], form := form, ready := true, nf := 0, acq := 0, o := G.o }] }

/-- An operation that is complete when it issues. -/
def doneOp (G : Group) (k : Ctr) : Op := { id := G.nextOp, ctr := k, kind := .parts, parts := [], done := true }

/-- What an inbound atomic on an element of n bytes leaves there (R404, R416, R132, R234): `a` and `c` are its operands. -/
def inboundNew (kind : InKind) (n old a c : Nat) : Option Nat :=
  let val (sg : Bool) (x : Nat) : Int := if sg then sext x (8 * n) else x
  match kind with
  | .fetchAdd => some ((old + a) % 2 ^ (8 * n))
  | .swap => some a
  | .cas => some (if old = a then c else old)
  | .min sg => some (if val sg a < val sg old then a else old)
  | .max sg => some (if val sg old < val sg a then a else old)
  | .and => some (old &&& a)
  | .or => some (old ||| a)
  | .xor => some (old ^^^ a)
  | .inc => some (if a ≤ old then 0 else old + 1)
  | .dec => some (if old = 0 ∨ a < old then a else old - 1)
  | _ => none

/-! ## Cross-lane instructions -/

/-- The last of the named threads arrive at a cross-lane instruction (R33): the mask in g(c) names the lanes `named`, each
is arriving or is held here with the same mask, and none has ended. -/
structure LastArrival (f : Fld) (c : Cur) (T : Team) (G : Group) (named : List Nat) : Prop where
  arriving : c.lanes ≠ []
  mask : named = (List.range 32).filter (bit (readG T G f.c.toNat))
  inMask : ∀ l ∈ c.lanes, l ∈ named
  live : ∀ l ∈ named, ∃ th, G.threads[l]? = some th ∧ th.status ≠ .ended
  held : ∀ l ∈ named, l ∈ c.lanes ∨ ∃ th g n d, G.threads[l]? = some th ∧
    th.status = .heldLane (readG T G f.c.toNat % 2 ^ 32) g n d ∧ th.pc.toNat = c.pc
  agree : ∀ (l : Nat) (th : Thread) (m : Nat) (g : Fld) (n d : Nat), G.threads[l]? = some th → th.status = .heldLane m g n d → th.pc.toNat = c.pc →
    m = readG T G f.c.toNat % 2 ^ 32

/-- What the participants of a cross-lane instruction read: the named threads whose guard is true, ascending (R219). -/
def participants (f : Fld) (c : Cur) (T : Team) (G : Group) (x : Ctx) (named : List Nat) : List Env :=
  (acting { c with lanes := named } G f).map (laneEnv c T G x)

/-- A cross-lane instruction that executes once for all named threads: `write` names the v register that every participant
writes and the value, from what the participants and it read; `k` happens to the thread. Every named thread issues with it
(R27). -/
def ComputesLanes (i : Instr) (f : Fld) (s : State) (c : Cur) (T : Team) (G : Group) (x : Ctx) (named : List Nat)
    (write : List Env → Env → Option (Nat × Nat)) (k : List Env → Env → Thread → Thread) : Prop :=
  let act := acting { c with lanes := named } G f
  let ps := participants f c T G x named
  ∃ s', exec i s = .next s' ∧
    Wrote s s' c T G
      (fun l n => match write ps (laneEnv c T G x l) with
        | some (m, y) => if l ∈ act ∧ n = m then some y else none
        | none => none)
      (fun _ => none) (fun l th => advance { c with lanes := named } act (fun l => k ps (laneEnv c T G x l)) l
        (if l ∈ named then { th with last := s.tick } else th))

/-- Node j of level n of the fixed pairwise tree of R222, from the operand of each lane position; holes are passed up. -/
def treeAt {α : Type} (combine : α → α → α × Nat) (operand : Nat → Option α) : Nat → Nat → Option α × Nat
  | 0, j => (operand j, 0)
  | n + 1, j =>
    let a := treeAt combine operand n (2 * j)
    let b := treeAt combine operand n (2 * j + 1)
    match a.1, b.1 with
    | some p, some q => (some (combine p q).1, a.2 ||| b.2 ||| (combine p q).2)
    | some p, none => (some p, a.2 ||| b.2)
    | none, q => (q, a.2 ||| b.2)

/-- The operand that a participant puts at its lane position, where the position counts. -/
def atPositions {α : Type} (ps : List Env) (operand : Env → α) (counts : Nat → Bool) (l : Nat) : Option α :=
  if counts l then (ps.find? (fun e => e.lane == l)).map operand else none

/-- Nothing besides happens to a thread. -/
def noMore (_ : Env) (th : Thread) : Thread := th

end Sys2Proof.Machine
end

