-- ==== Sys2Proof/Certificates/Slice0/Obligations.lean ====
section
/-! DEFINITION. The statements for the provers. Those about an instruction hold for every form and operand that its
encoding has; `Ready` says that its issue group stands at it, with registers that the kernel has and none poisoned; the
faults taken otherwise have statements of their own. -/
open Sys2Proof Sys2Proof.Machine

/-! ## The integer class -/

/-- R176: the results of the arithmetic instructions, reduced under R174, in v(d) or in g(d) (R173, R175); IADC writes its
carry-out to po. Nothing else changes but the pc. A field that the table has as "—" is 0 in every such instruction. -/
def Obligations.IntegerArithmetic : Prop :=
  ∀ (f : Fld) (s : State) (c : Cur) (T : Team) (G : Group) (x : Ctx),
    let t := f.slot.toNat
    let a (e : Env) := tyRead t (srcA e f)
    let b (e : Env) := tyRead t (srcB e f)
    let k (e : Env) := tyRead t (srcC e f)
    let w := tyWidth t
    let clamp (y : Int) : Int := if tySigned t then max (-(2 ^ (w - 1))) (min (2 ^ (w - 1) - 1) y) else max 0 (min (2 ^ w - 1) y)
    let pc (e : Env) := predOf e.th (f.c.toNat % 8)
    (∀ row ∈ ([(Instr.mov, b),
        (Instr.sel, fun e => if pc e then a e else b e),
        (Instr.iadd, fun e => a e + b e),
        (Instr.isub, fun e => a e - b e),
        (Instr.imul, fun e => a e * b e),
        (Instr.imulh, fun e => a e * b e / 2 ^ w),
        (Instr.imad, fun e => a e * b e + k e),
        (Instr.idiv, fun e => if b e = 0 then (if tySigned t then -1 else 2 ^ w - 1) else (a e).tdiv (b e)),
        (Instr.irem, fun e => if b e = 0 then a e else a e - b e * (a e).tdiv (b e)),
        (Instr.ineg, fun e => - b e),
        (Instr.iabs, fun e => if b e < 0 then - b e else b e),
        (Instr.imin, fun e => min (a e) (b e)),
        (Instr.imax, fun e => max (a e) (b e)),
        (Instr.iadds, fun e => clamp (a e + b e)),
        (Instr.isubs, fun e => clamp (a e - b e))] : List ((Fld → Instr) × (Env → Int))),
      Ready (row.1 f) s c T G x → Computes (row.1 f) f s c T G x (fun e => tyWrite t (row.2 e)) noMore)
    ∧ (Ready (.iadc f) s c T G x →
        Computes (.iadc f) f s c T G x (fun e => tyWrite t (a e + b e + if pc e then 1 else 0))
          (fun e th => setPred (f.c.toNat / 8 % 8)
            (decide (2 ^ w ≤ srcA e f % 2 ^ w + srcB e f % 2 ^ w + if pc e then 1 else 0)) th))
    ∧ (Ready (.lea f) s c T G x →
        Computes (.lea f) f s c T G x (fun e => ((srcA e f + b e * 2 ^ f.c.toNat) % 2 ^ 64).toNat) noMore)
    ∧ (Ready (.lear f) s c T G x →
        Computes (.lear f) f s c T G x (fun e => ((c.pc + b e) % 2 ^ 64).toNat) noMore)
    ∧ (∀ row ∈ ([(Instr.mov, true, 1), (.sel, false, 8), (.iadd, false, 1), (.isub, false, 1), (.imul, false, 1), (.imulh, false, 1),
        (.imad, false, 256), (.idiv, false, 1), (.irem, false, 1), (.ineg, true, 1), (.iabs, true, 1), (.imin, false, 1), (.imax, false, 1),
        (.iadc, false, 64), (.iadds, false, 1), (.isubs, false, 1), (.lea, false, 8), (.lear, true, 1)] : List ((Fld → Instr) × Bool × Nat)),
      (row.1 f).wf = true → (row.2.1 = true → f.a = 0) ∧ f.c.toNat < row.2.2)

/-- R177: the results of the logic and shift instructions, on the w bits of the operands; n is the 64 bits of b. A field that
the table has as "—" is 0. -/
def Obligations.LogicAndShifts : Prop :=
  ∀ (f : Fld) (s : State) (c : Cur) (T : Team) (G : Group) (x : Ctx),
    let t := f.slot.toNat
    let w := tyWidth t
    let a (e : Env) := srcA e f % 2 ^ w
    let b (e : Env) := srcB e f % 2 ^ w
    let n (e : Env) := srcB e f
    (∀ row ∈ ([(Instr.and, fun e => fromBits w (fun k => bit (a e) k && bit (b e) k)),
        (Instr.or, fun e => fromBits w (fun k => bit (a e) k || bit (b e) k)),
        (Instr.xor, fun e => fromBits w (fun k => bit (a e) k != bit (b e) k)),
        (Instr.not, fun e => fromBits w (fun k => !bit (b e) k)),
        (Instr.andn, fun e => fromBits w (fun k => bit (a e) k && !bit (b e) k)),
        (Instr.logic3, fun e => fromBits w (fun k =>
          bit f.c.toNat (4 * b2n (bit (srcD e f) k) + 2 * b2n (bit (a e) k) + b2n (bit (b e) k)))),
        (Instr.shl, fun e => if w ≤ n e then 0 else a e * 2 ^ n e),
        (Instr.shr, fun e => if w ≤ n e then 0 else a e / 2 ^ n e),
        (Instr.sar, fun e => if w ≤ n e then (if sext (a e) w < 0 then -1 else 0) else sext (a e) w / 2 ^ n e),
        (Instr.rol, fun e => fromBits w (fun k => bit (a e) ((k + (w - n e % w)) % w))),
        (Instr.ror, fun e => fromBits w (fun k => bit (a e) ((k + n e) % w))),
        (Instr.dshr, fun e => (a e * 2 ^ w + srcC e f % 2 ^ w) / 2 ^ (n e % (2 * w)))] : List ((Fld → Instr) × (Env → Int))),
      Ready (row.1 f) s c T G x → Computes (row.1 f) f s c T G x (fun e => tyWrite t (row.2 e)) noMore)
    ∧ (∀ i ∈ [Instr.and, .or, .xor, .not, .andn, .shl, .shr, .sar, .rol, .ror], (i f).wf = true → f.c = 0)
    ∧ ((Instr.not f).wf = true → f.a = 0)

/-- R178: the results of the bit-field instructions; pos is b[5:0], len is b[14:8] but at most 64, and a bit at 64 or more
reads as 0 and is not written. -/
def Obligations.BitFields : Prop :=
  ∀ (f : Fld) (s : State) (c : Cur) (T : Team) (G : Group) (x : Ctx),
    let t := f.slot.toNat
    let w := tyWidth t
    let a (e : Env) := srcA e f
    let b (e : Env) := srcB e f % 2 ^ w
    let pos (e : Env) := srcB e f % 64
    let len (e : Env) := min (srcB e f / 256 % 128) 64
    let at64 (x k : Nat) : Bool := decide (k < 64) && bit x k
    let inField (e : Env) (k : Nat) : Bool := decide (pos e ≤ k) && decide (k < pos e + len e)
    (∀ row ∈ ([(Instr.bfx, fun e => fromBits 64 (fun k => decide (k < len e) && at64 (a e) (k + pos e))),
        (Instr.bfxs, fun e => fromBits 64 (fun k => decide (0 < len e) && at64 (a e) (min k (len e - 1) + pos e))),
        (Instr.bfi, fun e => fromBits 64 (fun k => if inField e k then bit (a e) (k - pos e) else bit (srcD e f) k)),
        (Instr.sext, fun e => fromBits 64 (fun k => bit (a e) (min k (srcB e f % 64)))),
        (Instr.zext, fun e => fromBits 64 (fun k => decide (k ≤ srcB e f % 64) && bit (a e) k)),
        (Instr.bmsk, fun e => fromBits 64 (inField e))] : List ((Fld → Instr) × (Env → Nat))),
      Ready (row.1 f) s c T G x → Computes (row.1 f) f s c T G x row.2 noMore)
    ∧ ∀ row ∈ ([(Instr.popc, fun e => ((List.range w).filter (bit (b e))).length),
        (Instr.clz, fun e => leadingZeros w (b e)),
        (Instr.ctz, fun e => trailingZeros w (b e)),
        (Instr.brev, fun e => fromBits w (fun k => bit (b e) (w - 1 - k))),
        (Instr.bswap, fun e => fromBits w (fun k => bit (b e) (8 * (w / 8 - 1 - k / 8) + k % 8)))] :
          List ((Fld → Instr) × (Env → Nat))),
      Ready (row.1 f) s c T G x → Computes (row.1 f) f s c T G x (fun e => tyWrite t (row.2 e)) noMore

/-- R179: what SETP, PLOGIC, PSET, PMOV and SETV write. A predicate is a thread's own: nothing else of the thread changes
but the pc, and a write to p0 is discarded (R175). -/
def Obligations.Predicates : Prop :=
  ∀ (f : Fld) (s : State) (c : Cur) (T : Team) (G : Group) (x : Ctx),
    let t := f.slot.toNat
    let act := acting c G f
    let a (e : Env) := tyRead t (srcA e f)
    let b (e : Env) := tyRead t (srcB e f)
    (∀ row ∈ ([(Instr.setp, fun e => match f.c.toNat with
          | 0 => decide (a e = b e) | 1 => decide (a e ≠ b e) | 2 => decide (a e < b e) | 3 => decide (a e ≤ b e)
          | 4 => decide (a e > b e) | _ => decide (a e ≥ b e)),
        (Instr.plogic, fun e => bit f.c.toNat (4 * b2n (predOf e.th f.d.toNat) + 2 * b2n (predOf e.th f.a.toNat)
          + b2n (predOf e.th f.b.toNat))),
        (Instr.pset, fun e => bit (srcA e f) (srcB e f % 64))] : List ((Fld → Instr) × (Env → Bool))),
      Ready (row.1 f) s c T G x → ∃ s', exec (row.1 f) s = .next s' ∧
        Wrote s s' c T G (fun _ _ => none) (fun _ => none)
          (advance c act (fun l => setPred f.d.toNat (row.2 (laneEnv c T G x l)))))
    ∧ (Ready (.setv f) s c T G x → Computes (.setv f) f s c T G x
        (fun e => tyWrite t (if predOf e.th f.a.toNat then (if tySigned t then -1 else 1) else 0)) noMore)
    ∧ (Ready (.pmov f) s c T G x → fldBit f 6 = false → ∃ s', exec (.pmov f) s = .next s' ∧
        Wrote s s' c T G (toV false f.d.toNat act (fun l => fromBits 8 (predOf (laneEnv c T G x l).th))) (fun _ => none)
          (advance c act (fun _ th => th)))
    ∧ (Ready (.pmov f) s c T G x → fldBit f 6 = true → ∃ s', exec (.pmov f) s = .next s' ∧
        Wrote s s' c T G (fun _ _ => none) (fun _ => none)
          (advance c act (fun l th => (List.range 7).foldl
            (fun th k => setPred (k + 1) (bit (readV T G l f.a.toNat) (k + 1)) th) th)))

/-! ## The format class -/

/-- R210 with R205 and R206: each element is the exact result, rounded once by `round_to`; the nf bits of operands and
results are ORed in; under stochastic rounding sx advances by the slot's L. Where no enclosure decides a rounding of
exp2, log2, sin or cos, the value is free (log 14). The sign of a zero or infinite quotient is the model's choice (log
35). -/
def Obligations.FormatArithmetic : Prop :=
  ∀ (f : Fld) (s : State) (c : Cur) (T : Team) (G : Group) (x : Ctx),
    let a (e : Env) (k : Fdr) (j : Nat) := opA e f k j
    let b (e : Env) (k : Fdr) (j : Nat) := opB e f k j
    let d (e : Env) (k : Fdr) (j : Nat) := opC e f k j
    (∀ row ∈ ([(Instr.fadd, fun m a b => sumVals [a, b] m),
        (Instr.fsub, fun m a b => sumVals [a, b.negate] m),
        (Instr.fmul, fun _ a b => mulVal a b),
        (Instr.fdiv, fun _ a b => ((divVal a b).1, (divVal a b).2.1))] : List ((Fld → Instr) × (Nat → Val → Val → Val × Nat))),
      Ready (row.1 f) s c T G x → slotGood x f.slot.toNat (fun _ => true) →
        ComputesElements (row.1 f) f s c T G x true (fun e k m j =>
          let r := row.2 m (a e k j).1 (b e k j).1
          (.val r.1, r.2 ||| (a e k j).2 ||| (b e k j).2)))
    ∧ (∀ row ∈ ([(Instr.fsqrt, fun _ => true, sqrtVal),
        (Instr.frcp, fun _ => true, fun b => (.val (divVal (.fin false (qOf 1)) b).1, (divVal (.fin false (qOf 1)) b).2.1)),
        (Instr.frsq, fun _ => true, rsqrtVal),
        (Instr.fexp2, fun k => [0, 1, 4].contains k.kind, exp2Val),
        (Instr.flog2, fun k => [0, 1, 4].contains k.kind, log2Val),
        (Instr.fsin, fun k => [0, 1, 4].contains k.kind, trigVal false),
        (Instr.fcos, fun k => [0, 1, 4].contains k.kind, trigVal true),
        (Instr.fxexp, fun _ => true, fun b => match b with
          | .nan => (.val .nan, 0)
          | .inf _ => (.val (.inf false), 0)
          | .fin _ q => (.val (if qIsZero q then .inf true else valOf (qOf (qLog2 q))), 0))] :
          List ((Fld → Instr) × (Fdr → Bool) × (Val → Exact × Nat))),
      Ready (row.1 f) s c T G x → slotGood x f.slot.toNat row.2.1 →
        ComputesElements (row.1 f) f s c T G x true (fun e k _ j =>
          ((row.2.2 (b e k j).1).1, (row.2.2 (b e k j).1).2 ||| (b e k j).2)))
    ∧ (∀ row ∈ ([(Instr.ffma, fun m p c => sumVals [p, c] m),
        (Instr.ffms, fun m p c => sumVals [p, c.negate] m),
        (Instr.fnma, fun m p c => sumVals [p.negate, c] m)] : List ((Fld → Instr) × (Nat → Val → Val → Val × Nat))),
      Ready (row.1 f) s c T G x → slotGood x f.slot.toNat (fun _ => true) →
        ComputesElements (row.1 f) f s c T G x true (fun e k m j =>
          let p := mulVal (a e k j).1 (b e k j).1
          let r := if (a e k j).1.isNan || (b e k j).1.isNan || (d e k j).1.isNan then (.nan, 0)
            else ((row.2 m p.1 (d e k j).1).1, (row.2 m p.1 (d e k j).1).2 ||| p.2)
          (.val r.1, r.2 ||| (a e k j).2 ||| (b e k j).2 ||| (d e k j).2)))
    ∧ (Ready (.fscl f) s c T G x → slotGood x f.slot.toNat (fun _ => true) →
        ComputesElements (.fscl f) f s c T G x true (fun e k _ j =>
          let n := max (-8192) (min 8192 (sext (srcBs e f) 64))
          (.val (match (a e k j).1 with | .fin g q => .fin g (qMul q (qPow2 n)) | v => v), (a e k j).2)))
    ∧ (Ready (.frnd f) s c T G x → slotGood x f.slot.toNat (fun _ => true) →
        let k := slotDef x f.slot.toNat
        let mode := modeOf k (f.m.toNat % 8)
        let rs (e : Env) := (List.range (elems k)).map (fun j =>
          let r := roundInteger k (foOf f) mode (if mode = 5 then drawFor e f.slot.toNat j else 0) (b e k j).1
          (r.1, r.2 ||| (b e k j).2))
        Computes (.frnd f) f s c T G x (fun e => packElems k.w ((rs e).map (·.1)))
          (flagged (fun e => orAll ((rs e).map (·.2))) mode (elems k)))

/-- R211: minimum, maximum, sign and clamp under the order −∞ < negative < −0 < +0 < positive < +∞; the result passes
through `round_to`, and no mode is used. Log 21 names what is inferred of the flags. -/
def Obligations.FormatOrder : Prop :=
  ∀ (f : Fld) (s : State) (c : Cur) (T : Team) (G : Group) (x : Ctx),
    let lesser (a b : Val) : Val := if valLt b a then b else a
    let greater (a b : Val) : Val := if valLt a b then b else a
    let ignore (k : Val → Val → Val) (a b : Val) : Val := if a.isNan then b else if b.isNan then a else k a b
    let keep (k : Val → Val → Val) (a b : Val) : Val := if a.isNan || b.isNan then .nan else k a b
    let a (e : Env) (k : Fdr) (j : Nat) := opA e f k j
    let b (e : Env) (k : Fdr) (j : Nat) := opB e f k j
    let d (e : Env) (k : Fdr) (j : Nat) := opC e f k j
    slotGood x f.slot.toNat (fun _ => true) →
    (∀ row ∈ ([(Instr.fmin, ignore lesser), (Instr.fmax, ignore greater), (Instr.fminp, keep lesser),
        (Instr.fmaxp, keep greater)] : List ((Fld → Instr) × (Val → Val → Val))),
      Ready (row.1 f) s c T G x → ComputesElements (row.1 f) f s c T G x false (fun e k _ j =>
        (.val (row.2 (a e k j).1 (b e k j).1), (a e k j).2 ||| (b e k j).2)))
    ∧ (∀ row ∈ ([(Instr.fabs, Val.abs), (Instr.fneg, Val.negate)] : List ((Fld → Instr) × (Val → Val))),
      Ready (row.1 f) s c T G x → ComputesElements (row.1 f) f s c T G x false (fun e k _ j =>
        (.val (row.2 (b e k j).1), (b e k j).2)))
    ∧ (Ready (.fcpys f) s c T G x → ComputesElements (.fcpys f) f s c T G x false (fun e k _ j =>
        let neg : Bool := match (b e k j).1 with
          | .nan => k.sgn && bit (elemAt k.w (srcBslot e f k) j) (k.w - 1)
          | .fin n q => if 2 ≤ k.kind then qNegative q else n
          | .inf n => n
        (.val (if neg then (a e k j).1.abs.negate else (a e k j).1.abs), (a e k j).2 ||| (b e k j).2)))
    ∧ (Ready (.fclamp f) s c T G x → ComputesElements (.fclamp f) f s c T G x false (fun e k _ j =>
        let lo := (b e k j).1
        let hi := (d e k j).1
        let r := if !lo.isNan && valLt (a e k j).1 lo then lo else (a e k j).1
        (.val (if (a e k j).1.isNan then .nan else if !hi.isNan && valLt hi r then hi else r),
          (a e k j).2 ||| (b e k j).2 ||| (d e k j).2)))

/-- R212 and R213: comparisons and classes write mask elements or one predicate; FSEL writes the selected value. FSEL
takes its flags from the selected element only (log 21). -/
def Obligations.FormatCompare : Prop :=
  ∀ (f : Fld) (s : State) (c : Cur) (T : Team) (G : Group) (x : Ctx),
    let k := slotDef x f.slot.toNat
    let act := acting c G f
    let mask (ps : List (Bool × Nat)) : Nat := packElems k.w (ps.map (fun p => if p.1 then 2 ^ k.w - 1 else 0))
    let less (p q : Val) : Bool := valNumCmp p q == .lt
    let holds (cc : Nat) (p q : Val) : Bool :=
      let un := p.isNan || q.isNan
      match cc with
      | 0 => !un && valNumCmp p q == .eq
      | 1 => un || valNumCmp p q != .eq
      | 2 => !un && less p q
      | 3 => !un && (less p q || valNumCmp p q == .eq)
      | 4 => !un && !(less p q || valNumCmp p q == .eq)
      | 5 => !un && !less p q
      | 6 => un
      | _ => !un
    let cmp (e : Env) (j : Nat) : Bool × Nat :=
      let p := opA e f k j
      let q := opB e f k j
      (holds (f.c.toNat % 8) p.1 q.1,
        (if 2 ≤ f.c.toNat % 8 ∧ f.c.toNat % 8 ≤ 5 ∧ (p.1.isNan || q.1.isNan) then nfIV else 0) ||| p.2 ||| q.2)
    let cls (e : Env) (j : Nat) : Bool × Nat :=
      let code := elemAt k.w (srcA e f) j
      let r := readCode k (fiOf f) code
      (bit (srcBz e f) (match r.1 with
        | .nan => 8 | .inf true => 0 | .inf false => 7
        | .fin n q => if qIsZero q then (if n then 3 else 4)
          else if isSubnormal k code then (if n then 2 else 5) else if n then 1 else 6), r.2)
    let all (p : Env → Nat → Bool × Nat) (e : Env) := (List.range (elems k)).map (p e)
    slotGood x f.slot.toNat (fun _ => true) →
    (∀ row ∈ ([(Instr.fcmp, cmp), (Instr.fclass, cls)] : List ((Fld → Instr) × (Env → Nat → Bool × Nat))),
      Ready (row.1 f) s c T G x → Computes (row.1 f) f s c T G x (fun e => mask (all row.2 e))
        (flagged (fun e => orAll ((all row.2 e).map (·.2))) 0 0))
    ∧ (Ready (.fsetp f) s c T G x →
        let rs (e : Env) := if f.c.toNat / 8 % 4 = 0 then [cmp e 0] else all cmp e
        ∃ s', exec (.fsetp f) s = .next s' ∧ Wrote s s' c T G (fun _ _ => none) (fun _ => none)
          (advance c act (fun l th =>
            let e := laneEnv c T G x l
            flagged (fun e => orAll ((rs e).map (·.2))) 0 0 e
              (setPred f.d.toNat (if f.c.toNat / 8 % 4 = 2 then (rs e).any (·.1) else (rs e).all (·.1)) th))))
    ∧ (Ready (.fsel f) s c T G x → ComputesElements (.fsel f) f s c T G x false (fun e k _ j =>
        let r := if elemAt k.w (srcC e f) j = 0 then opB e f k j else opA e f k j
        (.val r.1, r.2)))

/-- R214 and R215: CVT, SCALE and UNSCALE convert part p of the source elements, times the factor, into the
destination slot; a destination element that is not written keeps its code. A part beyond the elements takes a format
fault (`FaultsBeforeExecution`). Logs 26 and 35 name what is chosen of the flags and the unit at the ends of a format. -/
def Obligations.FormatConvert : Prop :=
  ∀ (f : Fld) (s : State) (c : Cur) (T : Team) (G : Group) (x : Ctx),
    let kd := slotDef x f.slot.toNat
    let ks := slotDef x (f.c.toNat % 16)
    let n := min (elems ks) (elems kd)
    let mode := modeOf kd (f.m.toNat % 8)
    let scaled (up : Bool) (e : Env) (v : Val) : Val :=
      let X := srcBz e f % 256
      if X = 255 then .nan
      else match v with
        | .fin g q => .fin g (qMul q (qPow2 (if up then (X : Int) - 127 else 127 - X)))
        | v => v
    ∀ row ∈ ([(Instr.cvt, fun _ => f.b.toNat % 64, fun _ v => v),
        (Instr.scale, fun e => srcBz e f / 256 % 64, scaled false),
        (Instr.unscale, fun e => srcBz e f / 256 % 64, scaled true)] :
          List ((Fld → Instr) × (Env → Nat) × (Env → Val → Val))),
      slotGood x f.slot.toNat (fun _ => true) → slotGood x (f.c.toNat % 16) (fun _ => true) →
      Ready (row.1 f) s c T G x →
      (∀ l ∈ acting c G f, row.2.1 (laneEnv c T G x l) * n < max (elems ks) (elems kd)) →
      let sb (e : Env) := if elems ks ≤ elems kd then 0 else row.2.1 e * n
      let db (e : Env) := if elems ks ≤ elems kd then row.2.1 e * n else 0
      let rs (e : Env) := (List.range (elems kd)).map (fun j =>
        if db e ≤ j ∧ j < db e + n ∧ sb e + (j - db e) < elems ks then
          let v := readCode ks (fiOf f) (elemAt ks.w (srcA e f) (sb e + (j - db e)))
          writeElem e f kd mode j (.val (row.2.2 e v.1), v.2)
        else (elemAt kd.w (srcD e f) j, 0))
      Computes (row.1 f) f s c T G x (fun e => packElems kd.w ((rs e).map (·.1)))
        (flagged (fun e => orAll ((rs e).map (·.2))) mode (elems kd))

/-- R216: FHSUM by the pairwise tree of R80, rounded at each node; FHMAX; FDOT, summed exactly and rounded once.
Element 0 of the destination has the result, the other elements are 0. The flush bit acts on the written result, not
on the nodes (log 22). -/
def Obligations.FormatHorizontal : Prop :=
  ∀ (f : Fld) (s : State) (c : Cur) (T : Team) (G : Group) (x : Ctx),
    let k := slotDef x f.slot.toNat
    let mode := modeOf k (f.m.toNat % 8)
    let as (e : Env) := (List.range (elems k)).map (opA e f k)
    let bs (e : Env) := (List.range (elems k)).map (opB e f k)
    let out (e : Env) (mode : Nat) (v : Val × Nat) := writeElem e f k mode 0 (.val v.1, v.2)
    let greater (a b : Val) : Val := if a.isNan then b else if b.isNan then a else if valLt a b then b else a
    let sum (e : Env) := valTree (fun p q =>
      let r := sumVals [p, q] mode
      let w := roundVal k r.1 mode (if mode = 5 then drawFor e f.slot.toNat 0 else 0)
      ((codeVal k w.1).1, r.2 ||| w.2)) 6 ((bs e).map (·.1))
    let dot (e : Env) :=
      let c0 := opC e f k 0
      let r := dotVal mode (((as e).zip (bs e)).map (fun p => (p.1.1, p.2.1))) c0.1
      (r.1, r.2 ||| c0.2 ||| orAll ((as e).map (·.2)))
    let flags (m : Nat) (v : Env → Val × Nat) (e : Env) := (out e m (v e)).2 ||| orAll ((bs e).map (·.2))
    (slotGood x f.slot.toNat (fun _ => true) → Ready (.fhsum f) s c T G x →
      Computes (.fhsum f) f s c T G x (fun e => (out e mode (sum e)).1) (flagged (flags mode sum) mode (elems k)))
    ∧ (slotGood x f.slot.toNat (fun _ => true) → Ready (.fhmax f) s c T G x →
      let top (e : Env) := (((bs e).map (·.1)).foldl greater .nan, 0)
      Computes (.fhmax f) f s c T G x (fun e => (out e 0 (top e)).1) (flagged (flags 0 top) 0 0))
    ∧ (slotGood x f.slot.toNat (fun k => k.kind != 1) → Ready (.fdot f) s c T G x →
      Computes (.fdot f) f s c T G x (fun e => (out e mode (dot e)).1) (flagged (flags mode dot) mode (elems k)))

/-- R217: SOWG writes the four output words of SOW-128; SOWGF writes uniform values, rounded toward zero whatever the slot's
rnd field says. Neither touches nf or sx. -/
def Obligations.CounterDraws : Prop :=
  ∀ (f : Fld) (s : State) (c : Cur) (T : Team) (G : Group) (x : Ctx),
    let k := slotDef x f.slot.toNat
    let act := acting c G f
    let o (e : Env) := sow (srcA e f) (srcBz e f % 2 ^ 32) (srcBz e f / 2 ^ 32 % 2 ^ 32) (srcC e f)
    let uniform (num bits : Nat) : Nat := (roundVal k (valOf (qMk num (2 ^ bits))) 1 0).1
    (Ready (.sowg f) s c T G x → ∃ s', exec (.sowg f) s = .next s' ∧
      Wrote s s' c T G (fun l n =>
          let w := o (laneEnv c T G x l)
          if l ∈ act then
            (if n = f.d.toNat + 1 then some (w.2.2.1 + 2 ^ 32 * w.2.2.2)
             else if n = f.d.toNat then some (w.1 + 2 ^ 32 * w.2.1) else none)
          else none)
        (fun _ => none) (advance c act (fun _ th => th)))
    ∧ (Ready (.sowgf f) s c T G x → slotGood x f.slot.toNat (fun k => [0, 1, 4].contains k.kind && decide (13 ≤ k.w)) →
      ∃ s', exec (.sowgf f) s = .next s' ∧
      Wrote s s' c T G (toV false f.d.toNat act (fun l =>
          let w := o (laneEnv c T G x l)
          if k.w ≤ 32 then packElems k.w ((List.range (elems k)).map (fun i => uniform ([w.1, w.2.1, w.2.2.1, w.2.2.2].getD i 0) 32))
          else uniform (w.1 + 2 ^ 32 * w.2.1) 64))
        (fun _ => none) (advance c act (fun _ th => th)))

/-! ## Cross-lane instructions -/

/-- R220 and R221: each participant writes the a of its source lane, or its own a, or 0 under .z, where the source is none or
no participant; the votes give every participant the same predicate or number; LPEERS gives each the mask of the
participants whose a equals its own. Each executes once, when the last named thread has arrived (R33, R219). No slot applies; j
of LCAST is at most 31; fields without a use are 0. -/
def Obligations.LaneMovesAndVotes : Prop :=
  (∀ (f : Fld) (s : State) (c : Cur) (T : Team) (G : Group) (x : Ctx) (named : List Nat),
    let b (e : Env) : Int := sext (srcBs e f) 64
    ∀ row ∈ ([(Instr.lget, fun _ e => some (srcBz e f % 32 : Nat)),
        (Instr.lslide, fun _ e => if 0 ≤ e.lane + b e ∧ e.lane + b e ≤ 31 then some (e.lane + b e).toNat else none),
        (Instr.lslideW, fun _ e => some ((e.lane + b e) % 32).toNat),
        (Instr.lpair, fun _ e => some (e.lane ^^^ (srcBz e f % 32))),
        (Instr.lcycle, fun ps e => (ps[(ps.findIdx (fun u => u.lane == e.lane) + srcBz e f) % ps.length]?).map (·.lane)),
        (Instr.lcast, fun _ _ => some (f.b.toNat % 32))] : List ((Fld → Instr) × (List Env → Env → Option Nat))),
      Ready (row.1 f) s c T G x → LastArrival f c T G named →
        ComputesLanes (row.1 f) f s c T G x named (fun ps e =>
          let own := if fldBit f 6 then 0 else srcV e f.a.toNat
          some (f.d.toNat, match (row.2 ps e).bind (fun l => ps.find? (fun u => u.lane == l)) with
            | some u => srcV u f.a.toNat
            | none => own))
          (fun _ _ th => th))
  ∧ (∀ f : Fld, (∀ i ∈ [Instr.lget, .lslide, .lslideW, .lpair, .lcycle, .lcast], (i f).wf = true → f.slot = 0)
    ∧ ((Instr.lcast f).wf = true → f.b.toNat < 32 ∧ fldBit f 5 = false)
    ∧ ∀ i ∈ [Instr.lall, .lany, .lsame, .lbits, .lcount, .lpeers], (i f).wf = true → f.b = 0 ∧ fldBit f 5 = false ∧ fldBit f 6 = false)
  ∧ (∀ (f : Fld) (s : State) (c : Cur) (T : Team) (G : Group) (x : Ctx) (named : List Nat),
    let p (e : Env) : Bool := predOf e.th f.a.toNat
    let mask (ps : List Env) : Nat := fromBits 32 (fun l => ps.any (fun u => u.lane == l))
    (∀ row ∈ ([(Instr.lall, fun ps => ps.all p),
        (Instr.lany, fun ps => ps.any p),
        (Instr.lsame, fun ps => ps.all p || ps.all (fun e => !p e))] : List ((Fld → Instr) × (List Env → Bool))),
      Ready (row.1 f) s c T G x → LastArrival f c T G named →
        ComputesLanes (row.1 f) f s c T G x named (fun _ _ => none) (fun ps _ => setPred f.d.toNat (row.2 ps)))
    ∧ (∀ row ∈ ([(Instr.lbits, fun ps _ => mask (ps.filter p)),
        (Instr.lcount, fun ps _ => (ps.filter p).length),
        (Instr.lpeers, fun ps e => mask (ps.filter (fun u => srcV u f.a.toNat == srcV e f.a.toNat)))] :
          List ((Fld → Instr) × (List Env → Env → Nat))),
      Ready (row.1 f) s c T G x → LastArrival f c T G named →
        ComputesLanes (row.1 f) f s c T G x named (fun ps e => some (f.d.toNat, row.2 ps e)) (fun _ _ th => th)))

/-- R222 and R223: reductions and scans combine by the fixed tree over the 32 lane positions; a scan takes the
participants at or below the lane, below it with .ex, and gives code 0 for an empty prefix. Format sums round at each
node with the sx of the lowest participant; every participant's sx advances, and the flags go to every participant.
The flush bit acts on the written result, not on the nodes (log 22). -/
def Obligations.LaneReductions : Prop :=
  ∀ (f : Fld) (s : State) (c : Cur) (T : Team) (G : Group) (x : Ctx) (named : List Nat),
    let t := f.slot.toNat
    let k := slotDef x t
    let everyLane (_ l : Nat) : Bool := decide (l < 32)
    let below (m l : Nat) : Bool := if fldBit f 6 then decide (l < m) else decide (l ≤ m)
    let lesser (a b : Val) : Val := if valLt b a then b else a
    let greater (a b : Val) : Val := if valLt a b then b else a
    let pick (w : Val → Val → Val) (a b : Val) : Val × Nat :=
      (if fldBit f 5 then (if a.isNan || b.isNan then .nan else w a b) else (if a.isNan then b else if b.isNan then a else w a b), 0)
    let sumMode := modeOf k (f.m.toNat % 8)
    let read (e : Env) (j : Nat) : Val × Nat := readCode k (fiOf f) (elemAt k.w (srcV e f.a.toNat) j)
    let lead (ps : List Env) : Env := ps.headD (laneEnv c T G x 0)
    let add (ps : List Env) (j : Nat) (a b : Val) : Val × Nat :=
      let r := sumVals [a, b] sumMode
      let w := roundVal k r.1 sumMode (if sumMode = 5 then drawFor (lead ps) t j else 0)
      ((codeVal k w.1).1, r.2 ||| w.2)
    (∀ row ∈ ([(Instr.redLane, sumMode, add, everyLane),
        (Instr.redLaneMin, 0, fun _ _ => pick lesser, everyLane),
        (Instr.redLaneMax, 0, fun _ _ => pick greater, everyLane),
        (Instr.scan, sumMode, add, below),
        (Instr.scanMin, 0, fun _ _ => pick lesser, below),
        (Instr.scanMax, 0, fun _ _ => pick greater, below)] :
          List ((Fld → Instr) × Nat × (List Env → Nat → Val → Val → Val × Nat) × (Nat → Nat → Bool))),
      Ready (row.1 f) s c T G x → LastArrival f c T G named → slotGood x t (fun _ => true) →
        let el (ps : List Env) (e : Env) (j : Nat) : Nat × Nat :=
          let r := treeAt (row.2.2.1 ps j) (atPositions ps (fun u => (read u j).1) (row.2.2.2 e.lane)) 5 0
          match r.1 with
          | none => (0, 0)
          | some v => writeElem (lead ps) f k row.2.1 j (.val v, r.2)
        ComputesLanes (row.1 f) f s c T G x named
          (fun ps e => some (f.d.toNat, packElems k.w ((List.range (elems k)).map (fun j => (el ps e j).1))))
          (fun ps => flagged (fun _ => orAll (ps.flatMap (fun e => (List.range (elems k)).flatMap (fun j =>
            [(el ps e j).2, (read e j).2])))) row.2.1 (elems k)))
    ∧ (∀ row ∈ ([(Instr.redLaneI, everyLane), (Instr.scanI, below)] : List ((Fld → Instr) × (Nat → Nat → Bool))),
      Ready (row.1 f) s c T G x → LastArrival f c T G named →
        ComputesLanes (row.1 f) f s c T G x named
          (fun ps e => some (f.d.toNat,
            tyWrite t ((treeAt (fun a b => (a + b, 0)) (atPositions ps (fun u => tyRead t (srcV u f.a.toNat)) (row.2 e.lane)) 5 0).1.getD 0)))
          (fun _ _ th => th))
    ∧ (Ready (.redLaneLog f) s c T G x → LastArrival f c T G named →
        let op (a b : Nat) : Nat × Nat := (match f.m.toNat / 32 % 4 with | 0 => a &&& b | 1 => a ||| b | _ => a ^^^ b, 0)
        ComputesLanes (.redLaneLog f) f s c T G x named
          (fun ps _ => some (f.d.toNat, (treeAt op (atPositions ps (fun u => srcV u f.a.toNat) (everyLane 0)) 5 0).1.getD 0))
          (fun _ _ th => th))

/-! ## Transfers, traps and system instructions -/

/-- R182 and R183: BRA, BRDEC, CALL, CALLX, BRX, RET and MKH. Targets count in halfwords from the instruction; handles
resolve through the code objects that the core keeps; for BRX and RET of one thread also through the table: an entry that
the core does not keep is read and kept; id 0, an id beyond the table, an entry that is not valid and an offset beyond the
object are a code-handle fault. Nothing else changes but the pc, T.cid and the register named. What R314 leaves open of an
entry is the model's choice (log 35). -/
def Obligations.Transfers : Prop :=
  ∀ (f : Fld) (s : State) (c : Cur) (T : Team) (G : Group) (x : Ctx),
    let act := acting c G f
    let d := f.d.toNat
    let a := f.a.toNat
    let b := f.b.toNat
    let off18 : Int := sext (b % 64 * 2 ^ 12 + a % 64 * 2 ^ 6 + d % 64) 18
      + 2 ^ 18 * sext (f.c.toNat * 2 ^ 6 + b / 64 * 2 ^ 4 + a / 64 * 2 ^ 2 + d / 64) 14
    let off12 : Int := sext (b % 64 * 2 ^ 6 + a % 64) 12 + 2 ^ 12 * sext (f.c.toNat * 2 ^ 4 + b / 64 * 2 ^ 2 + a / 64) 12
    let target (off : Int) : Nat := ((c.pc + 2 * off) % 2 ^ 64).toNat
    let jump (off : Int) (th : Thread) : Thread := { th with pc := BitVec.ofNat 64 (target off) }
    let env := laneEnv c T G x
    let cid (l : Nat) := (env l).th.cid.toNat
    let none2 (_ _ : Nat) : Option Nat := none
    let none1 (_ : Nat) : Option Nat := none
    let onward (k : Nat → Thread → Thread) (l : Nat) (th : Thread) : Thread :=
      if l ∈ act then k l th else if l ∈ c.lanes then stepped c.next th else th
    (Ready (.bra f) s c T G x → ∃ s', exec (.bra f) s = .next s' ∧
      Wrote s s' c T G none2 none1 (advance c act (fun _ => jump off18)))
    ∧ (Ready (.brdec f) s c T G x →
      let val (e : Env) := tyWrite f.slot.toNat (tyRead f.slot.toNat (srcD e f) - 1)
      Computes (.brdec f) f s c T G x val (fun e th => if val e = 0 then th else jump off12 th))
    ∧ (∀ (base len : Nat → Nat), (∀ l ∈ act, Keeps s x T (cid l) (base l) (len l)) →
      (Ready (.call f) s c T G x → ∃ s', exec (.call f) s = .next s' ∧
        Wrote s s' c T G (toV false d act (fun l => handle (cid l) (base l) c.next)) none1
          (advance c act (fun _ => jump off12)))
      ∧ (Ready (.mkh f) s c T G x → ∃ s', exec (.mkh f) s = .next s' ∧
        Wrote s s' c T G (toV false d act (fun l => handle (cid l) (base l) (target off12))) none1
          (advance c act (fun _ th => th)))
      ∧ ∀ (base' len' : Nat → Nat),
        let h (l : Nat) := srcA (env l) f
        let arrive (l : Nat) (th : Thread) : Thread := { th with
          pc := BitVec.ofNat 64 (base' l + h l % 2 ^ 40), cid := BitVec.ofNat 24 (h l / 2 ^ 40), status := .running }
        (∀ l ∈ act, Keeps s x T (h l / 2 ^ 40) (base' l) (len' l) ∧ h l % 2 ^ 40 < len' l) →
        (∀ i ∈ [Instr.brx, Instr.ret], Ready (i f) s c T G x → ∃ s', exec (i f) s = .next s' ∧
          Wrote s s' c T G none2 none1 (onward arrive))
        ∧ (Ready (.callx f) s c T G x → ∃ s', exec (.callx f) s = .next s' ∧
          Wrote s s' c T G (toV false d act (fun l => handle (cid l) (base l) c.next)) none1 (onward arrive)))
    ∧ ∀ (l : Nat), ∀ i ∈ [Instr.brx, Instr.ret], Solo (i f) f s c T G x l →
      let h := srcA (env l) f
      let id := h / 2 ^ 40
      let off := h % 2 ^ 40
      let kept := (core s T.die T.site).codes.find? (fun e => e.ctx == x.id && e.id == id)
      let refused := ∃ s', exec (i f) s = .next s' ∧ Delivered s s' c T G x [l] { code := .codeHandle } (fun _ th => th)
      (NoPatch s c T x → (kept = none ∧ (id = 0 ∨ x.cotn ≤ id)) ∨ (∃ e, kept = some e ∧ e.len ≤ off) → refused)
      ∧ ∀ pa ty, kept = none → 0 < id → id < x.cotn → locate s x (x.cotbase + 16 * id) .load = .ok (.mem pa ty) →
        pa + 16 ≤ 2 ^ 40 → poisoned s pa 16 = false →
        let y := s.home.readN pa 16
        let valid := bit y 127 = true ∧ bits y 126 104 = 0 ∧ bits y 63 56 = 0 ∧ bits y 3 0 = 0
        (NoPatch s c T x → ¬ valid ∨ bits y 103 64 ≤ off → refused)
        ∧ (valid → off < bits y 103 64 → ∃ s', exec (i f) s = .next s' ∧
          Wrote (modCore s T.die T.site (fun k => { k with codes :=
              { ctx := x.id, id := id, base := bits y 55 0, len := bits y 103 64 } :: k.codes })) s' c T G none2 none1
            (fun m th => if m = l then { th with
              pc := BitVec.ofNat 64 (bits y 55 0 + off), cid := BitVec.ofNat 24 id, status := .running } else th))

/-- R195 and R196: TRAP enters the handler with the return handle in s.tpc, the number in s.tcause and the in-handler bit
set; TRET goes back to s.tpc; a TRAP with no handler, or in a handler, is an unhandled-trap fault; a TRET outside is a
trap-state fault; BRK is a breakpoint fault. -/
def Obligations.TrapsAndReturns : Prop :=
  ∀ (f : Fld) (s : State) (c : Cur) (T : Team) (G : Group) (x : Ctx),
    let act := acting c G f
    let n := f.c.toNat
    let env := laneEnv c T G x
    let th (l : Nat) := (env l).th
    let none2 (_ _ : Nat) : Option Nat := none
    let none1 (_ : Nat) : Option Nat := none
    let hd := x.thand.toNat
    let onward (k : Nat → Thread → Thread) (l : Nat) (th : Thread) : Thread :=
      if l ∈ act then k l th else if l ∈ c.lanes then stepped c.next th else th
    (∀ (base len : Nat → Nat) (hbase hlen : Nat),
      (∀ l ∈ act, Keeps s x T (th l).cid.toNat (base l) (len l) ∧ (th l).intrap = false) →
      hd ≠ 0 → Keeps s x T (hd / 2 ^ 40) hbase hlen → hd % 2 ^ 40 < hlen →
      Ready (.trap f) s c T G x → ∃ s', exec (.trap f) s = .next s' ∧
        Wrote s s' c T G none2 none1 (onward (fun l t => { t with
          tpc := BitVec.ofNat 64 (handle t.cid.toNat (base l) c.next), tcause := BitVec.ofNat 8 n, intrap := true,
          cid := BitVec.ofNat 24 (hd / 2 ^ 40), pc := BitVec.ofNat 64 (hbase + hd % 2 ^ 40),
          status := .running, watch := none })))
    ∧ (∀ (base len : Nat → Nat),
      (∀ l ∈ act, (th l).intrap = true ∧ Keeps s x T ((th l).tpc.toNat / 2 ^ 40) (base l) (len l)
        ∧ (th l).tpc.toNat % 2 ^ 40 < len l) →
      Ready (.tret f) s c T G x → ∃ s', exec (.tret f) s = .next s' ∧
        Wrote s s' c T G none2 none1 (onward (fun l t => { t with
          intrap := false, cid := BitVec.ofNat 24 (t.tpc.toNat / 2 ^ 40),
          pc := BitVec.ofNat 64 (base l + t.tpc.toNat % 2 ^ 40), status := .running })))
    ∧ (NoPatch s c T x → act ≠ [] →
      (Ready (.trap f) s c T G x → (hd = 0 ∨ ∀ l ∈ act, (th l).intrap = true) → ∃ s', exec (.trap f) s = .next s' ∧
        Delivered s s' c T G x act { code := .unhandledTrap, data := n } (onward (fun _ t => t)))
      ∧ (Ready (.tret f) s c T G x → (∀ l ∈ act, (th l).intrap = false) → ∃ s', exec (.tret f) s = .next s' ∧
        Delivered s s' c T G x act { code := .trapState } (onward (fun _ t => t)))
      ∧ (Ready (.brk f) s c T G x → ∃ s', exec (.brk f) s = .next s' ∧
        Delivered s s' c T G x act { code := .breakpoint, data := n } (onward (fun _ t => t))))

/-- R194, R197, R200, R208, R276: instructions that read something into d, or do nothing but advance. In a
deterministic context ELECT waits while a thread of its group that will execute it is still to come. -/
def Obligations.ReadsAndHints : Prop :=
  ∀ (f : Fld) (s : State) (c : Cur) (T : Team) (G : Group) (x : Ctx),
    let act := acting c G f
    (∀ i ∈ [Instr.nop, Instr.icpf, Instr.fbar, Instr.pref, Instr.oprdy], Ready (i f) s c T G x →
      ∃ s', exec (i f) s = .next s' ∧ Wrote s s' c T G (fun _ _ => none) (fun _ => none) (advance c act (fun _ th => th)))
    ∧ (Ready (.idle f) s c T G x → ∃ s', exec (.idle f) s = .next s' ∧
      Wrote s s' c T G (fun _ _ => none) (fun _ => none)
        (advance c act (fun l th => { th with idle := min (srcBz (laneEnv c T G x l) f) 65535 })))
    ∧ (let late := x.det = true ∧ act ≠ [] ∧ ∃ l th, G.threads[l]? = some th ∧ l ∉ c.lanes ∧ th.pc.toNat = c.pc
        ∧ th.status ≠ .ended ∧ th.status ≠ .deposited ∧ guardTrue f th = true
      Ready (.elect f) s c T G x →
      (¬ late → ∃ s', exec (.elect f) s = .next s' ∧
        Wrote s s' c T G (toV false f.d.toNat act (fun _ => act.headD 0)) (fun _ => none)
          (advance c act (fun l => setPred f.a.toNat (decide (act.head? = some l)))))
      ∧ (late → exec (.elect f) s = .next (act.foldl (fun s l => setWait s c.w l .resource)
          (goto s c.w (c.lanes.filter (fun l => !act.contains l)) c.next))))
    ∧ ∀ row ∈ ([(Instr.rdpc, fun _ => c.pc),
        (Instr.frec, fun e => if srcBz e f ≤ 7 then (G.frec.getD (srcBz e f) 0).toNat else 0),
        (Instr.fdget, fun _ => (x.fd.getD f.slot.toNat 0).toNat)] : List ((Fld → Instr) × (Env → Nat))),
      Ready (row.1 f) s c T G x → G.frec.length = 8 → Computes (row.1 f) f s c T G x row.2 noMore

/-- R191 and R23: what MOVS reads, selector by selector, for a thread of a team; s.cyc is a count that time decides.
The count is a free value (log 7). -/
def Obligations.SpecialRegistersRead : Prop :=
  ∀ (f : Fld) (s : State) (c : Cur) (T : Team) (G : Group) (x : Ctx),
    let k := T.kern
    let rows := 8 * ((k.f + 7) / 8) + k.w
    let three (d : Nat × Nat × Nat) : Nat := d.1 % 2 ^ 16 + d.2.1 % 2 ^ 16 * 2 ^ 16 + d.2.2 % 2 ^ 16 * 2 ^ 32
    let ub := 0x800000 + G.idx * (512 + 256 * rows)
    T.role = .compute → Ready (.movsRead f) s c T G x →
    (∀ row ∈ ([(0x00, fun e => e.lane), (0x01, fun _ => G.idx), (0x02, fun _ => k.ngroups),
        (0x03, fun _ => T.k % max 1 k.cw + T.k / max 1 k.cw * 16), (0x04, fun _ => k.cw + k.ch * 16),
        (0x05, fun _ => three T.cluster), (0x06, fun _ => three T.gdim), (0x07, fun _ => T.cls),
        (0x08, fun _ => if x.det then 1 else 0), (0x09, fun _ => ub + 512 + 256 * G.o), (0x0A, fun _ => ub),
        (0x0B, fun e => e.th.cid.toNat), (0x0C, fun _ => G.o + G.res * 2 ^ 16 + rows * 2 ^ 32),
        (0x0D, fun _ => G.bsb.toNat % 2 ^ 56), (0x0E, fun _ => G.bsl.toNat % 2 ^ 56), (0x0F, fun _ => G.bsp.toNat % 2 ^ 56),
        (0x10, fun e => e.th.nf.toNat), (0x11, fun e => e.th.smst.toNat), (0x12, fun e => e.th.sx.toNat),
        (0x13, fun _ => x.srk.toNat), (0x14, fun _ => x.srw.toNat), (0x15, fun _ => x.thand.toNat),
        (0x16, fun e => e.th.tpc.toNat), (0x17, fun e => e.th.tcause.toNat + if e.th.intrap then 2 ^ 63 else 0),
        (0x19, fun _ => x.id),
        (0x1A, fun _ => ctrCount s c.w G.ops .loads + ctrCount s c.w G.ops .stores * 2 ^ 8
          + ctrCount s c.w G.ops .copies * 2 ^ 16 + ctrCount s c.w G.ops .tiles * 2 ^ 24)] : List (Nat × (Env → Nat))),
      f.c.toNat = row.1 → Computes (.movsRead f) f s c T G x row.2 noMore)
    ∧ (f.c.toNat = 0x18 → ∃ s', exec (.movsRead f) s = .next s' ∧
        let act := acting c G f
        let now := (Config.cycles s.fresh).toNat
        Wrote { s with fresh := s.fresh + 1 } s' c T G (toV (fldBit f 4) f.d.toNat act (fun _ => now))
          (toG (fldBit f 4) f.d.toNat act (fun _ => now)) (advance c act (fun _ th => th)))

/-- R191: what MOVS writes: nf, smst, sx and s.tpc of the thread, srk, srw and s.thand of the context; reserved bits
are written as 0. Nothing else changes. That every thread of the context reads a new srk, srw or s.thand at once is
the model's choice (log 35). -/
def Obligations.SpecialRegistersWritten : Prop :=
  ∀ (f : Fld) (s : State) (c : Cur) (T : Team) (G : Group) (x : Ctx) (l : Nat),
    let v : Word := BitVec.ofNat 64 (srcA (laneEnv c T G x l) f)
    Solo (.movsWrite f) f s c T G x l →
    (∀ row ∈ ([(0x10, fun th => { th with nf := v.setWidth 9 }),
        (0x11, fun th => { th with smst := v &&& ~~~ 0xFFFFC000#64 }),
        (0x12, fun th => { th with sx := v }),
        (0x16, fun th => { th with tpc := v })] : List (Nat × (Thread → Thread))),
      f.c.toNat = row.1 → ∃ s', exec (.movsWrite f) s = .next s' ∧
        Wrote s s' c T G (fun _ _ => none) (fun _ => none) (advance c [l] (fun _ => row.2)))
    ∧ ∀ row ∈ ([(0x13, fun y => { y with srk := v }), (0x14, fun y => { y with srw := v.setWidth 32 }),
        (0x15, fun y => { y with thand := v })] : List (Nat × (Ctx → Ctx))),
      f.c.toNat = row.1 → ∃ s', exec (.movsWrite f) s = .next s' ∧
        Wrote { s with ctxs := s.ctxs.map (fun y => if y.id = x.id then row.2 y else y) } s' c T G
          (fun _ _ => none) (fun _ => none) (advance c [l] (fun _ th => th))

/-- R193: what SYSQ reads; a selector that is not listed gives 0. The physical position of a patch core is free. That
value is `Config.patchCorePosition` (log 7). -/
def Obligations.DeviceQueries : Prop :=
  ∀ (f : Fld) (s : State) (c : Cur) (T : Team) (G : Group) (x : Ctx),
    let img := patchCfg s (core s T.die T.site).patchGen
    let active (p : Patch) : Bool := !x.det || p.rp
    let site := ((s.regs.phys.find? (fun p => p.1 == T.die && p.2.1 == T.site)).map (·.2.2)).getD T.site
    let out (d : Nat) : Nat := (s.regs.unavail.filter (fun u => u.1 == d)).length
    let sel := f.c.toNat
    let value : Nat :=
      match sel with
      | 0 => 0xBF70 + (match img.1 with | some p => if active p then max 1 p.lvl else 1 | none => 1) % 256 * 2 ^ 24
      | 1 => (1344 - s.regs.unavail.length) + ((List.range 8).filter (fun d => decide (out d < 168))).length * 2 ^ 16
      | 2 => T.die + site % 12 * 2 ^ 4 + site / 12 * 2 ^ 8
      | 8 => (match img.1 with
        | some p => p.id % 2 ^ 32 + p.ver % 2 ^ 16 * 2 ^ 32 + (if p.rp then 2 ^ 48 else 0) + 2 ^ 63
        | none => 0)
      | _ => if sel < 16 ∨ 31 < sel then 0
        else match img.1.bind (fun p => p.slots[sel - 16]?), img.1 with
          | some r, some p => r.pid % 2 ^ 16 + r.prio % 16 * 2 ^ 16 + r.act % 4 * 2 ^ 20 + (if r.fp then 2 ^ 22 else 0)
            + (if bit img.2.toNat (sel - 16) && active p then 2 ^ 23 else 0)
          | _, _ => 0
    T.role = .compute → Ready (.sysq f) s c T G x → Computes (.sysq f) f s c T G x (fun _ => value) noMore

/-! ## Loads and stores -/

/-- R123 and R128: a load from HBM takes each byte as the threads of its core see it, and leaves every byte as every
core sees it; it may keep copies of NORMAL lines and changes nothing else. A load through a page of another type keeps no
copy, and leaves none of its lines. (On a DEVICE or STRONG page, where the core holds no store to those bytes.) A load takes
its bytes at its issue (log 5). R112, R114 and R115: a load in a window takes the computed bytes, element by element; the sine
of an f_k beyond binary64 is the model's choice (log 35), and a rounding that no enclosure decides is free (log 14). -/
def Obligations.LoadsSeeTheirCore : Prop :=
  (∀ (s : State) (die site ty pa n : Nat),
    let r := loadHbm s die site ty pa n
    (2 ≤ ty → ∀ e ∈ (core s die site).dirty, e.pa < pa ∨ pa + n ≤ e.pa) →
    r.1 = (List.range n).map (fun i => seen s die site ty (pa + i))
    ∧ { r.2 with cores := s.cores } = s
    ∧ (∀ d k, { core r.2 d k with clean := (core s d k).clean } = core s d k)
    ∧ (∀ d k t a, (ty = 0 ∨ 0 < t ∨ ¬ (d = die ∧ k = site) ∨ ∀ i, i < n → (pa + i) / 128 ≠ a / 128) →
        seen r.2 d k t a = seen s d k t a))
  ∧ (∀ (s : State) (x : Ctx) (va d : Nat), findWindow x.wd va = some d → locate s x va .load = .ok (.win d (va - wdBase d)))
  ∧ ∀ (s : State) (die site va n d off : Nat),
    let K := fdrOf (wdFmt d)
    let w := if wdKind d = 4 then 128 else K.w
    let real (i : Nat) : Val := (codeVal fdBinary64 (wdPar d i)).1
    let int (y : Nat) : Val := valOf (qOf (y : Int))
    let element (e : Nat) : Nat := match wdKind d with
      | 1 => (roundVal K (sumVals [real 0, (mulVal (real 1) (int e)).1] K.rnd).1 K.rnd 0).1
      | 2 =>
        let pitch := wdPar d 0 % 2 ^ 32
        if ((e % pitch : Nat) : Int) ≤ (e / pitch : Nat) + sext (wdPar d 0 / 2 ^ 32) 32 then wdPar d 1 else wdPar d 2
      | 3 =>
        let dd := wdPar d 1 % 2 ^ 16
        let col := e % dd
        let halves := bit (wdPar d 1) 16
        let k := if halves then col % (dd / 2) else col / 2
        let cosine := if halves then decide (col < dd / 2) else decide (col % 2 = 0)
        let freq := (roundExact fdBinary64 (exp2Q (qNeg (qDiv (qMul (q64 (wdPar d 0)) (qOf ((2 * k : Nat) : Int))) (qOf (dd : Int))))) 0 0).1
        (roundExact K (trigVal cosine (mulVal (int (wdPar d 2 % 2 ^ 32 + e / dd)) (codeVal fdBinary64 freq).1).1).1 K.rnd 0).1
      | _ =>
        let o := sow ((wdPar d 2 + e) % 2 ^ 64) (wdPar d 1 % 2 ^ 32) (wdPar d 1 / 2 ^ 32) (wdPar d 0)
        o.1 + 2 ^ 32 * o.2.1 + 2 ^ 64 * o.2.2.1 + 2 ^ 96 * o.2.2.2
    1 ≤ wdKind d → wdKind d ≤ 4 → 0 < w → ∃ bs, loadLoc s die site va n (.win d off) = .ok (bs, [], s) ∧ bs.length = n
      ∧ ∀ i b, i < n → b < 8 → bit (bs.getD i 0).toNat b = bit (element ((8 * (off + i) + b) / w)) ((8 * (off + i) + b) % w)

/-- R123 and R136: a store to a NORMAL or WCOMB page stays in its core. The threads of the core see the bytes it covers at
once, the bits under its masks; every other byte, every other core and the home are as before. -/
def Obligations.StoresStayInTheCore : Prop :=
  ∀ (s : State) (die site ty t : Nat) (w : Writer) (nt : Bool) (raw : Nat → Bool)
      (unit : List (Nat × Byte × Byte)),
    ty < 2 → t < 2 → unit.Pairwise (fun p q => p.1 ≠ q.1) →
    let s' := storeHbm s die site ty w nt raw unit
    { s' with cores := s.cores, tick := s.tick } = s
    ∧ (∀ d k, ¬ (d = die ∧ k = site) → core s' d k = core s d k)
    ∧ (∀ u ∈ unit, seen s' die site t u.1 = (seen s die site t u.1 &&& ~~~ u.2.2) ||| (u.2.1 &&& u.2.2))
    ∧ (∀ a, (∀ u ∈ unit, u.1 ≠ a) → seen s' die site t a = seen s die site t a)

/-- R124: STORE_PERFORM performs at home the dirty bytes of a line that a core holds, with the whole of each store that one
of them belongs to: the home then reads as the stores of the core, in core order, leave it; the bytes of one store go
together; no other byte of the home changes, and no other core. (There: stores that no deterministic grid makes; no poisoned
word, R378.) R143: a store of a deterministic grid is discarded at a byte whose tag has a later key, and else stores the byte
and sets its tag. -/
def Obligations.StoresReachTheirHome : Prop :=
  (∀ (s : State) (n line : Nat),
    let k (s : State) := core s (n / 168) (n % 168)
    s.home.wf = true → s.poison = [] → (k s).dirty.Pairwise (fun d e => d.sid ≤ e.sid) →
    (∀ d ∈ (k s).dirty, ∀ y, ctx? s d.w.ctx = some y → y.det = false) →
    ∃ s', exec (.storePerform n line) s = .next s'
      ∧ (∀ a, a / 128 = line → ∀ d ∈ (k s').dirty, d.pa ≠ a)
      ∧ (∀ a, ((∀ d ∈ (k s').dirty, d.pa ≠ a) ∧ s'.home.get a = overlay (k s).dirty a (s.home.get a))
          ∨ ((k s').dirty.filter (fun d => d.pa == a) = (k s).dirty.filter (fun d => d.pa == a)
            ∧ s'.home.get a = s.home.get a))
      ∧ (∀ d ∈ (k s).dirty, ∀ e ∈ (k s).dirty, d.sid = e.sid → (d ∈ (k s').dirty ↔ e ∈ (k s').dirty))
      ∧ (∀ d m, ¬ (d = n / 168 ∧ m = n % 168) → core s' d m = core s d m)
      ∧ s'.home.wf = true)
  ∧ (∀ (s : State) (pa : Nat) (b mask : Byte) (w : Writer) (x : Ctx),
    ctx? s w.ctx = some x → x.det = true → w.graded = true → s.home.wf = true → s.poison = [] →
    let s' := homeStore s [(pa, b, mask)] (some w)
    let tag (s : State) (a : Nat) : Option Writer := (ctx? s w.ctx).bind (fun y => (y.tags.find? (fun t => t.1 == a)).map (·.2))
    let later := ∃ v, tag s pa = some v ∧ listLt (writerKey w) (writerKey v) = true
    (later → s'.home = s.home ∧ ∀ a, tag s' a = tag s a)
    ∧ (¬ later → (∀ a, s'.home.get a = if a = pa then (s.home.get a &&& ~~~ mask) ||| (b &&& mask) else s.home.get a)
      ∧ ∀ a, tag s' a = if a = pa then some w else tag s a))

/-- R97 and R104: a local store writes its bytes into the team's local space, but bytes 34 to 63 of a MOB row are
discarded; every other local byte reads as before. R101: a stash byte it writes becomes dirty, with its writer; the fill of
a sector that is not valid takes the mapped bytes and keeps the dirty ones. R102: a write-back stores each dirty stash byte at
its mapped address as the core's threads see it, and none stays dirty (no window, and every byte can be written). -/
def Obligations.LocalStoresWrite : Prop :=
  (∀ (t : Team) (w : Writer) (a : Nat) (bs : List Byte) (b : Nat), t.lmem.wf = true →
    let t' := putLocal t w (fullUnit a bs)
    let kept := ¬ (0x1000000 ≤ b ∧ b < 0x2000000 ∧ 34 ≤ b % 64)
    t'.lmem.get b = (if a ≤ b ∧ b < a + bs.length ∧ kept then bs.getD (b - a) 0 else t.lmem.get b)
    ∧ t'.lmem.wf = true ∧ t'.groups = t.groups ∧ t'.tbs = t.tbs
    ∧ (a ≤ b ∧ b < a + bs.length → (stashMap t b).isSome → (b, w) ∈ t'.stashDirty)
    ∧ ∀ v, ¬ (a ≤ b ∧ b < a + bs.length) → ((b, v) ∈ t'.stashDirty ↔ (b, v) ∈ t.stashDirty))
  ∧ (∀ (s : State) (x : Ctx) (uid addr : Nat) (t : Team), team? s uid = some t → t.lmem.wf = true →
    (stashMap t (addr / 16 * 16) = none ∨ addr / 16 ∈ t.stashValid → stashFill s x uid addr = .ok s)
    ∧ ∀ gva bs s1, stashMap t (addr / 16 * 16) = some gva → addr / 16 ∉ t.stashValid →
      loadNow s x t.die t.site gva 16 .stashLoad = .ok (bs, s1) →
      ∃ s' t', stashFill s x uid addr = .ok s' ∧ team? s' uid = some t' ∧ { s' with teams := s1.teams } = s1
        ∧ { t' with lmem := t.lmem, stashValid := t.stashValid } = t
        ∧ t'.stashValid = addr / 16 :: t.stashValid ∧ t'.lmem.wf = true
        ∧ ∀ b, t'.lmem.get b =
            if b / 16 = addr / 16 ∧ ∀ d ∈ t.stashDirty, d.1 ≠ b then bs.getD (b % 16) 0 else t.lmem.get b)
  ∧ (∀ (s : State) (x : Ctx) (uid : Nat) (t : Team) (gva pa : Nat → Nat), team? s uid = some t →
    (∀ d ∈ t.stashDirty, stashMap t d.1 = some (gva d.1) ∧ findWindow x.wd (gva d.1) = none
      ∧ checkGlobal s x (gva d.1) 1 .stashStore = .ok (.mem (pa d.1) 0)) →
    (t.stashDirty.map (fun d => pa d.1)).Nodup →
    let s' := (stashWriteBack s x uid).1
    (stashWriteBack s x uid).2 = [] ∧ s'.home = s.home
      ∧ (∃ t', team? s' uid = some t' ∧ t'.stashDirty = [] ∧ { t' with stashDirty := t.stashDirty } = t)
      ∧ (∀ d ∈ t.stashDirty, seen s' t.die t.site 0 (pa d.1) = t.lmem.get d.1)
      ∧ ∀ a, (∀ d ∈ t.stashDirty, pa d.1 ≠ a) → seen s' t.die t.site 0 a = seen s t.die t.site 0 a)

/-- R225, R227, R229, R231 and R232: what a load of one thread issues: an operation of its group's loads counter that
holds the bytes found and the register they go to; the register is written when the data returns (`DataReturns`). The
access is the checked one: an aligned access that R225 passes, or bytes at any alignment, sector by sector. That the
bytes are those of the issue is the model's choice of moment (log 5). That a packed load checks sector by sector is
the model's choice (log 35). -/
def Obligations.LoadsIssue : Prop :=
  ∀ (f : Fld) (s : State) (c : Cur) (T : Team) (G : Group) (x : Ctx) (l : Nat),
    let e := laneEnv c T G x l
    let va := effAddr e f
    let t := f.slot.toNat
    let g := fldBit f 4
    let d := f.d.toNat
    let k := slotDef x t
    Room s c G .loads →
    (∀ row ∈ ([(Instr.ld f, .load, tyWidth t / 8, .typed g d t), (Instr.ldw f, .load, 16, .pair g d)] :
        List (Instr × Acc × Nat × RForm)),
      Solo row.1 f s c T G x l → ∀ loc bs s0, checkGlobal s x va row.2.2.1 row.2.1 = .ok loc →
        loadLoc s T.die T.site va row.2.2.1 loc = .ok (bs, [], s0) →
        ∃ s', exec row.1 s = .next s' ∧ Issued s0 s' c l (loadOp G l bs row.2.2.2))
    ∧ (∀ mod rd rs, Solo (.ld64 mod rd rs) f s c T G x l → asLong (.ld64 mod rd rs) = some (0x90, f) →
        ∀ loc bs s0, checkGlobal s x (srcV e rs.toNat + 8 * mod.toNat) 8 .load = .ok loc →
        loadLoc s T.die T.site (srcV e rs.toNat + 8 * mod.toNat) 8 loc = .ok (bs, [], s0) →
        ∃ s', exec (.ld64 mod rd rs) s = .next s' ∧ Issued s0 s' c l (loadOp G l bs (.typed false rd.toNat 4)))
    ∧ (Solo (.ldl f) f s c T G x l → ∀ bs s0, localLoad s x T.uid va (tyWidth t / 8) (tyWidth t / 8) = .ok (bs, s0) →
        ∃ s', exec (.ldl f) s = .next s' ∧ Issued s0 s' c l (loadOp G l bs (.typed g d t)))
    ∧ (Solo (.ldacq f) f s c T G x l → ∀ loc bs s0, checkGlobal s x va (tyWidth t / 8) .load = .ok loc →
        loadLoc s T.die T.site va (tyWidth t / 8) loc = .ok (bs, [], s0) →
        let op := loadOp G l bs (.typed g d t)
        let scope := f.m.toNat % 8
        ∃ s', exec (.ldacq f) s = .next s' ∧
          Issued (acquire s0 T scope) s' c l { op with parts := op.parts.map (fun p => { p with acq := scope }) })
    ∧ (Solo (.ldp f) f s c T G x l → slotGood x t (fun _ => true) → f.c.toNat ≤ elems k →
        let n := if f.c.toNat = 0 then elems k else f.c.toNat
        let at' := srcBz e f * k.w
        let len := (at' % 8 + n * k.w + 7) / 8
        ∀ bs s0, (if fldBit f 3 then localLoad s x T.uid (srcA e f + at' / 8) len 1 = .ok (bs, s0)
            else loadBytes s x T.die T.site (srcA e f + at' / 8) len .load = .ok (bs, [], s0)) →
        ∃ s', exec (.ldp f) s = .next s' ∧ Issued s0 s' c l (loadOp G l bs (.packed g d k.w n (at' % 8))))
    ∧ (Solo (.ldmx f) f s c T G x l → slotGood x t mxFormat →
        d + mxRegs k.w ≤ 255 → d + mxRegs k.w < T.kern.f → srcA e f % 128 + 4 * k.w ≤ 128 → srcA e f < 2 ^ 56 →
        ∀ r1 r2 b1 b2 k1 k2 s1 s0, loadLocs s x (srcA e f) (4 * k.w) .mxLoad = .ok r1 →
        loadLocs s x (srcBz e f) 1 .mxLoad = .ok r2 →
        loadBytes (dropSectors s e (r1 ++ r2)) x T.die T.site (srcA e f) (4 * k.w) .mxLoad = .ok (b1, k1, s1) →
        loadBytes s1 x T.die T.site (srcBz e f) 1 .mxLoad = .ok (b2, k2, s0) →
        ∃ s', exec (.ldmx f) s = .next s' ∧ Issued s0 s' c l (loadOp G l (b1 ++ b2) (.mx d k.w)))

/-- R225, R227, R230 to R232: what a store of one thread issues. Its bytes are put at the place that the checks of
R225 find: kept in the core, performed at a DEVICE or STRONG page or a host window, sent to a UALink peer, or
discarded by a window of R115; STREL is preceded by its release; STNT is awaited until its bytes are performed. A
STREL performs its own store at once (log 25). That a packed store checks sector by sector is the model's choice (log
35). That STW with m[4] = 1 stores g(d) and g(d + 1) is inferred (log 15). -/
def Obligations.StoresIssue : Prop :=
  ∀ (f : Fld) (s : State) (c : Cur) (T : Team) (G : Group) (x : Ctx) (l : Nat),
    let e := laneEnv c T G x l
    let va := effAddr e f
    let t := f.slot.toNat
    let n := tyWidth t / 8
    let id := G.nextOp
    let w := writerOf T G.idx l
    let k := slotDef x t
    let full (loc : Loc) (bs : List Byte) : List (Nat × Byte × Byte) := match loc with | .mem pa _ => fullUnit pa bs | .win _ _ => []
    Room s c G .stores →
    (∀ row ∈ ([(Instr.st f, n, leBytes n (srcD e f)),
        (Instr.stw f, 16, leBytes 8 (srcD e f) ++ leBytes 8 (regOf e (fldBit f 4) (f.d.toNat + 1)))] :
        List (Instr × Nat × List Byte)),
      Solo row.1 f s c T G x l → ∀ loc, checkGlobal s x va row.2.1 .store = .ok loc →
        ∃ s', exec row.1 s = .next s' ∧
          Issued (putStore s e id va loc false (fun _ => pageRaw s x va) (full loc row.2.2)) s' c l (doneOp G .stores))
    ∧ (∀ mod rd rs, Solo (.st64 mod rd rs) f s c T G x l → asLong (.st64 mod rd rs) = some (0x91, f) →
        let va := srcV e rs.toNat + 8 * mod.toNat
        ∀ loc, checkGlobal s x va 8 .store = .ok loc → ∃ s', exec (.st64 mod rd rs) s = .next s' ∧
          Issued (putStore s e id va loc false (fun _ => pageRaw s x va) (full loc (leBytes 8 (srcV e rd.toNat)))) s' c l (doneOp G .stores))
    ∧ (Solo (.stl f) f s c T G x l → ∀ s0, localStore s T.uid w va n n (fullUnit va (leBytes n (srcD e f))) = .ok s0 →
        ∃ s', exec (.stl f) s = .next s' ∧ Issued s0 s' c l (doneOp G .stores))
    ∧ (Solo (.stnt f) f s c T G x l → ∀ loc, checkGlobal s x va n .store = .ok loc →
        let s1 := putStore s e id va loc true (fun _ => pageRaw s x va) (full loc (leBytes n (srcD e f)))
        ∃ s', exec (.stnt f) s = .next s' ∧
          Issued s1 s' c l { doneOp G .stores with kind := .nt (if s1.tick = s.tick then [] else [s.tick]), done := false })
    ∧ (Solo (.strel f) f s c T G x l → ∀ loc s1, checkGlobal s x va n .store = .ok loc →
        release s e (f.m.toNat % 8) = .ok s1 →
        let s2 := putStore s1 e id va loc false (fun _ => pageRaw s1 x va) (full loc (leBytes n (srcD e f)))
        let s3 := { s2 with outReqs := s2.outReqs.map (fun r =>
          if r.posted = true ∧ r.opId = id ∧ r.w = c.w ∧ r.lane = l then { r with rel := f.m.toNat % 8 != 0 } else r) }
        ∃ s', exec (.strel f) s = .next s' ∧
          Issued (match loc with
            | .mem pa _ => if f.m.toNat % 8 < 3 then s3
              else performWhere s3 T.die T.site (fun d => decide (pa ≤ d.pa) && decide (d.pa < pa + n))
            | .win _ _ => s1) s' c l (doneOp G .stores))
    ∧ (∀ va pa ty nt raw bs, let unit := fullUnit pa bs
      let P (loc : Loc) : State := putStore s e id va loc nt raw unit
      (∀ d off, P (.win d off) = s)
      ∧ (pa < 2 ^ 40 → ty < 2 → P (.mem pa ty) = storeHbm s T.die T.site ty w nt raw unit)
      ∧ ((pa < 2 ^ 40 ∧ 2 ≤ ty) ∨ (∃ io, targetOf s pa = .host io) → s.home.wf = true → s.poison = [] →
        (∀ y, ctx? s T.ctx = some y → y.det = false) →
        (∀ d ∈ (core s T.die T.site).dirty, d.pa < pa ∨ pa + bs.length ≤ d.pa) →
        ∀ a, (P (.mem pa ty)).home.get a = if pa ≤ a ∧ a < pa + bs.length then bs.getD (a - pa) 0 else s.home.get a)
      ∧ (∀ aid, targetOf s pa = .ualink aid → ∃ r, P (.mem pa ty) = { s with nextReq := s.nextReq + 1, outReqs := s.outReqs ++ [r] }
        ∧ r.id = s.nextReq ∧ r.w = c.w ∧ r.lane = l ∧ r.opId = id ∧ r.va = va ∧ r.pa = pa ∧ r.len = bs.length ∧ r.ty = ty
        ∧ r.data = unit ∧ r.posted = true ∧ r.atomic = none ∧ r.copy = none))
    ∧ (Solo (.stp f) f s c T G x l → slotGood x t (fun _ => true) → f.c.toNat ≤ elems k →
        let n := if f.c.toNat = 0 then elems k else f.c.toNat
        let at' := srcBz e f * k.w
        let len := (at' % 8 + n * k.w + 7) / 8
        let va := srcA e f + at' / 8
        let bs := streamBytes k.w (at' % 8) n (srcD e f) len
        (fldBit f 3 = true → ∀ s0,
          localStore s T.uid w va len 1 (bs.zipIdx.map (fun p => (va + p.2, p.1.1, p.1.2))) = .ok s0 →
          ∃ s', exec (.stp f) s = .next s' ∧ Issued s0 s' c l (doneOp G .stores))
        ∧ (fldBit f 3 = false → ∀ runs, storeLocs s x va len .store = .ok runs →
          ∃ s', exec (.stp f) s = .next s' ∧ Issued (putRuns s e id va false runs bs) s' c l (doneOp G .stores)))
    ∧ (Solo (.stmx f) f s c T G x l → slotGood x t mxFormat →
        let last := f.d.toNat + mxRegs k.w
        last ≤ 255 → last < T.kern.f → srcA e f % 128 + 4 * k.w ≤ 128 → srcA e f < 2 ^ 56 →
        ∀ r1 r2, storeLocs s x (srcA e f) (4 * k.w) .mxStore = .ok r1 → storeLocs s x (srcBz e f) 1 .mxStore = .ok r2 →
        let els := (List.range 32).map (fun i => elemAt k.w (srcV e (f.d.toNat + i / (64 / k.w))) (i % (64 / k.w)))
        let bs := leBytes (4 * k.w) (packElems k.w els)
        let block := r1.flatMap (fun r => match r.2.2 with
          | .mem pa _ => (List.range r.2.1).map (fun i => (pa + i, bs.getD (r.1 - srcA e f + i) 0, (0xFF : Byte)))
          | .win _ _ => [])
        let scale := r2.flatMap (fun r => match r.2.2 with
          | .mem pa _ => [(pa, BitVec.ofNat 8 (srcV e last), (0xFF : Byte))]
          | .win _ _ => [])
        ∃ s', exec (.stmx f) s = .next s' ∧
          Issued (if block ++ scale = [] then s else storeHbm s T.die T.site 0 w false
            (fun p => if scale.any (fun u => u.1 == p) then pageRaw s x (srcBz e f) else pageRaw s x (srcA e f)) (block ++ scale)) s' c l
            (doneOp G .stores))

/-- R97 and R243: when the data of a load of one thread returns, its registers are written together: a typed value
extended under R174, a pair, packed elements, a block and its scale. The operation is complete; nothing else changes.
The data are the line's own: no request of the operation is still at a PCIe port. The moment is the model's (log 5); that a pair
with g = true goes to g(n) and g(n + 1) is inferred (log 15). -/
def Obligations.DataReturns : Prop :=
  ∀ (s : State) (c : Cur) (T : Team) (G : Group) (x : Ctx) (l : Nat) (o : Op) (p : Part),
    Stands { s with cur := some c } c T G x → T.lpoison = [] → T.lmem.wf = true → l < 32 →
    o ∈ G.ops → (∀ q ∈ G.ops, q.id = o.id → q = o) → o.done = false → o.kind = .parts → o.parts = [p] →
    p.lane = l → p.o = G.o → p.ready = true → p.nf = 0 → hostReqs s c.w o.id = [] →
    let v := ofBytes p.bytes
    let writes : Option (Bool × Nat × List Nat) := match p.form with
      | .typed g n ty => some (g, n, [tyWrite ty (tyRead ty v)])
      | .pair g n => some (g, n, [v, v / 2 ^ 64])
      | .packed g n w count off => some (g, n, [packElems w ((List.range count).map (fun i => v / 2 ^ (off + w * i) % 2 ^ w))])
      | .mx n w => some (false, n, packRegs w ((List.range 32).map (fun i => v / 2 ^ (w * i) % 2 ^ w)) ++ [v / 2 ^ (32 * w) % 256])
      | .elem n w => some (false, n, [v % 2 ^ w])
      | .word n => some (false, n, [v])
      | _ => none
    ∀ g n vs, writes = some (g, n, vs) → n + vs.length ≤ (if g then 64 else T.kern.f) →
      let at' (m : Nat) : Option Nat := if n ≤ m ∧ m < n + vs.length then vs[m - n]? else none
      ∃ s1 s', exec (.loadDataReturn c.w.uid c.w.group o.id) s = .next s' ∧
        Wrote s s1 c T G (fun k m => if g = false ∧ k = l then at' m else none) (fun m => if g then at' m else none)
          (fun _ th => th) ∧
        ∃ ops, s' = modGroup s1 c.w (fun y => { y with ops := ops }) ∧ (∀ q ∈ ops, q = { o with done := true, parts := [] } ∨ q ∈ G.ops) ∧
          (∀ q ∈ G.ops, q ≠ o → q ∈ ops ∨ opDone s c.w q = true)

/-! ## The 16-bit forms -/

/-- R161 with R150: each 16-bit form executes as its equivalent: unguarded, on v0 to v15, on .i64 (setp with mod 4 and 5 on
.n64), format instructions in slot 0. (The loads and stores are in `LoadsIssue` and `StoresIssue`.) -/
def Obligations.ShortForms : Prop :=
  ∀ (rd rs : BitVec 4) (s : State) (c : Cur) (T : Team) (G : Group) (x : Ctx),
    let f := shortFld rd.toNat rd.toNat rs.toNat
    let a (e : Env) : Nat := srcV e rd.toNat
    let b (e : Env) : Nat := srcV e rs.toNat
    let val (y : Env → Int) (e : Env) : Nat := (y e % 2 ^ 64).toNat
    let none2 (_ _ : Nat) : Option Nat := none
    let none1 (_ : Nat) : Option Nat := none
    (∀ row ∈ ([(Instr.mov16 rd rs, fun e => (b e : Int)),
        (Instr.iadd16 rd rs, fun e => a e + b e), (Instr.iadd16Imm rd rs, fun e => a e + rs.toNat),
        (Instr.isub16 rd rs, fun e => (a e : Int) - b e), (Instr.isub16Imm rd rs, fun e => (a e : Int) - rs.toNat),
        (Instr.and16 rd rs, fun e => fromBits 64 (fun k => bit (a e) k && bit (b e) k)),
        (Instr.or16 rd rs, fun e => fromBits 64 (fun k => bit (a e) k || bit (b e) k)),
        (Instr.xor16 rd rs, fun e => fromBits 64 (fun k => bit (a e) k != bit (b e) k)),
        (Instr.shl16 rd rs, fun e => if 64 ≤ b e then 0 else a e * 2 ^ b e),
        (Instr.shr16 rd rs, fun e => if 64 ≤ b e then 0 else a e / 2 ^ b e)] : List (Instr × (Env → Int))),
      Ready row.1 s c T G x → Computes row.1 f s c T G x (val row.2) noMore)
    ∧ (∀ kk : BitVec 2, let n := 16 * kk.toNat + rs.toNat
      ∀ row ∈ ([(Instr.shl16Imm kk rd rs, fun e => a e * 2 ^ n), (Instr.shr16Imm kk rd rs, fun e => a e / 2 ^ n)] :
        List (Instr × (Env → Nat))),
      Ready row.1 s c T G x → Computes row.1 f s c T G x (val (fun e => (row.2 e : Int))) noMore)
    ∧ (slotGood x 0 (fun _ => true) →
      (∀ row ∈ ([(Instr.fadd16 rd rs, fun m a b => sumVals [a, b] m), (Instr.fmul16 rd rs, fun _ a b => mulVal a b)] :
          List (Instr × (Nat → Val → Val → Val × Nat))),
        Ready row.1 s c T G x → ComputesElements row.1 f s c T G x true (fun e k m j =>
          let r := row.2 m (opA e f k j).1 (opB e f k j).1
          (.val r.1, r.2 ||| (opA e f k j).2 ||| (opB e f k j).2)))
      ∧ (Ready (.fmax16 rd rs) s c T G x → ComputesElements (.fmax16 rd rs) f s c T G x false (fun e k _ j =>
          let p := opA e f k j
          let q := opB e f k j
          (.val (if p.1.isNan then q.1 else if q.1.isNan then p.1 else if valLt p.1 q.1 then q.1 else p.1), p.2 ||| q.2))))
    ∧ (∀ off : BitVec 11, Ready (.bra16 off) s c T G x → ∃ s', exec (.bra16 off) s = .next s' ∧
      Wrote s s' c T G none2 none1 (advance c c.lanes (fun _ th =>
        { th with pc := BitVec.ofNat 64 (((c.pc : Int) + 2 * sext off.toNat 11) % 2 ^ 64).toNat })))
    ∧ (∀ mod : BitVec 3, Ready (.setp16 mod rd rs) s c T G x → ∃ s', exec (.setp16 mod rd rs) s = .next s' ∧
      Wrote s s' c T G none2 none1 (advance c c.lanes (fun l =>
        let p := a (laneEnv c T G x l)
        let q := b (laneEnv c T G x l)
        setPred 1 (match mod.toNat with
          | 0 => decide (p = q) | 1 => decide (p ≠ q) | 2 => decide (sext p 64 < sext q 64) | 3 => decide (sext p 64 ≤ sext q 64)
          | 4 => decide (p < q) | _ => decide (p ≤ q)))))
    ∧ (Ready .nop16 s c T G x → ∃ s', exec .nop16 s = .next s' ∧
      Wrote s s' c T G none2 none1 (advance c c.lanes (fun _ th => th)))

/-! ## Windows, the end of a thread, waiting -/

/-- R185 to R190: all live threads of a group stand at one window operation. The rows move between the ring and the
backing store (`spillRow`, `fillRow`: each lane its 8 bytes; none where the ring has room), then the window and each
thread: CALL.W and CALLX.W write the link to v0 of the new window, RET.W goes to the handle in v0 of the old one. A
move past bsb, bsl or the ring is a frame-limit fault of every thread, and nothing has moved. -/
def Obligations.RegisterWindows : Prop :=
  ∀ (f : Fld) (s : State) (c : Cur) (T : Team) (G : Group) (x : Ctx),
    let n := f.d.toNat
    let A := ringRows T.kern
    let bsp := G.bsp.toNat
    let hold (op : Nat) : State := modThreads s c.w c.lanes (fun th => { th with status := .heldWindow op f c.next c.dword })
    let first (op : Nat) : Option Env := c.lanes.head?.bind (fun l => env? (hold op) (heldCur c.w [l] c.pc c.next c.dword c.gen f) l)
    let spill (op : Nat) (s : State) (r va : Nat) := match first op with | some e => spillRow s e r va | none => .ok s
    let fill (op : Nat) (s : State) (r va : Nat) := match first op with | some e => fillRow s e r va | none => .ok s
    let env := laneEnv c T G x
    let cid (l : Nat) := (env l).th.cid.toNat
    let off12 : Int := sext (f.b.toNat % 64 * 2 ^ 6 + f.a.toNat % 64) 12
      + 2 ^ 12 * sext (f.c.toNat * 2 ^ 4 + f.b.toNat / 64 * 2 ^ 2 + f.a.toNat / 64) 12
    let all (i : Instr) : Prop := Ready i s c T G x ∧ T.role = .compute ∧ c.lanes ≠ [] ∧ acting c G f = c.lanes
      ∧ liveLanes G = c.lanes ∧ ∀ l ∈ c.lanes, ((env l).th.pc).toNat = c.pc ∧ (env l).th.gen = c.gen
    let place (s : State) (o res bsp : Nat) (link : Nat → Option Nat) (pc : Nat → Nat) (cid : Nat → BitVec 24) : State :=
      c.lanes.foldl (fun s l =>
        modThread (match link l with | some h => writeV s c.w l 0 h | none => s) c.w l (fun th =>
          { th with pc := BitVec.ofNat 64 (pc l), status := .running, last := s.tick, cid := cid l }))
        (modGroup s c.w (fun g => { g with o := o, res := res, bsp := BitVec.ofNat 64 bsp }))
    let limit (op : Nat) (i : Instr) : Prop :=
      all i → exec i s = .next (takeFault (hold op) { c with lit := f.lit.toNat, form := formBit f.form, noPatch := false } c.lanes { code := .frameLimit })
    -- calls
    (∀ (base len : Nat → Nat), (∀ l ∈ c.lanes, Keeps s x T (cid l) (base l) (len l)) →
      let k := G.res + n + T.kern.f - A
      let o' := (G.o + n) % A
      let link (l : Nat) := some (handle (cid l) (base l) c.next)
      bsp + 256 * k ≤ G.bsl.toNat →
      (all (.callW f) → ∀ s1, moveRows (spill 0x06) (hold 0x06) ((List.range k).map (fun r => G.o + A - G.res + r)) bsp = .ok s1 →
        exec (.callW f) s = .next (place s1 o' (G.res + n - k) (bsp + 256 * k) link
          (fun _ => ((c.pc + 2 * off12) % 2 ^ 64).toNat) (fun l => (env l).th.cid)))
      ∧ (all (.callxW f) → ∀ (base' len' : Nat → Nat), let h (l : Nat) := srcA (env l) f
        (∀ l ∈ c.lanes, Keeps s x T (h l / 2 ^ 40) (base' l) (len' l) ∧ h l % 2 ^ 40 < len' l) →
        ∀ s1, moveRows (spill 0x07) (hold 0x07) ((List.range k).map (fun r => G.o + A - G.res + r)) bsp = .ok s1 →
        exec (.callxW f) s = .next (place s1 o' (G.res + n - k) (bsp + 256 * k) link
          (fun l => base' l + h l % 2 ^ 40) (fun l => BitVec.ofNat 24 (h l / 2 ^ 40)))))
    -- return
    ∧ (∀ (base len : Nat → Nat), let h (l : Nat) := readV T G l 0
      let need := n - G.res
      (∀ l ∈ c.lanes, Keeps s x T (h l / 2 ^ 40) (base l) (len l) ∧ h l % 2 ^ 40 < len l) →
      (need = 0 ∨ G.bsb.toNat + 256 * need ≤ bsp) → all (.retW f) →
      ∀ s1, moveRows (fill 0x09) (hold 0x09) ((List.range need).map (fun r => G.o + n * A - n + r)) (bsp - 256 * need) = .ok s1 →
      exec (.retW f) s = .next (place s1 ((G.o + n * A - n) % A) (max G.res n - n) (bsp - 256 * need) (fun _ => none)
        (fun l => base l + h l % 2 ^ 40) (fun l => BitVec.ofNat 24 (h l / 2 ^ 40))))
    -- spill and fill
    ∧ (all (.spill f) → n ≤ G.res → bsp + 256 * n ≤ G.bsl.toNat →
      ∀ s1, moveRows (spill 0x0B) (hold 0x0B) ((List.range n).map (fun r => G.o + A - G.res + r)) bsp = .ok s1 →
      exec (.spill f) s = .next (place s1 G.o (G.res - n) (bsp + 256 * n) (fun _ => none) (fun _ => c.next) (fun l => (env l).th.cid)))
    ∧ (all (.fill f) → G.res + n + T.kern.f ≤ A → G.bsb.toNat + 256 * n ≤ bsp →
      ∀ s1, moveRows (fill 0x0C) (hold 0x0C) ((List.range n).map (fun r => G.o + A - G.res - n + r)) (bsp - 256 * n) = .ok s1 →
      exec (.fill f) s = .next (place s1 G.o (G.res + n) (bsp - 256 * n) (fun _ => none) (fun _ => c.next) (fun l => (env l).th.cid)))
    -- limits
    ∧ (G.bsl.toNat < bsp + 256 * (G.res + n + T.kern.f - A) → limit 0x06 (.callW f) ∧ limit 0x07 (.callxW f))
    ∧ (G.res < n → bsp < G.bsb.toNat + 256 * (n - G.res) → limit 0x09 (.retW f))
    ∧ (G.res < n ∨ G.bsl.toNat < bsp + 256 * n → limit 0x0B (.spill f))
    ∧ (A < G.res + n + T.kern.f ∨ bsp < G.bsb.toNat + 256 * n → limit 0x0C (.fill f))

/-- R184: EXIT ends the thread; its outstanding loads deliver nothing. Every other thread stands where it stood (a phase
that the end completes clears arrivals), and memory is as before. -/
def Obligations.ExitEndsTheThread : Prop :=
  ∀ (f : Fld) (s : State) (c : Cur) (T : Team) (G : Group) (x : Ctx) (l : Nat) (th : Thread),
    Solo (.exit f) f s c T G x l → T.role = .compute → G.threads[l]? = some th → th.late = [] → th.linkFails = 0 →
    (∀ r ∈ s.outReqs, r.w = c.w → r.lane = l → r.posted = false) →
    (∀ (m : Nat) (u : Thread), G.threads[m]? = some u → (∀ a b d e, u.status ≠ .heldLane a b d e ∧ u.status ≠ .heldWindow a b d e)) →
    ∃ s', exec (.exit f) s = .next s'
      ∧ (thread? s' c.w l).map (·.status) = some .ended
      ∧ (∀ w m u, ¬ (w = c.w ∧ m = l) → thread? s w m = some u →
        ∃ v, thread? s' w m = some v ∧ { v with arr := u.arr, voided := u.voided } = u)
      ∧ (∀ G', group? s' c.w = some G' → G'.ops.length = G.ops.length ∧ ∀ o ∈ G'.ops, ∀ p ∈ o.parts, p.lane ≠ l)
      ∧ s'.home = s.home ∧ s'.cores = s.cores

/-- R198 and R199: WAITMEM passes with the value and an acquire, or waits; the value that passes later goes to d when
the wait ends. PARK waits for a store to its own bytes, and its end is an acquire, a drop of the context's fetched
code and a fresh fetch. The acquire of the later end is at system scope (log 23). -/
def Obligations.WaitingOnMemory : Prop :=
  ∀ (f : Fld) (s : State) (c : Cur) (T : Team) (G : Group) (x : Ctx) (l : Nat),
    let e := laneEnv c T G x l
    let t := f.slot.toNat
    let n := tyWidth t / 8
    let g := fldBit f 4
    let d := f.d.toNat
    let v (pa : Nat) := tyRead t (s.home.readN pa n)
    let b := tyRead t (srcB e f)
    let holds (pa : Nat) : Bool := match f.c.toNat % 8 with
      | 0 => decide (v pa = b) | 1 => decide (v pa ≠ b) | 2 => decide (v pa < b) | 3 => decide (v pa ≤ b)
      | 4 => decide (v pa > b) | _ => decide (v pa ≥ b)
    let put (s : State) (y : Int) : State := if g then writeG s c.w d (tyWrite t y) else writeV s c.w l d (tyWrite t y)
    (Solo (.waitmem f) f s c T G x l → T.role = .compute → ∀ pa ty, checkGlobal s x (srcA e f) n .monitor = .ok (.mem pa ty) →
      poisoned s pa n = false →
      (holds pa = true → exec (.waitmem f) s = .next (goto (acquire (put s (v pa)) T (f.m.toNat % 8)) c.w [l] c.next))
      ∧ (holds pa = false → exec (.waitmem f) s = .next (modThread s c.w l (fun th => { th with
          status := .waiting .monitor,
          watch := some (.word pa n t (f.c.toNat % 8) (srcB e f) (some (g, d)) c.next none) }))))
    ∧ (∀ (th : Thread) (pa cc cmp next got : Nat), team? s c.w.uid = some T → grp? T c.w.group = some G → ctxOf s T = some x →
      G.threads[l]? = some th → th.status = .waiting .monitor →
      th.watch = some (.word pa n t cc cmp (some (g, d)) next (some got)) →
      exec (.waitmemSatisfied c.w.uid c.w.group l) s = .next (acquire (goto (put s (tyRead t got)) c.w [l] next) T 6))
    ∧ (Solo (.park f) f s c T G x l → T.role = .compute → ∀ pas, placesOf s x c.pc (c.next - c.pc) .park = .ok pas →
      (∀ i ∈ (core s T.die T.site).icache, i.ctx = x.id → ∀ p ∈ pas, p / 16 = i.pa → i.bytes.getD (p % 16) 0 = s.home.get p) →
      exec (.park f) s = .next (modThread s c.w l (fun th => { th with status := .waiting .park, watch := some (.parked pas false) })))
    ∧ (∀ (th : Thread) (pas : List Nat), team? s c.w.uid = some T → grp? T c.w.group = some G → ctxOf s T = some x →
      G.threads[l]? = some th → th.status = .waiting .park → th.watch = some (.parked pas true) →
      exec (.parkWake c.w.uid c.w.group l) s = .next (goto
        (modCore (acquire s T 6) T.die T.site (fun k => { k with icache := k.icache.filter (fun i => i.ctx != x.id) }))
        c.w [l] th.pc.toNat))

/-! ## Code maintenance, slots, releases -/

/-- R200, R208 and R228: ICINV drops the kept code of a range, and every kept code-object entry, on the cores in its
scope; CWB performs the dirty bytes of a range at home; CDISC drops the core's own copies of a range without
performing them; FDSET writes a slot with the value of the lowest acting lane, and a value that breaks R58 is a format
fault, its detail 0 inferred (log 17). CWB and CDISC are stated of a range within one page. That they ask for no right of
their page, that an ICINV of length 0 keeps everything, and that a new slot definition is read at once, are the model's choices
(log 35). -/
def Obligations.MaintenanceAndSlots : Prop :=
  ∀ (f : Fld) (s : State) (c : Cur) (T : Team) (G : Group) (x : Ctx) (l : Nat),
    let e := laneEnv c T G x l
    let va := srcA e f
    let n := srcBz e f
    let after (s : State) : State := goto s c.w [l] c.next
    (∀ i ∈ [Instr.icinv, Instr.cwb], Solo (i f) f s c T G x l → n = 0 → exec (i f) s = .next (after s))
    ∧ (Solo (.icinv f) f s c T G x l → 0 < n → va + n ≤ 2 ^ 56 → exec (.icinv f) s = .next (after { s with
      cores := s.cores.map (fun k => if coreInScope s T (f.m.toNat % 8) k then
        { k with codes := [],
                 icache := k.icache.filter (fun i => !(i.ctx == x.id && decide (va / 16 ≤ i.va) && decide (i.va ≤ (va + n - 1) / 16))) }
        else k) }))
    ∧ (Solo (.cwb f) f s c T G x l → 0 < n → va + n ≤ 2 ^ 56 → va % 4096 + n ≤ 4096 → findWindow x.wd va = none →
      ∀ pa ty, locate s x va .cwb = .ok (.mem pa ty) → ty < 2 →
      exec (.cwb f) s = .next (after (performWhere s T.die T.site (fun d => decide (pa ≤ d.pa) && decide (d.pa < pa + n)))))
    ∧ (Solo (.cdisc f) f s c T G x l → 0 < n → va % 16 = 0 → n % 16 = 0 → va + n ≤ 2 ^ 56 → va % 4096 + n ≤ 4096 →
      ∀ pa ty, locate s x va .cdisc = .ok (.mem pa ty) →
      exec (.cdisc f) s = .next (after (modCore s T.die T.site (fun k => { k with
        dirty := k.dirty.filter (fun d => !(decide (pa ≤ d.pa) && decide (d.pa < pa + n))),
        clean := k.clean.filter (fun q => !((List.range 8).any (fun i =>
          decide (pa ≤ 128 * q.line + 16 * i) && decide (128 * q.line + 16 * i < pa + n)))) }))))
    ∧ (Ready (.fdset f) s c T G x → T.role = .compute → ∀ m ms, acting c G f = m :: ms →
      let w := srcA (laneEnv c T G x m) f
      let idle := goto s c.w (c.lanes.filter (fun k => !(acting c G f).contains k)) c.next
      (fdrValid w = true → exec (.fdset f) s = .next (goto
        { idle with ctxs := s.ctxs.map (fun y => if y.id = x.id then { y with fd := y.fd.set f.slot.toNat (BitVec.ofNat 64 w) } else y) }
        c.w (m :: ms) c.next))
      ∧ (fdrValid w = false → exec (.fdset f) s = .next (takeFault idle c (m :: ms) { code := .format })))

/-- R126, R127, R131, R232 and R240: PUB releases, ACQ acquires, PHASE does both; FENCE performs the thread's own
stores at their homes; NTDRAIN performs its non-temporal and combined ones. At scopes within a core nothing has to be
done but to await the thread's own reductions and link stores. Logs 25 and 16 name what is inferred. -/
def Obligations.PublicationInstructions : Prop :=
  ∀ (f : Fld) (s : State) (c : Cur) (T : Team) (G : Group) (x : Ctx) (l : Nat),
    let e := laneEnv c T G x l
    let scope := f.m.toNat % 8
    let after (s : State) : State := goto s c.w [l] c.next
    let w := writerOf T G.idx l
    let mine (d : Dirty) : Bool := d.w.uid == w.uid && d.w.group == w.group && d.w.lane == w.lane
    (Solo (.pub f) f s c T G x l → ∀ s1, release s e scope = .ok s1 → exec (.pub f) s = .next (after s1))
    ∧ (Solo (.acq f) f s c T G x l → exec (.acq f) s = .next (after (acquire s T scope)))
    ∧ (Solo (.phase f) f s c T G x l → ∀ s1, release s e scope = .ok s1 →
      exec (.phase f) s = .next (after (acquire s1 T scope)))
    ∧ (Solo (.acq f) f s c T G x l → scope < 3 → exec (.acq f) s = .next (after s))
    ∧ (∀ i ∈ [Instr.pub, Instr.phase, Instr.fence], Solo (i f) f s c T G x l → scope < 3 →
      scope = 0 ∨ ownPending s c.w l = false → exec (i f) s = .next (after s))
    ∧ (Solo (.fence f) f s c T G x l → 3 ≤ scope → ownPending s c.w l = false →
      exec (.fence f) s = .next (after (performWhere s T.die T.site mine)))
    ∧ (∀ i ∈ [Instr.pub, Instr.phase, Instr.fence], Solo (i f) f s c T G x l → scope ≠ 0 → scope < 3 ∨ i f = .fence f →
      ownPending s c.w l = true → exec (i f) s = .next (setWait s c.w l .resource))
    ∧ ((∀ r ∈ s.outReqs, r.w = c.w → r.lane = l → r.copy ≠ none) →
      (Solo (.ntdrain f) f s c T G x l → T.role = .compute → (∀ th, G.threads[l]? = some th → th.linkFails = 0) →
        exec (.ntdrain f) s = .next (after (performWhere s T.die T.site (fun d => (d.nt || d.comb) && mine d)))))

/-- R126 and R127: after a release at cluster scope or wider the core holds no store but undrained non-temporal ones,
and their bytes stand at home as its threads saw them; after an acquire its threads see the home under their core's
own stores. (A team with no stash bytes to write back, stores of no deterministic grid, no poisoned word.) That all
stores of the core are performed is the model's choice among the allowed moments (log 25). -/
def Obligations.ReleaseAndAcquire : Prop :=
  ∀ (s : State) (e : Env) (scope : Nat) (s1 : State),
    3 ≤ scope → team? s e.t.uid = some e.t → e.t.stashDirty = [] → s.home.wf = true → s.poison = [] →
    (core s e.t.die e.t.site).dirty.Pairwise (fun d k => d.sid ≤ k.sid) →
    (∀ d ∈ (core s e.t.die e.t.site).dirty, ∀ y, ctx? s d.w.ctx = some y → y.det = false) →
    release s e scope = .ok s1 →
      (∀ d ∈ (core s1 e.t.die e.t.site).dirty, d ∈ (core s e.t.die e.t.site).dirty ∧ d.nt = true)
      ∧ (∀ a, (∀ d ∈ (core s1 e.t.die e.t.site).dirty, d.pa ≠ a) → s1.home.get a = seen s e.t.die e.t.site 1 a)
      ∧ (∀ a, (∀ d ∈ (core s e.t.die e.t.site).dirty, d.pa ≠ a) → s1.home.get a = s.home.get a)
      ∧ (let s2 := acquire s1 e.t scope
         s2.home = s1.home ∧ ∀ a, seen s2 e.t.die e.t.site 0 a = seen s1 e.t.die e.t.site 1 a)

/-! ## Barriers and counters -/

/-- R241 and R244: ARRIVE publishes and arrives; BWAIT waits for the phase, then gives the result and acquires; BSYNC does
one and then the other; WAIT goes on once the counters are at its limits. A barrier that the launch does not provide is a
barrier-scope fault, an arrival before the phase of the last one is complete a barrier-overrun fault. An arrival of a slot that
a membership write has undone still waits for a phase (log 28). -/
def Obligations.BarrierInstructions : Prop :=
  ∀ (f : Fld) (s : State) (c : Cur) (T : Team) (G : Group) (x : Ctx) (l : Nat) (th : Thread),
    let e := laneEnv c T G x l
    let after (s : State) : State := goto s c.w [l] c.next
    let b := srcBz e f
    let flags := (b % 2 ^ 16) ||| (if fldBit f 6 then th.nf.toNat else 0)
    let ext := b / 2 ^ 16 % 2 ^ 16
    let put (s : State) (n g : Nat) (file : Bool) (v : Nat) : State :=
      let s := modThread s c.w l (fun th => { th with anw := BitVec.ofNat 28 (setBits th.anw.toNat n n 0) })
      if file then writeG s c.w g v else writeV s c.w l g v
    G.threads[l]? = some th →
    (Solo (.arrive f) f s c T G x l → ∀ r, barRef s T f.d.toNat = some r → (ext = 0 ∨ ∃ n, r = .team n) →
      bit th.arr.toNat f.d.toNat = false → ∀ s1, release s e (barScope r) = .ok s1 →
      exec (.arrive f) s = .next (after (barArrive s1 e r flags ext)))
    ∧ (Solo (.bwait f) f s c T G x l → ∀ r, barRef s T f.a.toNat = some r → bit th.anw.toNat f.a.toNat = true →
      let spent := bit th.arr.toNat f.a.toNat = false ∧ bit th.voided.toNat f.a.toNat = false
      (¬ spent → exec (.bwait f) s = .next (setWait s c.w l (.barrier f.a.toNat)))
      ∧ (spent → exec (.bwait f) s = .next (after (acquire
          (put s f.a.toNat f.d.toNat (fldBit f 4) (barGet s T r).result.toNat) T (barScope r)))))
    ∧ (Solo (.bsync f) f s c T G x l → ∀ r, barRef s T f.a.toNat = some r → (ext = 0 ∨ ∃ n, r = .team n) →
      (∀ w, th.status ≠ .waiting w) → bit th.arr.toNat f.a.toNat = false →
      ∀ s1, release s e (barScope r) = .ok s1 →
      let s2 := barArrive s1 e r flags ext
      ∀ t2 th2, team? s2 T.uid = some t2 → thread? s2 c.w l = some th2 → barRef s2 T f.a.toNat = some r → bit th2.anw.toNat f.a.toNat = true →
      bit th2.voided.toNat f.a.toNat = false →
      (bit th2.arr.toNat f.a.toNat = true → exec (.bsync f) s = .next (setWait s2 c.w l (.barrier f.a.toNat)))
      ∧ (bit th2.arr.toNat f.a.toNat = false → exec (.bsync f) s = .next (after (acquire
          (put s2 f.a.toNat f.d.toNat false (barGet s2 t2 r).result.toNat) t2 (barScope r)))))
    ∧ (Solo (.wait f) f s c T G x l →
      let small (n : Nat) (k : Ctr) : Bool := n == 15 || decide (ctrCount s c.w G.ops k ≤ n)
      let met := small f.d.toNat .loads && small f.a.toNat .stores && small f.b.toNat .copies && small f.c.toNat .tiles
      (met = false → exec (.wait f) s = .next (setWait s c.w l (.counters f.d.toNat f.a.toNat f.b.toNat f.c.toNat)))
      ∧ (met = true → th.late = [] → th.linkFails = 0 →
        exec (.wait f) s = .next (after (if f.b.toNat = 15 then s else acquire s T 5))))
    ∧ (NoPatch s c T x →
      (Solo (.arrive f) f s c T G x l → barRef s T f.d.toNat = none → ∃ s', exec (.arrive f) s = .next s' ∧
        Delivered s s' c T G x [l] { code := .barrierScope } (fun _ th => th))
      ∧ (Solo (.bwait f) f s c T G x l → ∀ r, barRef s T f.a.toNat = some r → bit th.anw.toNat f.a.toNat = false →
        ∃ s', exec (.bwait f) s = .next s' ∧ Delivered s s' c T G x [l] { code := .barrierOverrun } (fun _ th => th))
      ∧ (Solo (.arrive f) f s c T G x l → ∀ r, barRef s T f.d.toNat = some r → ext = 0 → bit th.arr.toNat f.d.toNat = true →
        ∃ s', exec (.arrive f) s = .next s' ∧ Delivered s s' c T G x [l] { code := .barrierOverrun } (fun _ th => th)))

/-- R47, R49 and R242 on a team barrier: an arrival counts, ORs its flags in and adds its external expectation; when every
live thread of the team has arrived and the external arrivals are there, the phase turns over, the flags become the
result, and the members' arrivals are spent. -/
def Obligations.BarrierPhases : Prop :=
  ∀ (s : State) (e : Env) (n flags ext : Nat) (b : Barrier),
    team? s e.t.uid = some e.t → e.c.w.uid = e.t.uid → grp? e.t e.c.w.group = some e.g → e.g.threads[e.lane]? = some e.th →
    e.t.tbs[n]? = some b → n < 16 →
    let s' := barArrive s e (.team n) flags ext
    let b' : Barrier := { b with count := b.count + 1, flags := b.flags ||| BitVec.ofNat 16 flags, x := b.x + BitVec.ofNat 32 ext }
    let live := (e.t.groups.map (fun g => (g.threads.filter (fun th => th.status != .ended)).length)).sum
    let full := 0 < live ∧ live ≤ b.count + 1 ∧ b'.x.toNat ≤ b'.y.toNat
    ∃ T', team? s' e.t.uid = some T'
      ∧ (¬ full → T'.tbs = e.t.tbs.set n b'
          ∧ ∃ th', thread? s' e.c.w e.lane = some th' ∧ (∀ k, k < 28 → bit th'.arr.toNat k = (decide (k = n) || bit e.th.arr.toNat k)))
      ∧ (full → T'.tbs = e.t.tbs.set n { phase := !b.phase, count := 0, flags := 0, result := b'.flags, x := 0, y := b'.y - b'.x }
          ∧ ∀ g ∈ T'.groups, ∀ th ∈ g.threads, bit th.arr.toNat n = false)
      ∧ ∃ th', thread? s' e.c.w e.lane = some th' ∧ bit th'.anw.toNat n = true
      ∧ (∀ w m u, ¬ (w = e.c.w ∧ m = e.lane) → thread? s w m = some u →
        ∃ v, thread? s' w m = some v ∧ { v with arr := u.arr, voided := u.voided } = u)

/-! ## Atomics and deques -/

/-- R132, R145, R233, R235 to R237 and R239: what an atomic, a reduction, an ATOMRD or a deque operation of one thread
issues. At HBM the element's own dirty bytes are performed, the core's copy goes, and the operation is on its way to
the home die's sync engine: of the loads counter where it returns something, of the stores counter where it does not;
its line is claimed for the team when it executes. At a local address an atomic executes at once. A .rel or .ar
operation and DQPUSH are preceded by their release, and a local .acq or .ar followed by its acquire. A deque's header
line is checked first. In a deterministic context an atomic on a line that another team has claimed, or on another team's
scratchpad, is a cross-team-atomic fault; a format atomic of a normal one on a claimed line is a determinism-guard fault
(R146). Log 33 names what is inferred of the waiting threads. -/
def Obligations.AtomicsIssue : Prop :=
  (∀ (f : Fld) (s : State) (c : Cur) (T : Team) (G : Group) (x : Ctx) (l : Nat),
    let e := laneEnv c T G x l
    let va := srcA e f
    let t := f.slot.toNat
    let id := G.nextOp
    let d := f.d.toNat
    let scope := f.m.toNat % 8
    let ord := f.m.toNat / 8 % 4
    let acq : Bool := ord == 1 || ord == 3
    let sl := slotDef x t
    let ib := if f.form = .w96 then srcB e f else srcV e f.b.toNat
    let fb := if f.form = .w96 then slotLiteral sl f.lit.toNat else srcV e f.b.toNat
    let n (k : AtomKind) : Nat := if k.isFmt then sl.w / 8 else tyWidth t / 8
    let b (k : AtomKind) : Nat := if k.isFmt then fb else ib
    let reg (k : AtomKind) : RForm := if k.isFmt then .elem d sl.w else .typed false d t
    let before (s : State) : StepR := if 2 ≤ ord then release s e scope else .ok s
    let sent (s : State) (item : SyncItem) : State := { s with nextReq := s.nextReq + 1, syncQ := s.syncQ ++ [item] }
    let home (i : Instr) (op : Nat) (k : AtomKind) (cc : Nat) (acc : Acc) (redirect : Option (Nat × Nat)) (o : State → Op) : Prop :=
      fldBit f 5 = false → ∀ pa ty s2, checkGlobal s x va (n k) acc = .ok (.mem pa ty) → pa < 2 ^ 40 →
        let s1 := cleanSectors s T.die T.site pa (n k)
        (op < 0xAD → poisoned s1 pa (n k) = false) → claimLine s1 e pa va k.isFmt = .ok false → before s1 = .ok s2 →
        let s3 := flushElement s2 T.die T.site pa (n k)
        let item := syncItem s2 e f s3.nextReq id (.atomic k (b k) cc) pa va (n k) acq scope redirect op
        ∃ s', exec i s = .next s' ∧ Issued (sent s3 item) s' c l (o s3)
    let local' (i : Instr) (k : AtomKind) (cc : Nat) (redirect : Option (Nat × Nat)) (o : List Byte → Nat → Op) : Prop :=
      fldBit f 5 = true → (x.det = true → ∀ u off, clusterOwner s T va = some (u, off) → u.uid = T.uid) →
        ∀ bs s1 s2 s3, localLoad s x T.uid va (n k) (n k) = .ok (bs, s1) → before s1 = .ok s2 →
        let r := atomStep k t (slotWord x t) (fiOf f) (foOf f) (ofBytes bs) (b k) cc
        (match r.1 with
          | some y => localStore s2 T.uid (writerOf T G.idx l) va (n k) (n k) (fullUnit va (leBytes (n k) y))
          | none => .ok s2) = .ok s3 →
        let s4 := match redirect with
          | some (rank, w1) => { s3 with nextReq := s3.nextReq + 1, deliveries := s3.deliveries ++
              [{ id := s3.nextReq, ctx := x.id, acc := T.acc, bar := w1 / 2 ^ 21 % 16, off := w1 % 2 ^ 21, size := n k,
                 old := ofBytes bs, rank := rank, word1 := w1, die := T.die }] }
          | none => s3
        ∃ s', exec i s = .next s' ∧ Issued (if acq then acquire s4 T scope else s4) s' c l (o bs r.2)
    let refused (i : Instr) (code : FaultCode) : Prop :=
      ∃ s', exec i s = .next s' ∧ Delivered s s' c T G x [l] { code := code, data := va } (fun _ th => th)
    let turned (i : Instr) (k : AtomKind) (acc : Acc) : Prop :=
      NoPatch s c T x → ctx? s x.id = some x →
        (fldBit f 5 = false → ∀ pa ty, checkGlobal s x va (n k) acc = .ok (.mem pa ty) → poisoned s pa (n k) = false →
          (x.det = true → ∀ o, x.claims.find? (fun q => q.1 == pa / 128) = some (pa / 128, o) → o ≠ (T.acc, T.cix, T.k) →
            refused i .crossTeamAtomic)
          ∧ (x.det = false → k.isFmt = true → (∃ y ∈ s.ctxs, y.det = true ∧ ∃ q ∈ y.claims, q.1 = pa / 128) →
            refused i .determinismGuard))
        ∧ (fldBit f 5 = true → x.det = true → ∀ u off, clusterOwner s T va = some (u, off) → u.uid ≠ T.uid →
          refused i .crossTeamAtomic)
    let nowhere (s : State) : Op := { id := id, ctr := .stores, kind := .pending [s.nextReq], parts := [], done := false }
    let kinds : List AtomKind := [.add, .min, .max, .and, .or, .xor, .inc, .dec]
    (∀ row ∈ ([(Instr.atomAdd f, 0xA0, .add), (Instr.atomMin f, 0xA1, .min), (Instr.atomMax f, 0xA2, .max),
        (Instr.atomAnd f, 0xA3, .and), (Instr.atomOr f, 0xA4, .or), (Instr.atomXor f, 0xA5, .xor),
        (Instr.atomXchg f, 0xA6, .xchg), (Instr.atomCas f, 0xA7, .cas), (Instr.atomInc f, 0xA8, .inc),
        (Instr.atomDec f, 0xA9, .dec), (Instr.atomFadd f, 0xAA, .fadd), (Instr.atomFmin f, 0xAB, .fmin),
        (Instr.atomFmax f, 0xAC, .fmax)] : List (Instr × Nat × AtomKind)),
      let k := row.2.2
      let cc := if k = .cas then srcV e f.c.toNat else 0
      Solo row.1 f s c T G x l → (k.isFmt = true → slotGood x t atomFormat) → Room s c G .loads →
        home row.1 row.2.1 k cc (.atomic k) none (fun _ =>
          { id := id, ctr := .loads, kind := .parts, done := false,
            parts := [{ lane := l, bytes := [], links := [], form := reg k, ready := false, nf := 0, acq := 0, o := G.o }] })
        ∧ local' row.1 k cc none (fun bs nf =>
          let o := loadOp G l bs (reg k)
          { o with parts := o.parts.map (fun p => { p with nf := nf }) })
        ∧ turned row.1 k (.atomic k))
    ∧ (Solo (.red f) f s c T G x l → Room s c G .stores → let k := kinds.getD d .dec
        home (.red f) 0xAD k 0 (.red k) none nowhere ∧ local' (.red f) k 0 none (fun _ _ => doneOp G .stores)
        ∧ turned (.red f) k (.red k))
    ∧ (Solo (.redF f) f s c T G x l → slotGood x t atomFormat → Room s c G .stores →
        let k : AtomKind := [AtomKind.fadd, .fmin, .fmax].getD d .fmax
        home (.redF f) 0xAE k 0 (.red k) none nowhere ∧ local' (.redF f) k 0 none (fun _ _ => doneOp G .stores)
        ∧ turned (.redF f) k (.red k))
    ∧ (Solo (.atomrd f) f s c T G x l → Room s c G .stores →
        let k := kinds.getD d .dec
        let rank := srcV e f.c.toNat
        let w1 := srcV e (f.c.toNat + 1)
        w1 < 2 ^ 25 → (x.det = true → rank = T.rank) →
        home (.atomrd f) 0xAF k 0 .atomrd (some (rank, w1)) nowhere
        ∧ local' (.atomrd f) k 0 (some (rank, w1)) (fun _ _ => doneOp G .stores) ∧ turned (.atomrd f) k .atomrd)
    ∧ (Solo (.atomrd f) f s c T G x l → Room s c G .stores → NoPatch s c T x → x.det = true →
        srcV e f.c.toNat ≠ T.rank → srcV e (f.c.toNat + 1) < 2 ^ 25 → refused (.atomrd f) .crossTeamAtomic))
  ∧ (∀ (f : Fld) (s : State) (c : Cur) (T : Team) (G : Group) (x : Ctx) (l : Nat),
    let e := laneEnv c T G x l
    let va := srcA e f
    let d := f.d.toNat
    Room s c G .loads →
    ∀ row ∈ ([(Instr.dqinit f, 0xB0, SyncOp.dqinit (srcV e f.b.toNat) (srcV e f.c.toNat), RForm.word d),
        (Instr.dqpush f, 0xB1, .dqpush (srcV e f.b.toNat) 0, .word d),
        (Instr.dqpop f, 0xB2, .dqpop, .wordPred d (f.c.toNat % 8)),
        (Instr.dqsteal f, 0xB3, .dqsteal, .wordPred d (f.c.toNat % 8))] : List (Instr × Nat × SyncOp × RForm)),
      Solo row.1 f s c T G x l → ∀ pa ty s1, (if row.2.1 = 0xB1 then release s e 5 else .ok s) = .ok s1 →
        checkGlobal s1 x va 128 .deque = .ok (.mem pa ty) → poisoned s1 pa 128 = false →
        (row.2.1 = 0xB0 ∨ ∃ k, (pa / 128, k) ∈ s1.deques) → claimLine s1 e pa va false = .ok false →
        let s3 := flushElement s1 T.die T.site pa 128
        let item := syncItem s3 e f s3.nextReq G.nextOp row.2.2.1 pa va 128 (decide (0xB2 ≤ row.2.1)) 5 none row.2.1
        ∃ s', exec row.1 s = .next s' ∧
          Issued { s3 with nextReq := s3.nextReq + 1, syncQ := s3.syncQ ++ [item] } s' c l
            { id := G.nextOp, ctr := .loads, kind := .parts, done := false,
              parts := [{ lane := l, bytes := [], links := [], form := row.2.2.2, ready := false, nf := 0, acq := 0, o := G.o }] })

/-- R132, R234 and R239: a sync engine executes the oldest of its operations indivisibly. An atomic stores the new value of
R234 (none where a CAS finds another value) and brings the old one back; a deque operation changes header and entries as
R239 says. No other byte of the home changes; the operation of the thread stands until its data returns; the line of a
deterministic grid's operation is claimed for its team (R145). (No poisoned word in HBM; R379 for those.) -/
def Obligations.SyncEngines : Prop :=
  ∀ (s : State) (die : Nat) (i : SyncItem) (T : Team) (G : Group) (x : Ctx) (o : Op),
    s.syncQ.find? (fun j => j.die == die) = some i → s.home.wf = true → s.poison = [] → i.pa + i.size ≤ 2 ^ 40 →
    team? s i.w.uid = some T → ctxOf s T = some x → grp? T i.w.group = some G → i.redirect = none →
    o ∈ G.ops → o.id = i.opId → (∀ q ∈ G.ops, q.id = o.id → q = o) →
    let old := s.home.readN i.pa i.size
    let mem (new : Nat → Option Byte) (a : Nat) : Byte := (new a).getD (s.home.get a)
    let word (pa n v a : Nat) : Option Byte := if pa ≤ a ∧ a < pa + n then some (BitVec.ofNat 8 (v / 2 ^ (8 * (a - pa)))) else none
    let outcome (new : Nat → Option Byte) (back : Option (List Byte × Nat)) (mark : List (Nat × Nat)) : Prop :=
      ∃ s' G', exec (.syncEngineExecute die) s = .next s' ∧ s'.syncQ = s.syncQ.filter (fun j => j.id != i.id)
        ∧ (∀ a, s'.home.get a = mem new a) ∧ s'.home.wf = true ∧ s'.deques = mark
        ∧ (∀ y, i.writer.graded = true → ctx? s i.writer.ctx = some y → y.det = true → (∀ q ∈ y.claims, q.1 ≠ i.pa / 128) →
          (ctx? s' i.writer.ctx).map (·.claims) = some ((i.pa / 128, i.writer.acc, i.writer.cix, i.writer.k) :: y.claims))
        ∧ group? s' i.w = some G' ∧ (∃ q ∈ G'.ops, q.id = o.id)
        ∧ ∀ q ∈ G'.ops, q.id = o.id → q = match back with
          | some (bs, nf) => { o with parts := o.parts.map (fun p =>
              if p.lane = i.lane then { p with bytes := bs, links := [], ready := true, nf := nf } else p) }
          | none => o
    (∀ k b cc, i.op = .atomic k b cc →
      let w := tyWidth i.ty
      let u := old % 2 ^ w
      let v := b % 2 ^ w
      let less (p q : Nat) : Bool := decide (tyRead i.ty p < tyRead i.ty q)
      let new : Option Nat × Nat := match k with
        | .add => (some ((u + v) % 2 ^ w), 0)
        | .min => (some (if less v u then v else u), 0)
        | .max => (some (if less u v then v else u), 0)
        | .and => (some (fromBits w (fun j => bit u j && bit v j)), 0)
        | .or => (some (fromBits w (fun j => bit u j || bit v j)), 0)
        | .xor => (some (fromBits w (fun j => bit u j != bit v j)), 0)
        | .xchg => (some v, 0)
        | .cas => (if u = v then some (cc % 2 ^ w) else none, 0)
        | .inc => (some (if v ≤ u then 0 else u + 1), 0)
        | .dec => (some (if u = 0 ∨ v < u then v else u - 1), 0)
        | k => let r := atomFmtNew k i.fd.toNat i.fi i.fo old b; (some r.1, r.2)
      outcome (fun a => new.1.bind (fun y => word i.pa i.size y a))
        (if i.instr < 0xAD then some (leBytes i.size old, new.2) else none) s.deques)
    ∧ (i.size = 128 →
      let top := s.home.readN i.pa 8
      let bot := s.home.readN (i.pa + 8) 8
      let arr := s.home.readN (i.pa + 16) 8
      let cap := s.home.readN (i.pa + 24) 4
      let marked := s.deques.any (fun d => d.1 == i.pa / 128)
      let entry (j pa : Nat) : Prop := ∃ ty, checkGlobal s x ((arr + 8 * (j % max 1 cap)) % 2 ^ 64) 8 .deque = .ok (.mem pa ty)
        ∧ pa < 2 ^ 40 ∧ (pa + 8 ≤ i.pa ∨ i.pa + 128 ≤ pa)
      let put (v : Nat) (p : Bool) : Option (List Byte × Nat) := some (leBytes 8 v ++ [if p then 1 else 0], 0)
      (∀ a k, i.op = .dqinit a k →
        ((∃ m, m ≤ 20 ∧ 1 ≤ m ∧ k = 2 ^ m) ∧ a % 8 = 0 → a < 2 ^ 64 →
          outcome (word i.pa 128 (a * 2 ^ 128 + k * 2 ^ 192)) (put 0 false)
            ((i.pa / 128, x.id) :: s.deques.filter (fun d => d.1 != i.pa / 128)))
        ∧ (¬ (∃ m, m ≤ 20 ∧ 1 ≤ m ∧ k = 2 ^ m) ∨ a % 8 ≠ 0 → outcome (fun _ => none) (put 1 false) s.deques))
      ∧ (marked = true → ∀ v r, i.op = .dqpush v r →
        ((bot + 2 ^ 64 - top) % 2 ^ 64 = cap → outcome (fun _ => none) (put 1 false) s.deques)
        ∧ ((bot + 2 ^ 64 - top) % 2 ^ 64 ≠ cap → ∀ pa, entry bot pa →
          outcome (fun a => (word pa 8 v a).or (word (i.pa + 8) 8 ((bot + 1) % 2 ^ 64) a)) (put 0 false) s.deques))
      ∧ (marked = true → (i.op = .dqpop ∨ i.op = .dqsteal) → bot = top → outcome (fun _ => none) (put 0 false) s.deques)
      ∧ (marked = true → i.op = .dqpop → bot ≠ top → ∀ pa, entry ((bot + 2 ^ 64 - 1) % 2 ^ 64) pa →
        outcome (word (i.pa + 8) 8 ((bot + 2 ^ 64 - 1) % 2 ^ 64)) (put (s.home.readN pa 8) true) s.deques)
      ∧ (marked = true → i.op = .dqsteal → bot ≠ top → ∀ pa, entry top pa →
        outcome (word i.pa 8 ((top + 1) % 2 ^ 64)) (put (s.home.readN pa 8) true) s.deques))

/-- R237: an ATOMRD's old value goes to the target team's scratchpad, with an external arrival on its barrier; to a team
that has ended, or beyond its scratchpad, nothing is delivered and a redirect-lost record is logged (chapter 14, error logs).
What the record's words hold is inferred (log 30); what an offset that is not a multiple of the size does is the model's choice
(log 35); targets that name no team of the grid are left out. -/
def Obligations.AtomrdDeliveries : Prop :=
  ∀ (s : State) (d : Delivery) (x : Ctx) (g : Grid) (T : Team),
    s.deliveries.find? (fun y => y.id == d.id) = some d → ctx? s d.ctx = some x → grid? s d.ctx d.acc = some g →
    s.teams.find? (fun t => t.role == .compute && t.ctx == d.ctx && t.acc == d.acc && t.rank == d.rank) = some T →
    let s0 := { s with deliveries := s.deliveries.filter (fun e => e.id != d.id) }
    (teamEnded T = false → d.off + d.size ≤ T.kern.s →
      exec (.atomrdDelivery d.id) s = .next (barCheck (modTeam s0 T.uid (fun t =>
        let t' := putLocal t (writerOf t 0 0) (fullUnit d.off (leBytes d.size d.old))
        { t' with tbs := t.tbs.modify d.bar (fun b => { b with y := b.y + 1 }) })) T.uid (.team d.bar)))
    ∧ (teamEnded T = true ∨ T.kern.s < d.off + d.size →
      exec (.atomrdDelivery d.id) s = .next (logError s0 (some d.ctx) 4 d.off d.word1 d.die))

/-! ## Small matrices -/

/-- R261 to R270: what a small-matrix instruction of one thread puts into its quadrant's unit, when that is free: each
destination register with the code that one rounding gives, the nf bits, smst and the counters drawn; what CHOL, LUP, SOLV
and SOLVT write meets the equations of R268 to R270 (`CholFactor`, `LupRun`, `SolvePass`). The end of one of one lane
writes its destination registers, nf, smst[15:0] and sx, frees the unit and takes the operation away; nothing else
changes. Logs 26 and 33 name what is inferred of zero signs and of the waiting group. -/
def Obligations.SmallMatrices : Prop :=
  (∀ (f : Fld) (s : State) (c : Cur) (T : Team) (G : Group) (x : Ctx) (l : Nat),
    let e := laneEnv c T G x l
    let K := slotDef x f.slot.toNat
    let mode := modeOf K (f.m.toNat % 8)
    let r := f.c.toNat % 8
    let q := f.c.toNat / 8 % 8
    let n := f.m.toNat / 16 % 8
    let opt := f.c.toNat / 64
    let el (base i : Nat) : Val × Nat := readCode K (fiOf f) (srcV e (base + i) % 2 ^ K.w)
    let reads (base k : Nat) : Nat := orAll ((List.range k).map (fun i => (el base i).2))
    let A (i : Nat) : Val := (el f.a.toNat i).1
    let B (i : Nat) : Val := (el f.b.toNat i).1
    let D (i : Nat) : Val := (el f.d.toNat i).1
    let issued (i : Instr) (regs : List (Nat × Nat)) (nf : Nat) (smst : Option Nat) (draws : Nat) : Prop :=
      Solo i f s c T G x l → slotGood x f.slot.toNat smFormat →
      (∀ u ∈ (core s T.die T.site).smu, u.quadrant ≠ c.w.group % 4) →
      exec i s = .next (modCore (addOp (goto s c.w [l] c.next) c.w .none .smu [] false).2 T.die T.site (fun k =>
        { k with smu := k.smu ++ [{
          quadrant := c.w.group % 4, uid := c.w.uid, group := c.w.group, opId := G.nextOp,
          lanes := [(l, regs.map (fun p => (p.1, BitVec.ofNat 64 p.2)), nf, smst.map (BitVec.ofNat 64),
            if mode = 5 ∧ draws ≠ 0 then some (BitVec.ofNat 64 draws) else none)] }] }))
    let elements (i : Instr) (count draws : Nat) (v : Nat → Val × Nat) (flags : Nat) : Prop :=
      let els := (List.range count).map (fun k => writeElem e f K mode k (.val (v k).1, (v k).2))
      issued i (els.zipIdx.map (fun p => (f.d.toNat + p.2, p.1.1))) (orAll (els.map (·.2)) ||| flags) none draws
    let product (acc minus : Bool) (k : Nat) : Val × Nat :=
      let i := k / n
      let j := k % n
      let ps := (List.range q).map (fun m => (A (if opt % 2 = 1 then r * m + i else q * i + m), B (if 2 ≤ opt then q * j + m else n * m + j)))
      if acc then smPlus mode minus (D k) ps else smSum mode ps
    let fa := reads f.a.toNat (r * q)
    elements (.smmul f) (r * n) (r * n) (product false false) (fa ||| reads f.b.toNat (q * n))
    ∧ elements (.smmad f) (r * n) (r * n) (product true false) (fa ||| reads f.b.toNat (q * n) ||| reads f.d.toNat (r * n))
    ∧ elements (.smmsb f) (r * n) (r * n) (product true true) (fa ||| reads f.b.toNat (q * n) ||| reads f.d.toNat (r * n))
    ∧ elements (.smadd f) (r * q) (r * q) (fun k => sumVals [A k, if opt % 2 = 1 then (B k).negate else B k] mode)
        (fa ||| reads f.b.toNat (r * q))
    ∧ (let sc := readCode K (fiOf f) ((if f.form = .w96 then slotLiteral K f.lit.toNat else srcV e f.b.toNat) % 2 ^ K.w)
      elements (.smscl f) (r * q) (r * q) (fun k => mulVal (A k) sc.1) (fa ||| sc.2))
    ∧ elements (.smtrn f) (q * r) 0 (fun k => (A (q * (k % r) + k / r), 0)) fa
    ∧ (let pi (i : Nat) : Nat := srcV e f.b.toNat / 2 ^ (4 * i) % 16
      let src (i : Nat) : Nat := if opt % 2 = 1 then ((List.range r).find? (fun j => pi j == i)).getD r else pi i
      elements (.smperm f) (r * q) 0
        (fun k => if src (k / q) < r then (A (q * src (k / q) + k % q), 0) else (.nan, nfIV)) fa)
    ∧ (let mag (i j : Nat) : Val := (A (q * i + j)).abs
      let total (vs : List Val) : Val := (sumVals vs mode).1
      let top (vs : List Val) : Val := vs.foldl (fun m v => if valLt m v then v else m) (.fin false (qOf 0))
      let all := (List.range (r * q)).map (fun k => (A k).abs)
      let v : Exact × Nat :=
        if (List.range (r * q)).any (fun k => (A k).isNan) then (.val .nan, 0)
        else match opt with
          | 0 => sqrtVal (total (all.map (fun m => (mulVal m m).1)))
          | 1 => (.val (top all), 0)
          | 2 => (.val (top ((List.range r).map (fun i => total ((List.range q).map (mag i))))), 0)
          | _ => (.val (top ((List.range q).map (fun j => total ((List.range r).map (fun i => mag i j))))), 0)
      let w := writeElem e f K mode 0 v
      issued (.smnrm f) [(f.d.toNat, w.1)] (w.2 ||| fa) none 1)
    ∧ (let tau : Val := match (codeVal fdBinary32 (e.th.smst.toNat / 2 ^ 32)).1 with | .nan => .fin false (qOf 0) | v => v.abs
      let upTo (k : Nat) : List Nat := List.range k
      let down (j : Nat) : List Nat := (upTo r).filter (fun i => decide (j ≤ i))
      let readsIf (base : Nat) (want : Nat → Nat → Bool) : Nat :=
        orAll ((upTo (r * r)).map (fun k => if want (k / r) (k % r) then (el base k).2 else 0))
      (∀ (v : Nat → Val × Nat) (L : Nat → Nat → Cell) (k : Nat), CholFactor e f K mode r (fun i j => D (r * i + j)) v L →
        let passes (j : Nat) : Prop := (v j).1.isNan = false ∧ valLt tau (v j).1 = true
        k ≤ r → (∀ j, j < k → passes j) → (k < r → ¬ passes k) →
        issued (.chol f) ((upTo k).flatMap (fun j => (down j).map (fun i => (f.d.toNat + (r * i + j), (L i j).2.1))))
          (readsIf f.d.toNat (fun i j => decide (j ≤ i)) ||| orAll ((upTo k).map (fun j => (v j).2 ||| orAll ((down j).map (fun i => (L i j).2.2))))
            ||| (if k < r then (v k).2 ||| nfNP else 0))
          (some (if k < r then 1 + 16 * k else 0)) (r * r))
      ∧ (∀ R : LupRun e f K mode r tau (fun i j => (D (r * i + j), srcV e (f.d.toNat + (r * i + j)) % 2 ^ K.w)), R.Holds →
        let swaps := ((upTo r).filter (fun j => R.p j != j)).length
        let pmask := fromBits r R.small
        issued (.lup f)
          ((upTo (r * r)).map (fun k => (f.d.toNat + k, (R.a r (k / r) (k % r)).2))
            ++ [(f.b.toNat, swaps * 2 ^ 56 + packElems 4 ((upTo 6).map (R.pi r)))])
          (reads f.d.toNat (r * r) ||| orAll ((upTo r).map (fun j => orAll ((down j).map (fun i => (R.s j i).2.2))
            ||| (if R.small j then (R.c j).2.2 ||| nfSP else 0)
            ||| orAll ((down (j + 1)).map (fun i => (R.l i j).2.2 ||| (R.u j i).2.2)))))
          (some ((if pmask = 0 then 0 else 2) + 16 * ((upTo r).find? R.small).getD 0 + 256 * pmask)) (r * r))
      ∧ (let F (i k : Nat) : Val := A (r * i + k)
        let B (j i : Nat) : Val := D (n * i + j)
        let flags (x : Nat → Nat → Cell) : Nat := orAll ((upTo n).map (fun j => orAll ((upTo r).map (fun i => (x j i).2.2))))
        let solves (i : Instr) (x : Nat → Nat → Cell) (nf : Nat) (divides : Bool) : Prop :=
          issued i ((upTo n).flatMap (fun j => (upTo r).map (fun i => (f.d.toNat + (n * i + j), (x j i).2.1))))
            (reads f.d.toNat (r * n) ||| flags x ||| nf)
            (some (match (if divides then (upTo r).find? (fun i => (F i i).isZero) else none) with | some i => 3 + 16 * i | none => 0)) (r * n)
        let pass (forward unit : Bool) (g : Nat → Nat → Val) (y : Nat → Nat → Val) (x : Nat → Nat → Cell) : Prop :=
          ∀ j, j < n → SolvePass e f K mode r n j forward unit g (y j) (x j)
        let vals (x : Nat → Nat → Cell) (j i : Nat) : Val := (x j i).1
        let lower (i k : Nat) : Bool := decide (k ≤ i)
        (∀ row ∈ ([(0, true, false, F, lower), (1, true, true, F, fun i k => decide (k < i)), (2, false, false, F, fun i k => decide (i ≤ k)),
            (3, false, false, fun i k => F k i, lower)] : List (Nat × Bool × Bool × (Nat → Nat → Val) × (Nat → Nat → Bool))),
          opt = row.1 → ∀ x, pass row.2.1 row.2.2.1 row.2.2.2.1 B x →
          solves (.solvt f) x (readsIf f.a.toNat row.2.2.2.2) (!row.2.2.1))
        ∧ (opt % 2 = 0 → ∀ y x, pass true false F B y → pass false false (fun i k => F k i) (vals y) x →
          solves (.solv f) x (flags y ||| readsIf f.a.toNat lower) true)
        ∧ (opt % 2 = 1 →
          let pi (i : Nat) : Nat := srcV e f.b.toNat / 2 ^ (4 * i) % 16
          ∀ y x, pass true true F (fun j i => if pi i < r then B j (pi i) else .nan) y → pass false false F (vals y) x →
          solves (.solv f) x (flags y ||| readsIf f.a.toNat (fun _ _ => true) |||
            (if 0 < n ∧ (upTo r).any (fun i => decide (r ≤ pi i)) = true then nfIV else 0)) true))))
  ∧ (∀ (s : State) (n quadrant : Nat) (u : SmuOp) (c : Cur) (T : Team) (G : Group) (l nf : Nat) (regs : List (Nat × Word))
    (smst sx : Option Word),
    (core s (n / 168) (n % 168)).smu.find? (fun u => u.quadrant == quadrant) = some u → c.w = { uid := u.uid, group := u.group } →
    u.lanes = [(l, regs, nf, smst, sx)] → team? s u.uid = some T → grp? T u.group = some G → l < 32 → l < G.threads.length →
    T.lmem.wf = true → T.lpoison = [] → (regs.map (·.1)).Nodup → (∀ p ∈ regs, p.1 < T.kern.f) →
    ∃ s1, Wrote s s1 c T G
        (fun m k => if m = l then (regs.find? (fun p => p.1 == k)).map (·.2.toNat) else none) (fun _ => none)
        (fun m th => if m = l then { th with
            nf := th.nf ||| BitVec.ofNat 9 nf,
            smst := match smst with | some y => BitVec.ofNat 64 (th.smst.toNat / 2 ^ 16 * 2 ^ 16 + y.toNat % 2 ^ 16) | none => th.smst,
            sx := match sx with | some k => th.sx + k | none => th.sx } else th)
      ∧ exec (.smallMatrixComplete n quadrant) s = .next (modGroup
          (modCore s1 (n / 168) (n % 168) (fun k => { k with smu := k.smu.filter (fun v => v.quadrant != quadrant) }))
          c.w (fun g => { g with ops := g.ops.filter (fun o => o.id != u.opId) })))

/-! ## The operand buffer and the matrix engine -/

/-- R107 and R271 to R275: RESV places each range, in their order, at the lowest free row where it fits, or none where one does
not fit: the ranges lie in the buffer, apart from the rows taken and from each other. It answers 1 where the team holds rows, 2 where they do not fit, 3
where a request breaks a limit, and 0 with all ranges granted; RELV releases, or answers 1; RESQ reads a record, or
what is free. Every acting thread gets the answer. Log 33 names what is inferred of reserved bits. -/
def Obligations.OperandBuffer : Prop :=
  (∀ (ns bs : List Nat) (taken : List (Nat × Nat)), (∀ q ∈ taken, q.1 + q.2 ≤ 30720) → mobPlace ns taken = some bs →
    let ranges := (bs.zip ns).filter (fun p => p.2 != 0)
    let apart (p q : Nat × Nat) : Prop := p.1 + p.2 ≤ q.1 ∨ q.1 + q.2 ≤ p.1
    bs.length = ns.length
    ∧ (∀ p ∈ ranges, p.1 + p.2 ≤ 30720 ∧ ∀ q ∈ taken, q.2 ≠ 0 → apart p q)
    ∧ ranges.Pairwise apart)
  ∧ (∀ (ns : List Nat) (taken : List (Nat × Nat)), (∀ q ∈ taken, q.2 ≠ 0 ∧ q.1 + q.2 ≤ 30720) →
    -- n rows from b on are free when the first k ranges have been placed
    let free (k : Nat) (bs : List Nat) (b n : Nat) : Prop := b + n ≤ 30720 ∧
      ∀ q ∈ taken ++ ((bs.zip ns).take k).filter (fun p => p.2 != 0), b + n ≤ q.1 ∨ q.1 + q.2 ≤ b
    (∀ bs, mobPlace ns taken = some bs → ∀ k n, ns[k]? = some n → n ≠ 0 → ∀ b, free k bs b n → bs.getD k 0 ≤ b)
    ∧ (mobPlace ns taken = none → ∃ k n bs, ns[k]? = some n ∧ n ≠ 0 ∧ mobPlace (ns.take k) taken = some bs ∧ ∀ b, ¬ free k bs b n))
  ∧ (∀ (f : Fld) (s : State) (c : Cur) (T : Team) (G : Group) (x : Ctx) (m : Nat) (ms : List Nat),
    let act := m :: ms
    let e := laneEnv c T G x m
    let d := f.d.toNat
    let idle := goto s c.w (c.lanes.filter (fun k => !act.contains k)) c.next
    let answer (s : State) (y : Nat) : State :=
      goto (if fldBit f 4 then writeG s c.w d y else act.foldl (fun s l => writeV s c.w l d y) s) c.w act c.next
    acting c G f = act →
    (Ready (.resv f) s c T G x → ∀ bs s1 t1, localLoad idle x T.uid (srcA e f) 64 64 = .ok (bs, s1) → team? s1 T.uid = some t1 →
      let req (k : Nat) : Nat := ofBytes bs / 2 ^ (64 * k) % 2 ^ 64
      let words := (List.range 8).map req
      let places := mobPlace (words.map (fun w => w % 2 ^ 15)) (mobTaken s1 t1.die t1.site)
      (t1.resv.any (·.valid) = true → exec (.resv f) s = .next (answer s1 1))
      ∧ (t1.resv.any (·.valid) = false →
        (places = none → exec (.resv f) s = .next (answer s1 2))
        ∧ ∀ bases, places = some bases →
          ((words.any reqBad = true ∨ ∀ w ∈ words, w % 2 ^ 15 = 0) → exec (.resv f) s = .next (answer s1 3))
          ∧ (words.any reqBad = false → (∃ w ∈ words, w % 2 ^ 15 ≠ 0) →
            exec (.resv f) s = .next (answer (modTeam s1 t1.uid (fun t =>
              { clearMob t with resv := (words.zip bases).map (fun p => grantRecord p.1 p.2) })) 0))))
    ∧ (Ready (.relv f) s c T G x → exec (.relv f) s = .next (if T.resv.any (·.valid) then
        answer (releaseMob idle T) 0 else answer idle 1))
    ∧ (Ready (.resq f) s c T G x →
      let gaps := mobGaps (mobTaken s T.die T.site)
      let r := T.resv.getD f.c.toNat resv0
      let lo := if fldBit f 6 then (gaps.map (·.2)).foldl max 0
        else if r.valid then r.eofs % 2 ^ 15 * 2 ^ 48 + r.sofs % 2 ^ 15 * 2 ^ 32 + r.nrows % 2 ^ 15 * 2 ^ 16 else 0
      let hi := if fldBit f 6 then (gaps.map (·.2)).foldl (· + ·) 0
        else if r.valid then 2 ^ 63 + r.glen % 8 * 2 ^ 4 + r.fslot % 16 else 0
      ∃ s', exec (.resq f) s = .next s' ∧ Wrote s s' c T G
        (fun l k => if l ∈ act then (if k = d + 1 then some hi else if k = d then some lo else none) else none) (fun _ => none)
        (advance c act (fun _ th => th))))

/-- R46, R277 to R282 and R287 to R289: what a matrix-engine instruction of one thread issues when its checks pass,
its counter has room and it gets its power token: one more instruction in its team's sequence, one more operation in
the tiles counter, and the thread goes on. ACRD reads the tile at once. Logs 33 and 34 name what is inferred of the
checks and of srw and srk at issue. -/
def Obligations.EngineIssue : Prop :=
  ∀ (f : Fld) (s : State) (c : Cur) (T : Team) (G : Group) (x : Ctx) (l base len : Nat),
    let e := laneEnv c T G x l
    let slot (n : Nat) : Word := BitVec.ofNat 64 (slotWord x n)
    let h := handle e.th.cid.toNat base c.pc
    let issues (i : Instr) (s0 : State) (m : MInstr) (k : State → State) : Prop :=
      Solo i f s c T G x l → ctrFull s c.w .tiles = false → ∀ s1, takeTokens s0 c.w 1 = some s1 →
      Keeps s1 x T e.th.cid.toNat base len → ∀ g1, group? s1 c.w = some g1 →
      exec i s = .next (k (modTeam (addOp { goto s1 c.w [l] c.next with tick := s1.tick + 1 } c.w .tiles (.tile [s1.tick]) [] false).2
        c.w.uid (fun t => { t with mq := t.mq ++ [{ m with seq := s1.tick, opId := g1.nextOp, handle := h }] })))
    let now (s : State) : State := s
    (∀ row ∈ ([(Instr.acz f, 0xD3), (Instr.acmov f, 0xD4)] : List (Instr × Nat)), issues row.1 s (engineInstr e row.2 f) now)
    ∧ (slotGood x f.slot.toNat accFormat → issues (.acadd f) s { engineInstr e 0xD5 f with fds := [slot f.slot.toNat] } now)
    ∧ (slotGood x f.slot.toNat accFormat → let k := slotDef x f.slot.toNat
      issues (.acscl f) s { engineInstr e 0xD6 f with b := srcBslot e f k % 2 ^ k.w, fds := [slot f.slot.toNat] } now)
    ∧ (slotGood x f.slot.toNat accFormat → slotGood x (f.c.toNat % 16) cellFormat →
      issues (.accvt f) s { engineInstr e 0xD7 f with fds := [slot f.slot.toNat, slot (f.c.toNat % 16)] } now)
    ∧ (let r := T.resv.getD f.d.toNat resv0
      let w := (slotDef x r.fslot).w
      let b0 := srcBz e f
      r.valid = true → slotGood x r.fslot cellFormat → (blockPlace w (b0 + 127)).1 + (blockShape w).1 ≤ r.nrows →
      issues (.tlmov f) s { engineInstr e 0xD2 f with b := b0, fds := [slot r.fslot] } now)
    ∧ (∀ row ∈ ([(Instr.mma f, 0xD0), (Instr.mmas f, 0xD1)] : List (Instr × Nat)),
      ∀ bs s0, localLoad s x T.uid (srcA e f) 64 64 = .ok (bs, s0) →
      let b := ofBytes bs
      let ra := T.resv.getD (b / 2 ^ 64 % 8) resv0
      let rb := T.resv.getD (b / 2 ^ 128 % 8) resv0
      let oa := pbOperandA b (slotDef x ra.fslot) T.resv
      let ob := pbOperandB b (slotDef x rb.fslot) T.resv
      let listed (r : Resv) (k : Fdr) : Bool := elemFormat k && !(k.esc && r.eofs == 0x7FFF)
      mmaBlockOk e row.2 b = true → slotGood x (pbAcc b) accFormat →
      slotGood x ra.fslot (listed ra) → slotGood x rb.fslot (listed rb) →
      operandRows oa (pbM b) (mmaSteps b) < ra.nrows → operandRows ob (pbN b) ((pbK b + 31) / 32) < rb.nrows →
      (row.2 = 0xD1 → pbMrow b + (oa.blk + (mmaSteps b - 1) * oa.str + pbM b - 1) / 4 < (T.resv.getD (pbMrng b) resv0).nrows) →
      issues row.1 s0 { engineInstr e row.2 f with block := b, fds := [slot (pbAcc b), slot ra.fslot, slot rb.fslot] } now)
    ∧ (∀ row ∈ ([(Instr.acld f, 0xDA), (Instr.acst f, 0xDB)] : List (Instr × Nat)),
      ∀ m s0, tileTransferPrep row.2 f s e = .ok (m, s0) →
      m = { engineInstr e row.2 f with a := srcA e f, b := srcBz e f, fds := [slot f.slot.toNat] } ∧ issues row.1 s0 m now)
    ∧ (let k := f.c.toNat + 1
      let m := { engineInstr e 0xD9 f with
        b := srcBz e f, block := k, lanes := 2 ^ l,
        fds := (List.range k).map (fun r => BitVec.ofNat 64 (readV T G l (f.d.toNat + r))) }
      srcBz e f + k ≤ 64 → T.mq = [] → (tileAt T f.a.toNat).bound = true → T.role = .compute →
      issues (.acwr f) s m (fun s2 => (team? s2 T.uid).elim s2 (fun t2 => t2.mq.foldl (fun s m => acwrRun s t2 m) s2)))
    ∧ (let k := f.c.toNat + 1
      let row := srcBz e f
      let tile := tileAt T f.a.toNat
      let after (s1 : State) : State := (addOp (goto s1 c.w [l] c.next) c.w .tiles .parts [] true).2
      Solo (.acrd f) f s c T G x l → ctrFull s c.w .tiles = false → (∀ m ∈ T.mq, m.opcode = 0xD9 → m.a ≠ f.a.toNat) →
      (∀ m ∈ T.mq, m.opcode = 0xD0 ∨ m.opcode = 0xD1 → 0 < m.step → pbTile m.block ≠ f.a.toNat) →
      ∀ s1, takeTokens s c.w 1 = some s1 →
      (fldBit f 6 = true → exec (.acrd f) s = .next (writeV (after s1) c.w l f.d.toNat tile.tf.toNat))
      ∧ (fldBit f 6 = false → row + k ≤ 64 → tile.cells.wf = true → tile.poison = [] →
        exec (.acrd f) s = .next ((List.range k).foldl (fun s r =>
          writeV s c.w l (f.d.toNat + r) (tile.cells.readN (256 * (row + r) + 8 * l) 8)) (after s1))))

/-- R45, R46, R279 and R284 to R289: a step of a core's engine whose one instruction stands alone. The last step ends the
instruction with its tile written whole: ACZ and ACMOV; ACADD, ACSCL and ACCVT cell by cell, each rounded once; ACWR its rows;
ACLD and ACST between a tile and the scratchpad (their accesses to the global space are left out). TLMOV writes a tile into 128
blocks of its range. A step of MMA or MMAS adds to each cell of its M by N, block by block, the exact sum of the block's
products, rounded once for each block; what is not the last step leaves the instruction at the next. A token goes to the group
that has waited longest, and to none when the pool is spent. Log 26 names what is inferred of zero signs, logs 33 and 34 what is
inferred of the waiting groups and of srw and srk, read at issue; that the MOB is read at the first step is the model's choice
(log 35). -/
def Obligations.EngineSteps : Prop :=
  ∀ (s : State) (n : Nat) (T : Team) (m : MInstr),
    s.teams.filter (fun t => t.role == .compute && t.die == n / 168 && t.site == n % 168) = [T] → team? s T.uid = some T →
    (core s (n / 168) (n % 168)).running = none ∨ (core s (n / 168) (n % 168)).running = some (T.uid, m.seq) →
    T.mq = [m] → canStep s T m = true → m.poisoned = false → m.mobGen = 0 → m.paused = none →
    let K := fdrOf (m.fds.getD 0 0).toNat
    let S := fdrOf (m.fds.getD 1 0).toNat
    let tile (k : Nat) : Tile := T.tiles.getD k tile0
    let cell (k i : Nat) : Nat := (cellsOf (tile k).cells).getD i 0
    let read (k : Fdr) (y : Nat) : Val × Nat := readCode k (bit m.m 8) (y % 2 ^ k.w)
    let ends (d : Nat) (t : Tile) : Prop := ∃ s' T', exec (.matrixStep n) s = .next s' ∧ team? s' T.uid = some T'
      ∧ T'.mq = [] ∧ T'.tiles = T.tiles.set d t ∧ { T' with mq := T.mq, tiles := T.tiles } = T
      ∧ s'.home = s.home ∧ (core s' (n / 168) (n % 168)).running = none
    let cells (d slot : Nat) (v : Nat → Nat → Val × Nat) : Prop :=
      let mode := modeOf K (m.m % 8)
      let one (i : Nat) : Nat × Nat :=
        let u := if mode = 5 then sowDraw i slot m.srw m.srk.toNat else 0
        let r := flushOut K (bit m.m 7) (roundVal K (v mode i).1 mode u)
        (r.1, r.2 ||| (v mode i).2)
      let rs := (List.range 4096).map one
      ends d { tile d with bound := true, cells := ofCells (rs.map (·.1)), tf := (tile d).tf ||| BitVec.ofNat 9 (orAll (rs.map (·.2))),
                           poison := [] }
    (∀ k < 16, (tile k).poison = []) →
    (m.d < T.tiles.length →
      (m.opcode = 0xD3 → (bit m.m 6 = false → ends m.d { bound := true, tf := 0, cells := [], poison := [] })
        ∧ (bit m.m 6 = true → ends m.d { bound := false, tf := 0, cells := [], poison := [] }))
      ∧ (m.a < 16 → m.opcode = 0xD4 → ends m.d { tile m.a with bound := true })
      ∧ (m.a < 16 → m.b < 16 → m.opcode = 0xD5 → cells m.d (m.block / 256) (fun mode i =>
        let p := read K (cell m.a i)
        let q := read K (cell m.b i)
        ((sumVals [p.1, q.1] mode).1, (sumVals [p.1, q.1] mode).2 ||| p.2 ||| q.2)))
      ∧ (m.a < 16 → m.opcode = 0xD6 → cells m.d (m.block / 256) (fun _ i =>
        let p := read K (cell m.a i)
        let sc := read K m.b
        ((mulVal p.1 sc.1).1, (mulVal p.1 sc.1).2 ||| p.2 ||| sc.2)))
      ∧ (m.a < 16 → m.opcode = 0xD7 → cells m.d (m.block / 256) (fun _ i => read S (cell m.a i))))
    ∧ (let b := m.block
      let d := pbTile b
      let sparse := if m.opcode = 0xD0 then 0 else pbSparse b
      let span := stepSpan b
      (m.opcode = 0xD0 ∧ pbSparse b = 0) ∨ (m.opcode = 0xD1 ∧ (pbSparse b = 1 ∨ pbSparse b = 2)) →
      d < T.tiles.length → m.step * span < pbK b →
      let m1 := if m.started then m else mmaStart T m
      let oa := pbOperandA b S m.resv
      let ob := pbOperandB b (fdrOf (m.fds.getD 2 0).toNat) m.resv
      let first := m.step * (span / 32)
      let upTo (jj : Nat) : Nat := min (pbK b) (32 * jj + 32)
      -- the values of A that row i has in this step, each at its position along K; those of column n of B in block jj
      let A (i : Nat) : List (Nat × MElem) :=
        if sparse = 0 then (denseElems m1 oa i (32 * first) (upTo first)).zipIdx.map (fun y => (32 * first + y.2, y.1))
        else sparseElems m1 oa sparse (pbMrng b) (pbMrow b) i m.step
      let B (jj n : Nat) : List MElem := denseElems m1 ob n (32 * jj) (upTo jj)
      let blocks := ((List.range (span / 32)).map (first + ·)).filter (fun jj => decide (32 * jj < pbK b))
      (∀ i < pbM b, ∀ y ∈ A i, y.2.2.2 = false) → (∀ jj ∈ blocks, ∀ n < pbN b, ∀ y ∈ B jj n, y.2.2 = false) →
      let mode := modeOf K (pbRnd b)
      let zero : Bool := pbZero b && decide (m.step = 0)
      let within (q : Nat) : Prop := q / 64 < pbM b ∧ q % 64 < pbN b
      let start := (cellsOf (tile d).cells).zipIdx.map (fun q => if zero = true ∧ within q.2 then zeroCode K false else q.1)
      -- a position of A without a stored value stands as +0 (R83)
      let at' (i p : Nat) : List Val := match (A i).filterMap (fun y => if y.1 = p then some y.2.1 else none) with
        | [] => [.fin false (qOf 0)]
        | vs => vs
      let products (jj q : Nat) : List (Val × Val) := (List.range (upTo jj - 32 * jj)).flatMap (fun p =>
        (at' (q / 64) (32 * jj + p)).map (fun v => (v, ((B jj (q % 64)).getD p (.nan, 0, false)).1)))
      let pass (jj : Nat) (cs : List Nat) : List (Nat × Nat) := cs.zipIdx.map (fun q =>
        if within q.2 then
          let y := blockSum mode (products jj q.2) (upTo jj - 32 * jj != 32)
          let a := readCode K false (q.1 % 2 ^ K.w)
          let v := sumVals [a.1, y.1] mode
          let u := if mode = 5 then sowDraw (4096 * jj + q.2) (pbAcc b) (pbSw b) m.srk.toNat else 0
          let r := flushOut K (bit b 17) (roundVal K v.1 mode u)
          (r.1, r.2 ||| v.2 ||| y.2 ||| a.2)
        else (q.1, 0))
      let flags (jj : Nat) : Nat :=
        orAll ((List.range (pbM b)).map (fun i =>
          orAll ((A i).map (fun y => if 32 * jj ≤ y.1 ∧ y.1 < upTo jj then y.2.2.1 else 0))))
        ||| orAll ((List.range (pbN b)).map (fun n => orAll ((B jj n).map (·.2.1))))
      let r := blocks.foldl (fun st jj =>
        ((pass jj st.1).map (·.1), st.2 ||| flags jj ||| orAll ((pass jj st.1).map (·.2))))
        (start, if zero then 0 else (tile d).tf.toNat)
      let after : Tile := { bound := true, cells := ofCells r.1, tf := BitVec.ofNat 9 r.2, poison := [] }
      (pbK b ≤ (m.step + 1) * span → ends d after)
      ∧ ((m.step + 1) * span < pbK b → ∃ s' T', exec (.matrixStep n) s = .next s' ∧ team? s' T.uid = some T'
        ∧ T'.mq = [{ m1 with step := m.step + 1, waited := 0, token := true }] ∧ T'.tiles = T.tiles.set d after
        ∧ { T' with mq := T.mq, tiles := T.tiles } = T ∧ s'.home = s.home
        ∧ (core s' (n / 168) (n % 168)).running = some (T.uid, m.seq)))
    ∧ (m.opcode = 0xD9 → m.a < 16 → m.a < T.tiles.length → (tile m.a).cells.wf = true →
      let lanes := (List.range 32).filter (bit m.lanes)
      ∃ t : Tile, ends m.a t ∧ t.bound = true ∧ t.tf = (tile m.a).tf ∧ t.poison = []
        ∧ (∀ r q l, r < m.block → lanes[q]? = some l →
          t.cells.readN (256 * (m.b + r) + 8 * l) 8 = (m.fds.getD (lanes.length * r + q) 0).toNat)
        ∧ ∀ k, (∀ r l, r < m.block → l ∈ lanes → k < 256 * (m.b + r) + 8 * l ∨ 256 * (m.b + r) + 8 * l + 8 ≤ k) →
          t.cells.get k = (tile m.a).cells.get k)
    ∧ (let w := K.w
      let left (s' : State) (T' : Team) : Prop := exec (.matrixStep n) s = .next s' ∧ team? s' T.uid = some T' ∧ T'.mq = []
        ∧ { T' with mq := T.mq, lmem := T.lmem } = T ∧ s'.home = s.home ∧ (core s' (n / 168) (n % 168)).running = none
      1 ≤ w → w ≤ 32 → T.lmem.wf = true → T.lpoison = [] →
      (m.opcode = 0xD2 → m.a < 16 →
        let shape := blockShape w
        let row (k : Nat) : Nat := mobRowAddr m.d (blockPlace w (m.b + k)).1
        ∃ s' T', left s' T'
          ∧ (∀ k e, k < 128 → e < 32 →
            let i := k % 64
            let j := 32 * (k / 64) + e
            T'.lmem.readN (row k + 64 * (e / shape.2.1)) 32 / 2 ^ ((blockPlace w (m.b + k)).2 + shape.2.2 * (e % shape.2.1)) % 2 ^ w
              = (if bit m.block 0 then cell m.a (64 * j + i) else cell m.a (64 * i + j)) % 2 ^ w)
          ∧ (∀ k, k < 128 → T'.lmem.get (row k + (if w ≤ 4 then 32 + (m.b + k) % 2 else 32)) = 0x7F)
          ∧ ∀ a, (∀ k r, k < 128 → r < shape.1 → a < row k + 64 * r ∨ row k + 64 * r + 34 ≤ a) → T'.lmem.get a = T.lmem.get a)
      ∧ (∀ (G : Group) (x : Ctx) (th : Thread), grp? T m.group = some G → G.threads[m.lane]? = some th → ctxOf s T = some x →
        bit m.m 3 = true → m.step = 0 → m.work = [] → T.kern.s ≤ 0x400000 → m.a + 63 * m.b + 8 * w ≤ T.kern.s →
        let loaded := (List.range 4096).map (fun q => T.lmem.readN (m.a + q / 64 * m.b) (8 * w) / 2 ^ (w * (q % 64)) % 2 ^ w)
        (m.opcode = 0xDA → m.d < T.tiles.length → ends m.d { tile m.d with bound := true, poison := [], cells := ofCells loaded })
        ∧ (m.opcode = 0xDB → m.d < 16 → 8 * w ≤ m.b → ∃ s' T', left s' T'
          ∧ (∀ i j, i < 64 → j < 64 →
            T'.lmem.readN (m.a + i * m.b) (8 * w) / 2 ^ (w * j) % 2 ^ w = cell m.d (64 * i + j) % 2 ^ w)
          ∧ ∀ a, (∀ i, i < 64 → a < m.a + i * m.b ∨ m.a + i * m.b + 8 * w ≤ a) → T'.lmem.get a = T.lmem.get a)))
    ∧ (∀ (w : Where) (since need held : Nat), (w, since, need, held) ∈ tokenWaiters s → held < need →
      (∀ q ∈ tokenWaiters s, q.2.2.2 < q.2.2.1 → q = (w, since, need, held) ∨ since < q.2.1) →
      exec .tokenGrant s = .next (if poolSize s ≤ tokensUsed s then s else modGroup s w (fun g => { g with tokenHeld := g.tokenHeld + 1 })))

/-! ## Copies, core queues, windows, launches, Harrow -/

/-- R126, R243 and R245 to R253: what a copy of one thread issues when its descriptor keeps the rules of R247 or R249:
the release at device scope, a copy at its first byte, one operation of the copies counter, and the write pointer that
d[2:0] binds. Otherwise the thread takes a copy-descriptor fault, whose record holds the descriptor address or 0, or
COPYQ a format fault at a slot that is not valid, and nothing starts. LDCHK checks a tile against its trailer; a CRC that
differs is a tile-check fault with j, a tile that the descriptor does not have a copy-descriptor fault. WPLD and WPSET
read and set a write pointer. Log 33 names what is inferred of the descriptor checks. -/
def Obligations.CopiesIssue : Prop :=
  ∀ (f : Fld) (s : State) (c : Cur) (T : Team) (G : Group) (x : Ctx) (l : Nat),
    let e := laneEnv c T G x l
    let a := srcA e f
    let below (base : Nat) (pitch : Int) (rows n : Nat) : Prop :=
      ∀ j ∈ [0, rows - 1], 0 ≤ (base : Int) + j * pitch ∧ (base : Int) + j * pitch + n ≤ 2 ^ 56
    let starts (i : Instr) (s0 : State) (mk : State → Copy) : Prop :=
      Solo i f s c T G x l → Room s c G .copies → ∀ s1, release s0 e 5 = .ok s1 →
      let k := { mk s1 with opId := G.nextOp }
      let s2 := { s1 with nextReq := s1.nextReq + 1, copies := s1.copies ++ [k] }
      let s3 := if bit f.d.toNat 2 then
          modCore s2 T.die T.site (fun y => { y with wp := y.wp.set (f.d.toNat % 4) (BitVec.ofNat 64 k.dst, some s1.nextReq) })
        else s2
      ∃ s', exec i s = .next s' ∧
        Issued s3 s' c l { id := G.nextOp, ctr := .copies, kind := .copy [s1.nextReq], parts := [], done := false }
    let faults (i : Instr) (k : Ctr) (s0 : State) (p : FaultInfo) : Prop :=
      Solo i f s c T G x l → Room s c G k → ∀ T0 G0, team? s0 c.w.uid = some T0 → grp? T0 c.w.group = some G0 →
      ctxOf s0 T0 = some x → NoPatch s0 c T0 x →
      ∃ s', exec i s = .next s' ∧ Delivered s0 s' c T0 G0 x [l] p (fun _ th => th)
    let descriptor (at' : Nat) : FaultInfo := { code := .copyDescriptor, datum2 := at' }
    (let dst := srcA e f
     let src := regOf e (fldBit f 5) f.b.toNat
     let n := srcC e f
     let good := n ≤ 2 ^ 40 ∧ below src 0 1 n ∧ below dst 0 1 n
     (good → starts (.copy f) s (fun s => newCopy s e 0xE0 0 src dst 1 n n 0 0 0 0 0))
     ∧ (¬ good → faults (.copy f) .copies s (descriptor 0)))
    ∧ (a % 64 ≠ 0 → (∀ i ∈ ([Instr.copys f, .copyx f, .copyq f] : List Instr), faults i .copies s (descriptor a))
      ∧ faults (.ldchk f) .loads s (descriptor a))
    ∧ (a % 64 = 0 → ∀ bs s0, localLoad s x T.uid a 64 64 = .ok (bs, s0) →
      let D := ofBytes bs
      (∀ row ∈ ([(Instr.copys f, 0xE2), (Instr.copyx f, 0xE3)] : List (Instr × Nat)),
        let src := D % 2 ^ 64
        let dst := D / 2 ^ 64 % 2 ^ 64
        let rb := D / 2 ^ 128 % 2 ^ 32
        let rows := D / 2 ^ 160 % 2 ^ 32
        let sp := sext (D / 2 ^ 192 % 2 ^ 64) 64
        let dp := D / 2 ^ 256 % 2 ^ 64
        let sadr := D / 2 ^ 320 % 2 ^ 64
        let sval := D / 2 ^ 384 % 2 ^ 64
        let good := D / 2 ^ 448 = 0 ∧ rb ≠ 0 ∧ rows ≠ 0 ∧ rb ≤ dp ∧ below src sp rows rb ∧ below dst dp rows rb
          ∧ (if row.2 = 0xE3 then sadr % 8 = 0 else sadr = 0 ∧ sval = 0)
        (good → starts row.1 s0 (fun s => newCopy s e row.2 a src dst rows rb rb sp dp sadr sval 0))
        ∧ (¬ good → faults row.1 .copies s0 (descriptor a)))
      ∧ (let kd := slotDef x (qD D)
        let ks := slotDef x (qS D)
        let rb := (qNe D * kd.w + 7) / 8
        let sb := (qNe D * ks.w + 7) / 8
        let fields := D / 2 ^ 466 % 2 ^ 14 = 0 ∧ bit D 448 = false ∧ qGlen D ≤ 4 ∧ qRnd D ≠ 7 ∧ qRows D ≠ 0 ∧ qNe D ≠ 0
          ∧ qTadr D % 16 = 0 ∧ qXadr D % 16 = 0
        let slots := slotGood x (qD D) (fun _ => true) ∧ slotGood x (qS D) (fun _ => true)
        let ranges := rb ≤ qDpitch D ∧ below (qSrc D) (qSpitch D) (qRows D) sb ∧ below (qDst D) (qDpitch D) (qRows D) rb
        (fields ∧ slots ∧ ranges →
          starts (.copyq f) s0 (fun s => newCopy s e 0xE1 a (qSrc D) (qDst D) (qRows D) rb sb (qSpitch D) (qDpitch D) 0 0 D))
        ∧ (¬ fields ∨ (slots ∧ ¬ ranges) → faults (.copyq f) .copies s0 (descriptor a))
        ∧ (fields → ¬ slots → ∃ p, p.code = .format ∧ faults (.copyq f) .copies s0 p))
      ∧ (let j := srcBz e f
        let tr := qTr D
        let rb := (qNe D * (slotDef x (qD D)).w + 7) / 8
        let rows := (List.range (min (qRows D) ((j + 1) * tr) - j * tr)).map (fun r => j * tr + r)
        (tr = 0 ∨ (qRows D + tr - 1) / tr ≤ j → faults (.ldchk f) .loads s0 (descriptor a))
        ∧ (tr ≠ 0 → j < (qRows D + tr - 1) / tr → slotGood x (qD D) (fun _ => true) →
        ∀ tile s1 trailer s2, loadRows s0 e (qDst D) (qDpitch D) rb rows = .ok (tile, s1) →
        loadNow s1 x T.die T.site (qTadr D + 16 * j) 16 .load = .ok (trailer, s2) →
        let t := ofBytes trailer
        (crc32c tile = t / 2 ^ 96 % 2 ^ 32 → Solo (.ldchk f) f s c T G x l → Room s c G .loads →
          ∃ s', exec (.ldchk f) s = .next s' ∧
            Issued (if fldBit f 4 then writeG s2 c.w f.d.toNat (t % 2 ^ 64) else writeV s2 c.w l f.d.toNat (t % 2 ^ 64)) s' c l (doneOp G .loads))
        ∧ (crc32c tile ≠ t / 2 ^ 96 % 2 ^ 32 → faults (.ldchk f) .loads s2 { code := .tileCheck, datum2 := j }))))
    ∧ (Solo (.wpld f) f s c T G x l →
      let p := (core s T.die T.site).wp.getD (f.a.toNat % 4) (0, none)
      let s1 := if p.2.isSome then acquire s T 5 else s
      exec (.wpld f) s = .next (goto (if fldBit f 4 then writeG s1 c.w f.d.toNat p.1.toNat else writeV s1 c.w l f.d.toNat p.1.toNat) c.w [l] c.next))
    ∧ (Solo (.wpset f) f s c T G x l → exec (.wpset f) s = .next (goto
        (modCore s T.die T.site (fun y => { y with wp := y.wp.set (f.d.toNat % 4) (BitVec.ofNat 64 a, none) })) c.w [l] c.next))

/-- R139, R246, R252 and R253: COPY_WRITE performs the next bytes of a copy: those of the source, as the home has them or the
window computes them (R115), at the destination, within one 16-byte sector of each; no other byte of the home changes, a
bound write pointer moves past them. A window discards them; at a byte whose tag has a later key a deterministic grid's copy
leaves the byte (R143). A fault at the source or the destination, or a line of a deque, stops the copy (COPY_STOP): the fault
waits for its thread; a translation fault pauses it. COPY_COMPLETE ends a copy whose bytes are performed; before that a COPYX
adds its value to its signal word. R249 to R251: a COPYQ reads the elements of a row, and the scales and side lists of its
groups (`copySource`); it packs the converted elements (`copyElement`, `RowScales`) and writes them as other copies do, and
after the row its scales and side lists and, after a tile, the trailer of R85. The moment of each read is the model's choice
among the allowed ones (log 10); here no byte is poisoned and the destination is HBM. -/
def Obligations.CopiesMove : Prop :=
  ∀ (s : State) (k : Copy) (x : Ctx),
    s.copies.find? (fun c => c.id == k.id) = some k → ctx? s k.writer.ctx = some x → k.held = false →
    (∀ r ∈ s.outReqs, r.copy ≠ some k.id) →
    (k.state = .signalled → exec (.copyComplete k.id) s = .next { s with copies := s.copies.filter (fun c => c.id != k.id) })
    ∧ (s.home.wf = true → s.poison = [] → k.state = .running → k.wait = none → k.got = none →
    let d := k.desc
    let src : Nat := ((k.src : Int) + k.row * k.spitch + k.pos).toNat
    let dst := k.dst + k.row * k.dpitch + k.pos
    let working := k.row < k.rows ∧ k.rbytes ≠ 0
    let later (b : Nat) : Prop := x.det = true ∧ k.writer.graded = true
      ∧ ∃ t, x.tags.find? (fun t => t.1 == b) = some t ∧ listLt (writerKey k.writer) (writerKey t.2) = true
    let stopped (i : FaultInfo) : Prop := exec (.copyStop k.id) s = .next
      { lateFault s k.w k.lane (.copy (some k.opId)) { code := .copy, detail := i.code.num, data := i.data, datum2 := k.descAddr } with
        copies := s.copies.filter (fun c => c.id != k.id) }
    let paused (i : FaultInfo) : Prop := ∃ s', exec (.copyWrite k.id) s = .next s' ∧ s'.home = s.home
      ∧ s'.copies = s.copies.map (fun c => if c.id = k.id then { c with state := .paused i.data } else c)
    let puts (a n : Nat) (B : Nat → Byte) (moves : Bool) (g : Copy → Copy) : Prop :=
      let wrote (s' : State) : Prop := exec (.copyWrite k.id) s = .next s'
        ∧ s'.copies = s.copies.map (fun c => if c.id = k.id then g c else c)
        ∧ (core s' k.die k.site).wp = (core s k.die k.site).wp.map (fun p =>
          if moves = true ∧ p.2 = some k.id then (BitVec.ofNat 64 (a + n), p.2) else p)
      (a + n ≤ 2 ^ 56 →
        (∀ pd td, locate s x a .store = .ok (.mem pd td) →
          (pd < 2 ^ 40 → (∀ q ∈ s.deques, q.1 ≠ pd / 128) → ∃ s', wrote s' ∧ ∀ b,
            (pd ≤ b ∧ b < pd + n ∧ ¬ later b → s'.home.get b = B (b - pd))
            ∧ (b < pd ∨ pd + n ≤ b ∨ later b → s'.home.get b = s.home.get b))
          ∧ ((∃ q ∈ s.deques, q.1 = pd / 128) → stopped { code := .memoryType, data := a }))
        ∧ (∀ w off, locate s x a .store = .ok (.win w off) → ∃ s', wrote s' ∧ s'.home = s.home)
        ∧ (∀ i, locate s x a .store = .error i → (i.code ≠ .translation → stopped i) ∧ (i.code = .translation → paused i)))
      ∧ (2 ^ 56 < a + n → stopped { code := .address, data := a })
    let gives (a : Nat) (B : Nat → Byte) : Prop :=
      (∃ p t, locate s { x with wd := k.wd } a .load = .ok (.mem p t) ∧ p < 2 ^ 40 ∧ ∀ i, B i = s.home.get (p + i))
      ∨ (∃ w off, locate s { x with wd := k.wd } a .load = .ok (.win w off) ∧ ∀ i, B i = windowByte w (off + i))
    (k.extras = [] → working → k.opcode ≠ 0xE1 → k.pos < k.rbytes →
      let n := min (min (k.rbytes - k.pos) (16 - dst % 16)) (16 - src % 16)
      (src + n ≤ 2 ^ 56 → ∀ B, gives src B → puts dst n B true (fun c =>
        if k.rbytes ≤ k.pos + n then { c with row := c.row + 1, pos := 0, got := none } else { c with pos := c.pos + n, got := none }))
      ∧ (2 ^ 56 < src + n → stopped { code := .address, data := src })
      ∧ (src + n ≤ 2 ^ 56 → ∀ i, locate s { x with wd := k.wd } src .load = .error i →
        (i.code ≠ .translation → stopped i) ∧ (i.code = .translation → paused i)))
    ∧ (k.extras = [] → k.rows ≤ k.row ∨ k.rbytes = 0 →
      (k.opcode ≠ 0xE3 → exec (.copyComplete k.id) s = .next { s with copies := s.copies.filter (fun c => c.id != k.id) })
      ∧ (k.opcode = 0xE3 → ∀ pa ty, checkGlobal s x k.sadr 8 (.red .add) = .ok (.mem pa ty) → pa < 2 ^ 40 →
        claimFor s x k.writer pa k.sadr false = .ok false →
        ∃ s', exec (.copyWrite k.id) s = .next s' ∧ s'.home.readN pa 8 = (s.home.readN pa 8 + k.sval) % 2 ^ 64
          ∧ (∀ b, b < pa ∨ pa + 8 ≤ b → s'.home.get b = s.home.get b)
          ∧ s'.copies = s.copies.map (fun c => if c.id = k.id then { c with state := .signalled } else c)))
    ∧ (∀ a bs more, k.extras = (a, bs) :: more →
      let n := min bs.length (16 - a % 16)
      puts a n (fun i => bs.getD i 0) false (fun c => { c with extras := if bs.length ≤ n then more else (a + n, bs.drop n) :: more }))
    ∧ (k.extras = [] → working → k.opcode = 0xE1 → fdrValid k.fdS.toNat = true → fdrValid k.fdD.toNat = true →
      let ne := qNe d
      let G := 32 * qGlen d
      let wS := (slotS k).w
      let wD := (slotD k).w
      let grp := k.row * ((ne + G - 1) / G)
      let becomes (k' : Copy) : Prop := ∃ s', exec (.copyWrite k.id) s = .next s' ∧ { s' with copies := s.copies } = s
        ∧ s'.copies.find? (fun c => c.id == k.id) = some k' ∧ ∀ j, j ≠ k.id → s'.copies.find? (fun c => c.id == j) = s.copies.find? (fun c => c.id == j)
      (0 ≤ (k.src : Int) + k.row * k.spitch →
        ((rowReads k).filter (fun r => !r.1)).flatMap (fun r => (List.range r.2.2).map (fun i => r.2.1 + i))
          = (List.range ((ne * wS + 7) / 8)).map (fun i => ((k.src : Int) + k.row * k.spitch).toNat + i)
        ∧ ((rowReads k).filter (fun r => r.1)).map (fun r => r.2) = (if qIn d = true ∧ qGlen d ≠ 0 then
            (List.range ((ne + G - 1) / G)).flatMap (fun g =>
              (qGadr d + (grp + g), 1) :: (if (slotS k).esc = true then [(qXadr d + 16 * (grp + g), 16)] else []))
          else []))
      ∧ (k.rowReady = false → ∀ aux a n, (rowReads k)[k.fetched]? = some (aux, a, n) → a + n ≤ 2 ^ 56 → ∀ B, gives a B →
        let bs := (List.range n).map B
        becomes { k with fetched := k.fetched + 1, srcRow := if aux = true then k.srcRow else k.srcRow ++ bs,
                         aux := if aux = true then k.aux ++ bs else k.aux })
      ∧ (k.rowReady = false → (rowReads k)[k.fetched]? = none → k.srcRow.length = (ne * wS + 7) / 8 →
        ∃ X esc R, RowScales k X esc ∧ becomes { k with rowReady := true, dstRow := R } ∧ R.length = (ne * wD + 7) / 8
          ∧ (∀ i, i < ne → ofBytes R / 2 ^ (wD * i) % 2 ^ wD = (copyElement k i (X (i / G)) (esc i)).1 % 2 ^ wD)
          ∧ ofBytes R < 2 ^ (wD * ne))
      ∧ (k.rowReady = true → k.pos < k.rbytes → k.dstRow.length = k.rbytes →
        let n := min (k.rbytes - k.pos) (16 - dst % 16)
        puts dst n (fun i => k.dstRow.getD (k.pos + i) 0) true (fun c => { c with pos := c.pos + n }))
      ∧ (k.rowReady = true → k.rbytes ≤ k.pos → k.srcRow.length = (ne * wS + 7) / 8 → ∀ before, k.crc = crcStep 0xFFFFFFFF before →
        let tile := before ++ k.dstRow
        let ends := qTr d ≠ 0 ∧ ((k.row + 1) % qTr d = 0 ∨ k.row + 1 = k.rows)
        ∃ X esc M, RowScales k X esc
          ∧ (let elem (i : Nat) : Nat × Nat := copyElement k i (X (i / G)) (esc i)
            let mag (c : Nat) : Val := (codeVal (slotD k) c).1.abs
            let counts (i : Nat) : Prop := i < ne ∧ esc i = false ∧ (mag (elem i).1).isNan = false
            let satn := k.satn + ((List.range ne).filter (fun i => Nat.land (elem i).2 nfST != 0)).length
            let groups := List.range ((ne + G - 1) / G)
            let scales : List (Nat × List Byte) := if qIn d = false ∧ qGlen d ≠ 0 then
              [(qGadr d + grp, groups.map (fun g => BitVec.ofNat 8 (X g)))] else []
            let side (g j : Nat) : Nat := match ((List.range (min G (ne - g * G))).filter (fun i => esc (g * G + i)))[j]? with
              | some i => (roundVal fdBinary32 (copySource k (g * G + i)) 0 0).1
              | none => 0
            let sides : List (Nat × List Byte) := if (qIn d = false ∧ qGlen d ≠ 0) ∧ (slotD k).esc = true then
              [(qXadr d + 16 * grp, groups.flatMap (fun g => (List.range 4).flatMap (fun j => leBytes 4 (side g j))))] else []
            let trailer : List (Nat × List Byte) := if ends then
              [(qTadr d + 16 * (k.row / qTr d), leBytes 8 (if (slotD k).sgn = true then M % 2 ^ (wD - 1) else M)
                ++ leBytes 4 (min satn 0xFFFFFFFF) ++ leBytes 4 (crc32c tile))] else []
            (M = k.maxmag ∨ ∃ i, counts i ∧ M = (elem i).1)
            ∧ (∀ i, counts i → valLt (mag M) (mag (elem i).1) = false)
            ∧ ((mag k.maxmag).isNan = false → valLt (mag M) (mag k.maxmag) = false)
            ∧ (let done : Copy := { k with row := k.row + 1, pos := 0, fetched := 0, srcRow := [], aux := [], dstRow := [], rowReady := false }
              becomes { done with extras := scales ++ sides ++ trailer, maxmag := if ends then 0 else M,
                                  crc := if ends then 0xFFFFFFFF else crcStep 0xFFFFFFFF tile, satn := if ends then 0 else satn })))))

/-- R113, R116, R254 and R255: QPUSH appends 64 bytes, QPOP and QPEEK store the head, each with its status in d; QSTAT
counts; WINSET puts a window descriptor in force and drops its context's copies (`dropCopies`), or faults; WINGET
stores one. That the image is read through a NORMAL page is inferred (log 29). That a new window descriptor is read at
once is the model's choice (log 35). -/
def Obligations.QueuesAndWindows : Prop :=
  ∀ (f : Fld) (s : State) (c : Cur) (T : Team) (G : Group) (x : Ctx) (l : Nat),
    let e := laneEnv c T G x l
    let d := f.d.toNat
    let k := f.a.toNat
    let a := regOf e (fldBit f 5) f.b.toNat
    let Q := (core s T.die T.site).queues.getD k []
    let put (s : State) (q : List (List Byte)) : State := modCore s T.die T.site (fun y => { y with queues := y.queues.set k q })
    let ends (i : Instr) (s1 : State) (status : Nat) : Prop :=
      ∃ s', exec i s = .next s' ∧ Issued (writeV s1 c.w l d status) s' c l (doneOp G .loads)
    (Room s c G .loads →
      (Solo (.qpush f) f s c T G x l → ∀ bs s1, localLoad s x T.uid a 64 64 = .ok (bs, s1) →
        (64 ≤ Q.length → ends (.qpush f) s1 1) ∧ (Q.length < 64 → ends (.qpush f) (put s1 (Q ++ [bs])) 0))
      ∧ (∀ row ∈ ([(Instr.qpop f, true), (Instr.qpeek f, false)] : List (Instr × Bool)), Solo row.1 f s c T G x l →
        ∀ s1, localStore s T.uid (writerOf T G.idx l) a 64 64 (match Q with | h :: _ => fullUnit a h | [] => []) = .ok s1 →
        (Q = [] → ends row.1 s1 1) ∧ (∀ h q, Q = h :: q → ends row.1 (if row.2 then put s1 q else s1) 0)))
    ∧ (Ready (.qstat f) s c T G x → Computes (.qstat f) f s c T G x (fun _ => Q.length) noMore)
    ∧ (∀ m ms, Ready (.winset f) s c T G x → acting c G f = m :: ms →
      let idle := goto s c.w (c.lanes.filter (fun k => !(m :: ms).contains k)) c.next
      let em := laneEnv c T G x m
      ∀ bs s1, loadBlock idle em (srcA em f) 64 = .ok (bs, s1) →
      let ok := windowOk (ofBytes bs) ((x.wd.zipIdx.filter (fun p => p.2 != d)).map (·.1))
      (ok = true → exec (.winset f) s = .next (goto { dropCopies s1 x.id with ctxs := s1.ctxs.map (fun y =>
        if y.id = x.id then { y with wd := y.wd.set d (BitVec.ofNat 512 (ofBytes bs)) } else y) } c.w (m :: ms) c.next))
      ∧ (ok = false → exec (.winset f) s = .next (takeFault s1 c (m :: ms) { code := .windowSet })))
    ∧ (Solo (.winget f) f s c T G x l → ∀ loc, checkGlobal s x (srcA e f) 64 .store = .ok loc →
      let bs := leBytes 64 (x.wd.getD d 0).toNat
      exec (.winget f) s = .next (goto (match loc with
        | .mem pa _ => putStore s e G.nextOp (srcA e f) loc false (fun _ => pageRaw s x (srcA e f)) (fullUnit pa bs)
        | .win _ _ => s) c.w [l] c.next))

/-- R40, R42, R43, R256: a LAUNCH or LAUNCHI of one thread reads its descriptor, releases at device scope and sends
the launch to the arbiter, with the thread's class; its status comes back as an operation of the loads counter. A
LAUNCHI's counts are read later (LaunchesAndClusters). That the image is read through a NORMAL page is inferred (log 29). -/
def Obligations.LaunchesIssue : Prop :=
  ∀ (f : Fld) (s : State) (c : Cur) (T : Team) (G : Group) (x : Ctx) (l : Nat),
    let e := laneEnv c T G x l
    let cls := match T.role with | .queue q => (queueRec s q).prio.toNat / 2 | _ => T.cls
    let sends (i : Instr) (s1 : State) (bs : List Byte) (indirect : Bool) : Prop :=
      ∃ s', exec i s = .next s' ∧ Issued { s1 with launchQ := s1.launchQ ++ [{
          w := c.w, lane := l, opId := G.nextOp, ctx := x.id, cls := cls, desc := bs, indirect := indirect, die := T.die,
          cur := some { c with lanes := [l] } }] } s' c l
        { id := G.nextOp, ctr := .loads, kind := .parts, done := false,
          parts := [{ lane := l, bytes := [], links := [], form := .word f.d.toNat, ready := false, nf := 0, acq := 0, o := G.o }] }
    Room s c G .loads → ∀ bs s0 s1, loadBlock s e (srcA e f) 128 = .ok (bs, s0) → release s0 e 5 = .ok s1 →
    (Solo (.launch f) f s c T G x l → sends (.launch f) s1 bs false)
    ∧ (Solo (.launchi f) f s c T G x l → sends (.launchi f) s1 bs true)

/-- R36 and R259: REGRP releases at team scope and deposits its thread with payload, key, continuation and flags; a continuation that differs
from the round's is a regroup-continuation fault. R37: when the round has closed, the deposits start as new threads of
groups of 32 in key order, ties by index, at the continuation, with the payload in v0, the key in v1 and the flags
kept. Log 23 names the start values of s.tpc and s.tcause. -/
def Obligations.HarrowRounds : Prop :=
  (∀ (f : Fld) (s : State) (c : Cur) (T : Team) (G : Group) (x : Ctx) (l base len : Nat),
    let e := laneEnv c T G x l
    let cont := srcC e f
    Solo (.regrp f) f s c T G x l → T.role = .compute → Keeps s x T (cont / 2 ^ 40) base len → cont % 2 ^ 40 < len →
    ((T.harrowCont = none ∨ T.harrowCont = some (BitVec.ofNat 64 cont)) → ownPending s c.w l = false → exec (.regrp f) s = .next (harrowCheck
      (modThread (modTeam s T.uid (fun t => { t with
        harrow := t.harrow ++ [{ payload := BitVec.ofNat 64 (srcBz e f), key := BitVec.ofNat 16 (srcA e f), nf := e.th.nf,
                                 cont := BitVec.ofNat 64 cont, index := 32 * G.idx + l }],
        harrowCont := some (BitVec.ofNat 64 cont) }))
        c.w l (fun th => { th with pc := BitVec.ofNat 64 c.next, status := .deposited })) c.w.uid))
    ∧ (NoPatch s c T x → (∃ y, T.harrowCont = some y ∧ y ≠ BitVec.ofNat 64 cont) → ∃ s', exec (.regrp f) s = .next s' ∧
        Delivered s s' c T G x [l] { code := .regroupContinuation } (fun _ th => th)))
  ∧ (∀ (s : State) (uid : Nat) (T : Team) (x : Ctx) (cont : Word) (base len : Nat),
    team? s uid = some T → T.uid = uid → T.harrowClosed = true → T.harrowCont = some cont → ctx? s T.ctx = some x →
    Keeps s x T (cont.toNat / 2 ^ 40) base len → cont.toNat % 2 ^ 40 < len → 2 ≤ T.kern.f → T.lmem.wf = true →
    ∃ (s' : State) (T' : Team) (ds : List Deposit), exec (.harrowGroupsStart uid) s = .next s' ∧ team? s' uid = some T'
      ∧ ds.Perm T.harrow
      ∧ ds.Pairwise (fun a b => a.key.toNat < b.key.toNat ∨ (a.key = b.key ∧ a.index ≤ b.index))
      ∧ T'.harrow = [] ∧ T'.harrowClosed = false ∧ T'.harrowCont = none
      ∧ ∀ i d, ds[i]? = some d → ∃ g th, grp? T' (i / 32) = some g ∧ g.threads[i % 32]? = some th
        ∧ th.pc = BitVec.ofNat 64 (base + cont.toNat % 2 ^ 40) ∧ th.cid = BitVec.ofNat 24 (cont.toNat / 2 ^ 40)
        ∧ th.status = .running ∧ th.nf = d.nf ∧ th.p = 1 ∧ th.smst = 0 ∧ th.sx = 0
        ∧ readV T' g (i % 32) 0 = d.payload.toNat ∧ readV T' g (i % 32) 1 = d.key.toNat)

/-! ## Links, walks -/

/-- R357, R402 and R403: a UALink peer answers: a posted store is then performed at its target, a load has its bytes.
An answer waits for earlier requests of its thread to the same bytes and, as a failure does, for room at its port
(`heldBack`, `waitsRoom`: R404, R416). A request that fails, is timed out or refused is an address fault of its thread where
it returns something; a posted store's failure is counted and reported later; a completion word that fails is logged. A page
walk that finds a leaf is kept. The memory behind a link is the model's (log 2); that a failure is counted at its port and
that a walk uses its own entry are inferred (logs 32 and 34). Left out: answers to atomics, addresses under the package's own
accelerator id, and the requests of copies. -/
def Obligations.LinksAndWalks : Prop :=
  ∀ (s : State) (r : OutReq), s.outReqs.find? (fun q => q.id == r.id) = some r → r.copy = none →
    let s0 := { s with outReqs := s.outReqs.filter (fun q => q.id != r.id) }
    (r.port < 16 → r.atomic = none → heldBack s r = false → loopPa s r.pa = none →
      exec (.ualinkResponse r.id) s = .next (if r.posted then homeStore s0 r.data (some r.writer) else fillLinks s0 r.w r.opId r.lane r.pa r.len))
    ∧ (∀ row ∈ ([(Instr.completionTimeout r.id, decide (16 ≤ r.port)), (Instr.ualinkResponseTimeout r.id, decide (r.port < 16)),
        (Instr.outboundFailure r.id, true)] : List (Instr × Bool)),
      (row.2 = false ∨ waitsRoom s r = true → exec row.1 s = .next s)
      ∧ (row.2 = true → waitsRoom s r = false → r.w = completionWhere →
        exec row.1 s = .next (logError (countError s0 r.port) (some r.writer.ctx) 7 r.va 0 8))
      ∧ (row.2 = true → waitsRoom s r = false → r.w ≠ completionWhere →
        (∀ c, r.posted = false → r.cur = some c → exec row.1 s = .next
          (takeFault (cancelPart { countError s0 r.port with outReqs := s0.outReqs.filter (fun q =>
            !(q.copy.isNone && q.w == r.w && q.opId == r.opId && q.lane == r.lane)) } r.w r.opId r.lane) c [r.lane] { code := .address, data := r.va }))
        ∧ (r.posted = true → exec row.1 s = .next (modThread (countError s0 r.port) r.w r.lane (fun th =>
          if th.linkFails = 0 ∨ r.id < th.linkReq then { th with linkFails := th.linkFails + 1, linkVa := r.va, linkReq := r.id }
          else { th with linkFails := th.linkFails + 1 })))))
    ∧ (∀ (ctx va : Nat) (x : Ctx) (lf : Leaf), ctx? s ctx = some x → walkLevels s va [4, 3, 2, 1, 0] x.ptroot = .ok lf →
      exec (.pageWalk ctx va) s = .next (if s.kept.any (fun k => k.ctx == ctx && decide (k.va ≤ va) && decide (va < k.va + k.size)) then s
        else { s with kept := { ctx := ctx, va := lf.va, size := lf.size, leaf := lf.pte } :: s.kept }))

/-! ## Faults before an instruction executes -/

/-- R94, R164, R207, R33, R380: the threads of an issue group that cannot be fetched or decoded take the fault of
R164; those whose guard is true take a register-range fault at a register the kernel does not have, a poison fault at
a poisoned source, a format fault at a slot the instruction does not accept or a part beyond the elements; threads at
a cross-lane instruction whose mask does not name them take a cross-lane member fault, with those held there where a
mask differs or names a thread that has ended. The fault is delivered with I's address and no register is written.
Which operand role the detail of a format fault names, and what other lanes do, is inferred (logs 16 and 17). -/
def Obligations.FaultsBeforeExecution : Prop :=
  ∀ (f : Fld) (s : State) (c : Cur) (T : Team) (G : Group) (x : Ctx),
    let act := acting c G f
    let onward (l : Nat) (th : Thread) : Thread := if l ∈ c.lanes then stepped c.next th else th
    let faults (i : Instr) (lanes : List Nat) (k : FaultInfo) : Prop :=
      ∃ s', exec i s = .next s' ∧ Delivered s s' c T G x lanes k onward
    Stands s c T G x → NoPatch s c T x → c.lanes ≠ [] →
    faults .illegalInstruction c.lanes { code := .illegalInstruction }
    ∧ faults .illegalLength c.lanes { code := .illegalLength, datum2 := if c.pc % 2 = 1 then c.pc else 0 }
    ∧ (∀ d, bit d 5 = false → faults (.instructionFetchFault d) c.lanes { code := .instructionFetch, detail := d, data := c.next })
    ∧ (∀ d, exec (.instructionFetchFault d) s = .next (deliver
        { s with lastFault := some (c.lanes, { code := .instructionFetch, detail := d, data := c.next }) } c c.lanes
        { code := .instructionFetch, detail := d, data := c.next }))
    ∧ (∀ i ∈ ([Instr.mov, .sel, .iadd, .isub, .imul, .imulh, .imad, .idiv, .irem, .ineg, .iabs, .imin, .imax, .iadc, .iadds,
        .isubs, .and, .or, .xor, .not, .shl, .shr, .sar, .fadd, .fsub, .fmul, .ffma, .fdiv, .fmin, .fmax, .fsqrt, .fcmp, .cvt] :
          List (Fld → Instr)),
      act ≠ [] → (∃ op g, asLong (i f) = some (op, g) ∧ T.kern.f < vNeed op g) → faults (i f) act { code := .registerRange })
    ∧ (∀ (l : Nat), ∀ i ∈ ([Instr.iadd, .isub, .imul, .imin, .imax, .fadd, .fsub, .fmul, .fdiv] : List (Fld → Instr)),
      c.lanes = [l] → act = [l] → (∀ op g, asLong (i f) = some (op, g) → vNeed op g ≤ T.kern.f) →
      fldBit f 6 = false → vAddr T.kern G l f.a.toNat / 8 ∈ T.lpoison →
      faults (i f) [l] { code := .poison, detail := 1, data := vAddr T.kern G l f.a.toNat })
    ∧ (act ≠ [] →
      (∀ row ∈ ([(Instr.fadd, anyFormat), (.fsub, anyFormat), (.fmul, anyFormat), (.ffma, anyFormat), (.fdiv, anyFormat),
          (.fsqrt, anyFormat), (.fmin, anyFormat), (.fmax, anyFormat), (.fcmp, anyFormat),
          (.fexp2, realFormat), (.flog2, realFormat), (.fsin, realFormat), (.fcos, realFormat)] : List ((Fld → Instr) × (Fdr → Bool))),
        Ready (row.1 f) s c T G x → ¬ slotGood x f.slot.toNat row.2 → faults (row.1 f) act { code := .format })
      ∧ (∀ row ∈ ([(Instr.cvt, fun _ => f.b.toNat % 64), (Instr.scale, fun e => srcBz e f / 256 % 64),
          (Instr.unscale, fun e => srcBz e f / 256 % 64)] : List ((Fld → Instr) × (Env → Nat))),
        let n := min (elems (slotDef x (f.c.toNat % 16))) (elems (slotDef x f.slot.toNat))
        Ready (row.1 f) s c T G x → slotGood x f.slot.toNat anyFormat → slotGood x (f.c.toNat % 16) anyFormat →
        (∀ l ∈ act, max (elems (slotDef x (f.c.toNat % 16))) (elems (slotDef x f.slot.toNat)) ≤ row.2 (laneEnv c T G x l) * n) →
        faults (row.1 f) act { code := .format }))
    ∧ (∀ i ∈ ([Instr.lget, .lslide, .lslideW, .lpair, .lcycle, .lcast, .lall, .lany, .lsame, .lbits, .lcount, .lpeers, .redLane,
        .redLaneMin, .redLaneMax, .redLaneI, .redLaneLog, .scan, .scanMin, .scanMax, .scanI] : List (Fld → Instr)),
      Ready (i f) s c T G x →
      let mask := readG T G f.c.toNat % 2 ^ 32
      let held := heldAt G c.pc
      let member (lanes : List Nat) : Prop :=
        ∃ s', exec (i f) s = .next s' ∧ Delivered s s' c T G x lanes { code := .crossLaneMember } (fun _ th => th)
      let gone (l : Nat) : Prop := ∀ th, G.threads[l]? = some th → th.status = .ended
      ((∀ l ∈ c.lanes, bit mask l = false) → (∀ h ∈ held, h.2 = mask) → (∀ l, l < 32 → bit mask l = true → ¬ gone l) → member c.lanes)
      ∧ ((∃ h ∈ held, h.2 ≠ mask) ∨ (∃ l, l < 32 ∧ bit mask l = true ∧ gone l) → member (c.lanes ++ held.map (·.1))))

/-! ## Encodings, steps, reset, memory -/

/-- R147 and R150 to R164: an instruction that an encoding can hold is read back from its bytes, whatever bytes follow;
and the bytes that decode to an instruction are the ones that its encoding gives. -/
def Obligations.DecodeAndEncodeAgree : Prop :=
  (∀ (i : Instr) (rest : List Byte), i.wf = true → (encodeBits i).1 ≠ 0 → decode (encode i ++ rest) = .ok (i, (encode i).length))
  ∧ (∀ (bs : List Byte) (i : Instr) (n : Nat), decode bs = .ok (i, n) → i.wf = true ∧ n = (encode i).length ∧ bs.take n = encode i)

/-- R150 to R153 and R161: words put together from the layouts, one of each length, decode to the instructions that R161 and
R163 name; length code 0b11 and a reserved opcode are refused by name. -/
def Obligations.WordsDecodeAsLaidOut : Prop :=
  -- IADD16 r3, r5: opcode 1 at [4:1], rd at [8:5], rs at [12:9], mod 0
  decodeTableWord 16 (1 * 2 + 3 * 2 ^ 5 + 5 * 2 ^ 9) = some (.iadd16 3 5)
  -- BRA, 32-bit form, opcode 0x02 at [10:3], guard 4 at [13:11], d 1, a 2, b 3
  ∧ decodeTableWord 32 (1 + 2 * 2 ^ 3 + 4 * 2 ^ 11 + 1 * 2 ^ 14 + 2 * 2 ^ 20 + 3 * 2 ^ 26)
      = some (.bra { form := .w32, sense := false, guard := 4, pace := 0, d := 1, a := 2, b := 3, c := 0, slot := 0, m := 0, lit := 0 })
  -- IADD, 64-bit form, opcode 0x22, guard 2, sense 1, pace 3, d 9, a 10, b 11, type 2
  ∧ decodeTableWord 64 (3 + 0x22 * 2 ^ 3 + 2 * 2 ^ 11 + 1 * 2 ^ 14 + 3 * 2 ^ 15 + 9 * 2 ^ 19 + 10 * 2 ^ 27 + 11 * 2 ^ 35 + 2 * 2 ^ 51)
      = some (.iadd { form := .w64, sense := true, guard := 2, pace := 3, d := 9, a := 10, b := 11, c := 0, slot := 2, m := 0, lit := 0 })
  -- MOV, 96-bit form, opcode 0x20, d 7, type 5, literal
  ∧ decodeTableWord 96 (5 + 0x20 * 2 ^ 3 + 7 * 2 ^ 19 + 5 * 2 ^ 51 + 0x89ABCDEF * 2 ^ 64)
      = some (.mov { form := .w96, sense := false, guard := 0, pace := 0, d := 7, a := 0, b := 0, c := 0, slot := 5, m := 0, lit := 0x89ABCDEF })
  ∧ decode (leBytes 12 7) = .error .illegalLength
  ∧ decode (leBytes 12 (3 + 0xFF * 2 ^ 3)) = .error .reservedOpcode
  ∧ decode (leBytes 12 0) = .error .unlistedHalfword

/-- R26, R27, R147, R149, R164: an issue group at whose address the fetched bytes decode to i, with no patch slot that
matches and nothing that holds its threads back, runs i, and where they decode to nothing the illegal-instruction row:
the step is exec of i with that group standing, under the pace of its thread where it has one (`runPaced`, R324: exec
of i alone where no thread executes paced code). Afterwards the threads that only wait keep their last issue (R27), the queue
records show their programs' state (R333) and the programs that are not ready are marked (R336).
An input that is an event runs that event, after earlier writes of the port that brings it (R412). The bytes fetched
are those of memory where the core keeps no copy (R166). The list of inputs, and the order of what happens by itself,
are the model's (log 3). -/
def Obligations.StepRunsTheInstruction : Prop :=
  (∀ (s s0 s1 s2 s' : State) (w : Where) (t : Team) (g : Group) (x : Ctx) (pc : Nat) (lanes : List Nat)
      (more : List (Nat × Option (Nat × SlotRec) × List Nat)) (bs : List Byte) (i : Instr),
    ((∃ rest ws, s.inputs = .issue w :: rest ∧ s0 = { s with inputs := rest } ∧ chosenFor s0 w = w :: ws)
      ∨ (s.inputs = [] ∧ nextInternal s = none ∧ (∃ ws, readyGroups s = w :: ws) ∧ s0 = s ∧ s'.tick ≠ s.tick)) →
    startGroup s0 w = (s1, true) → team? s1 w.uid = some t → group? s1 w = some g → ctxOf s1 t = some x →
    subsets x.det g (readyLanes s1 t g) = (pc, none, lanes) :: more → lanes ≠ [] → pc % 2 = 0 → fetch s1 t x pc = (.bytes bs, s2) →
    let c : Cur :=
      { w := w, lanes := lanes, pc := pc, next := pc + bs.length, dword := (decodeWord bs).1, lit := (decodeWord bs).2.1,
        form := (decodeWord bs).2.2, noPatch := false, noG := false, gen := (core s1 t.die t.site).patchGen }
    matchSlot s2 t x c none = none →
    ((∃ n, decode bs = .ok (i, n)) ∧ subsetFault t i = none ∧ (∀ op f, asLong i = some (op, f) →
        ∀ l ∈ lanes, ∀ e, env? s2 c l = some e → laneBlocked s2 e op f = false))
      ∨ ((∃ r, decode bs = .error r) ∧ i = .illegalInstruction) →
    let s3 := modThreads { s2 with tick := s2.tick + 1 } w lanes (fun th => { th with last := s2.tick + 1, idle := 0, slot := none, gen := c.gen })
    let issued := match asLong i with
      | some (op, f) => runPaced (exec i) c op f { s3 with cur := some c, lastFault := none }
      | none => exec i { s3 with cur := some c, lastFault := none }
    issued = .next s' → lanes.all (laneWaits s' w) = false → s'.rewrite = [] →
    step s = .next (markReady (showQueues { keepLast g s' w lanes with cur := none, lastFault := none })))
  ∧ (∀ (i : Instr) (c : Cur) (op : Nat) (f : Fld) (s : State),
    (∀ l ∈ c.lanes, ∀ e, env? s c l = some e → paced e = false ∧ e.th.recent = []) → runPaced (exec i) c op f s = exec i s)
  ∧ (∀ (s s' : State) (i : Instr) (rest : List Input), s.inputs = .event i :: rest → isCode i = false →
    let s0 := { s with inputs := rest }
    exec i (if hostWritten i then drainWrites s0 0 else s0) = .next s' → s'.rewrite = [] →
    step s = .next (markReady (showQueues { s' with cur := none, lastFault := none })))
  ∧ (∀ (s : State) (t : Team) (x : Ctx) (pc pa ty n : Nat),
    (∀ iod, t.role ≠ .patch iod) → (core s t.die t.site).icache = [] → s.poison = [] → pa % 16 = pc % 16 → pc + n ≤ 2 ^ 56 →
    lengthOf (s.home.readN pa 2) = some n → (∀ k, k < n → locate s x (pc + k) .fetch = .ok (.mem (pa + k) ty)) →
    ∃ s2, fetch s t x pc = (.bytes (s.home.readList pa n), s2) ∧ { s2 with cores := s.cores } = s)

/-- R8 and the Reset columns of R332, R344, R349, R351, R352, R360, R386, R418 and R446: no context lives, every queue
is stopped with its record 0, every site stands for itself and 160 of a die's sites can be used (logs 8 and 9 say
where that and the governor's first cap are the model's, log 1 that unwritten memory reads 0), the pool is 1,280,
memories list nothing, and nothing happens by itself. -/
def Obligations.ResetValues : Prop :=
  State.reset.ctxs = [] ∧ State.reset.teams = [] ∧ State.reset.copies = [] ∧ State.reset.evQ = []
  ∧ (∀ q, queueRec State.reset q = queue0 q)
  ∧ (∀ die site, physOf State.reset die site = site)
  ∧ (∀ die site, die < 8 → (siteAvail State.reset die site = true ↔ site < 160))
  ∧ poolSize State.reset = 1280 ∧ tokensUsed State.reset = 0
  ∧ State.reset.regs.evwr = 0 ∧ State.reset.regs.drop = 0 ∧ State.reset.pseq = 0
  ∧ (∀ r, regionOld State.reset r = 0)
  ∧ (∀ p, p < 16 → portWord State.reset p = 0)
  ∧ State.reset.patch = none ∧ State.reset.regs.patchEn = 0
  ∧ (∀ a, State.reset.home.get a = 0) ∧ Sound State.reset ∧ step State.reset = .next State.reset

/-- R5, R25: every step keeps the canonical form of HBM with the link targets and of the mailbox, and leaves no issue
group standing; so equal memories are equal data in every state that a run reaches. The canonical form is the model's
own. -/
def Obligations.StepsKeepTheMachineSound : Prop :=
  ∀ (s s' : State), Sound s → step s = .next s' → Sound s'

/-! ## Launches, gates, placement, events -/

/-- R40, R43, R258, R340 to R352, R366, R368. The arbiter takes the oldest launch; a LAUNCHI with no predecessor has its
counts read now, after an acquire, and a fault in reading them is its thread's. The status is that of the first check that
fails; an accepted launch gets the context's next number. A gate reads its words and opens when both match; a word that does
not match is watched from then on. It reads the counts of a LAUNCHI with a predecessor after its acquire; counts that are out
of range, or that a co-resident grid cannot be placed with, drop the launch, whose completion word says so. The placer of the
die that the first cluster in line tries first puts its teams on the first rectangle of sites that have room; a cluster whose
teams have ended publishes what they stored (`publishTeam`) and retires, in a deterministic context with its event in the
order of the clusters; a grid with nothing left completes; events and fault entries go to their rings when there is room.
Kernel records come from the loader (log 4); logs 25, 29 and 30 name what is inferred of publication, events and fault
entries, and that the event of a grid follows its completion word is the model's choice (log 35). Placement is stated of
grids that are not placed whole; co-resident grids are left out there. -/
def Obligations.LaunchesAndClusters : Prop :=
  ∀ (s : State) (x : Ctx), ctx? s x.id = some x →
    (∀ (r : LaunchReq) (rest : List LaunchReq), s.launchQ = r :: rest → r.ctx = x.id →
      let d := ofBytes r.desc
      let s0 := { s with launchQ := rest }
      let alone := ldPred d 0 = 0 ∧ ldPred d 1 = 0 ∧ launchOk d true = true
      let threeOf (cs : List Byte) : Nat × Nat × Nat := (ofBytes (cs.take 4), ofBytes ((cs.drop 4).take 4), ofBytes ((cs.drop 8).take 4))
      (r.indirect = true → alone → ldCadr d + 12 ≤ 2 ^ 56 → ∀ c e i, r.cur = some c → env? s0 c r.lane = some e →
        loadNow (acquire s0 e.t 5) e.x e.t.die e.t.site (ldCadr d) 12 .load = .error i →
        exec .launchArrival s = .next (takeFault (cancelPart s0 r.w r.opId r.lane) c [r.lane] i))
      ∧ ∀ counts s1,
      ((r.indirect = false ∧ counts = some (ldGdim d) ∧ s1 = s0)
        ∨ (r.indirect = true ∧ ¬ alone ∧ counts = none ∧ s1 = s0)
        ∨ (r.indirect = true ∧ alone ∧ ldCadr d + 12 ≤ 2 ^ 56 ∧ ∃ c e cs, r.cur = some c ∧ env? s0 c r.lane = some e
          ∧ loadNow (acquire s0 e.t 5) e.x e.t.die e.t.site (ldCadr d) 12 .load = .ok (cs, s1) ∧ counts = some (threeOf cs))) →
      let answered (st : Nat) : State := fillPart s1 r.w r.opId r.lane (leBytes 8 st) 0
      let refused (st : Nat) : Prop := exec .launchArrival s = .next (emit (answered st) 8 1 x.id 0 0 st)
      (launchOk d r.indirect = false ∨ kernelFor s1 x (ldKern d) = none → refused 2)
      ∧ (launchOk d r.indirect = true → ∀ k, kernelFor s1 x (ldKern d) = some k →
        let dims := ∀ g, counts = some g → dimsOk g = true
        let fits := ldKind d = 0 ∨ ∀ g, counts = some g → coResident s1 x k (g.1 * g.2.1 * g.2.2) = true
        (kernOk k = false ∨ ¬ dims → refused 2)
        ∧ (kernOk k = true → dims → barsBad k (ldKind d) = true → refused 4)
        ∧ (kernOk k = true → dims → barsBad k (ldKind d) = false → ¬ fits → refused 1)
        ∧ (kernOk k = true → dims → barsBad k (ldKind d) = false → fits → 4096 ≤ x.launches.length + x.grids.length → refused 3)
        ∧ (kernOk k = true → dims → barsBad k (ldKind d) = false → fits → x.launches.length + x.grids.length < 4096 →
          exec .launchArrival s = .next (emit
            { modCtx (answered 0) x.id (fun y => { y with
                nextAcc := y.nextAcc + 1,
                launches := y.launches ++ [{
                  acc := x.nextAcc, order := s.accOrder, cls := min (ldClass d) r.cls, desc := r.desc, indirect := r.indirect, kern := k,
                  pass0 := ldPred d 0 == 0, pass1 := ldPred d 1 == 0, counts := counts, watch0 := none, watch1 := none, parked := none, heldForGood := false }] }) with
              accOrder := s.accOrder + 1 } 8 0 x.id x.nextAcc 0 0))))
    ∧ (∀ l : Launch, x.launches.find? (fun m => m.acc == l.acc) = some l → l.heldForGood = false → l.parked = none →
      let d := ofBytes l.desc
      let word (i pa ty : Nat) : Prop := checkGlobal s x (ldPred d i) 8 .monitor = .ok (.mem pa ty) ∧ poisoned s pa 8 = false
      let gate := exec (.gatePass x.id l.acc) s
      (∀ pa ty, l.pass0 = false → word 0 pa ty → s.home.readN pa 4 = ldPval d 0 →
        gate = .next (modLaunch s x.id l.acc (fun l => { l with pass0 := true })))
      ∧ (∀ pa ty, l.pass0 = true → l.pass1 = false → word 1 pa ty → s.home.readN pa 4 = ldPval d 1 →
        gate = .next (modLaunch s x.id l.acc (fun l => { l with pass1 := true })))
      ∧ (∀ pa ty, l.pass0 = false → word 0 pa ty → s.home.readN pa 4 ≠ ldPval d 0 → l.watch0 ≠ some (pa, ldPval d 0) →
        gate = .next (modLaunch s x.id l.acc (fun l => { l with watch0 := some (pa, ldPval d 0) })))
      ∧ (∀ pa ty, l.pass0 = true → l.pass1 = false → word 1 pa ty → s.home.readN pa 4 ≠ ldPval d 1 →
        gate = .next (if l.watch1 = some (pa, ldPval d 1) then s
          else modLaunch s x.id l.acc (fun l => { l with watch1 := some (pa, ldPval d 1) })))
      ∧ (let opens (s1 : State) (g : Nat × Nat × Nat) : Prop := gate = .next (modCtx (dropLaunch s1 x.id l.acc) x.id (fun y => { y with
            grids := y.grids ++ [{
              acc := l.acc, order := l.order, cls := l.cls, kind := ldKind d, kern := l.kern, desc := l.desc, gdim := g,
              gbs := List.replicate 4 barrier0, next := 0, waiting := [], live := [], away := [], retired := [], nextRetire := 0 }] }))
        let drops (s1 : State) (st : Nat) : Prop := gate = .next (completionWord (dropLaunch s1 x.id l.acc) x (ldCadr2 d) (ldCval d) st)
        l.pass0 = true → l.pass1 = true →
        (∀ g, l.counts = some g → l.indirect = false ∨ (ldPred d 0 = 0 ∧ ldPred d 1 = 0) →
          (dimsOk g = true → opens s g) ∧ (dimsOk g = false → drops s 2))
        ∧ (l.counts = none → l.indirect = true → ¬ (ldPred d 0 = 0 ∧ ldPred d 1 = 0) →
          (∀ cs s1, loadNow (dropClean s 8 17) x 8 17 (ldCadr d) 12 .load = .ok (cs, s1) →
            let g := (ofBytes (cs.take 4), ofBytes ((cs.drop 4).take 4), ofBytes ((cs.drop 8).take 4))
            let fits := ldKind d = 0 ∨ coResident (dropLaunch s1 x.id l.acc) x l.kern (g.1 * g.2.1 * g.2.2) = true
            (dimsOk g = true → fits → opens s1 g) ∧ (dimsOk g = false → drops s1 2) ∧ (dimsOk g = true → ¬ fits → drops s1 1))
          ∧ (∀ i, loadNow (dropClean s 8 17) x 8 17 (ldCadr d) 12 .load = .error i →
            (i.code ≠ .translation → drops (gateEntry s x.id l.acc i.code.num (ldCadr d)) 2)
            ∧ (i.code = .translation → gate = .next (gateEntry
              (modLaunch s x.id l.acc (fun l => { l with parked := some i.data })) x.id l.acc i.code.num (ldCadr d)))))))
    ∧ (∀ (g : Grid) (i : InLine) (more : List InLine) (die : Nat) (ds sites : List Nat),
      placerLine s = i :: more → i.atGate = false → i.restored = false → i.kind = 0 → i.ctx = x.id → i.acc = g.acc → grid? s x.id g.acc = some g →
      g.waiting = [] → g.next < gridClusters g → diesFor x g (.fresh g.next) = die :: ds → fitsOn s x g (.fresh g.next) die = some sites →
      (∃ x0 y0, sites = rectSites g.kern.cw g.kern.ch x0 y0 ∧ x0 + g.kern.cw ≤ 12 ∧ y0 + g.kern.ch ≤ 14
        ∧ (∀ p ∈ sites, coreFits s x.id g.kern false die p = true)
        ∧ ∀ x1 y1, x1 + g.kern.cw ≤ 12 → y1 + g.kern.ch ≤ 14 → (y1 < y0 ∨ y1 = y0 ∧ x1 < x0) →
            ∃ p ∈ rectSites g.kern.cw g.kern.ch x1 y1, coreFits s x.id g.kern false die p = false)
      ∧ ∃ s', exec (.clusterPlace die) s = .next s'
        ∧ s'.teams = s.teams ++ sites.zipIdx.map (fun p => newTeam x g (s.nextUid + p.2) g.next p.2 die p.1)
        ∧ grid? s' x.id g.acc = some { g with next := g.next + 1, live := g.live.filter (fun c => c != g.next) ++ [g.next] }
        ∧ s'.home = s.home
        ∧ ∃ e, s'.evQ = s.evQ ++ [e] ∧ e.die = die ∧ e.kind = 2 ∧ e.ctx = x.id ∧ e.acc = g.acc ∧ e.cix = g.next ∧ e.info = sites.headD 0)
    ∧ (∀ (g : Grid) (cix : Nat) (T : Team), grid? s x.id g.acc = some g → g.retired = [] → g.live.contains cix = true →
      let mine (t : Team) : Bool := t.role == .compute && t.ctx == x.id && t.acc == g.acc && t.cix == cix
      T ∈ s.teams → mine T = true → T.k = 0 → (∀ t ∈ s.teams, mine t = true → t.k = 0 → t = T) →
      (∀ t ∈ s.teams, mine t = true → teamEnded t = true ∧ t.mq = [] ∧ ∀ c ∈ s.cores, ∀ o ∈ c.smu, o.uid ≠ t.uid) →
      let s0 := (s.teams.filter mine).foldl publishTeam s
      ∃ s', exec (.clusterRetire x.id g.acc cix) s = .next s'
        ∧ s'.teams = s0.teams.filter (fun t => !mine t) ∧ s'.home = s0.home
        ∧ s'.departed = s0.departed ++ ((s0.teams.filter mine).filter (outlives s0)).map departed
        ∧ (x.det = false ∨ cix = g.nextRetire →
          grid? s' x.id g.acc = some { g with live := g.live.filter (fun c => c != cix), nextRetire := g.nextRetire + 1 }
          ∧ ∃ e, s'.evQ = s0.evQ ++ [e] ∧ e.die = T.die ∧ e.kind = 3 ∧ e.ctx = x.id ∧ e.acc = g.acc ∧ e.cix = cix ∧ e.info = T.site)
        ∧ (x.det = true → cix ≠ g.nextRetire → s'.evQ = s0.evQ
          ∧ grid? s' x.id g.acc = some { g with live := g.live.filter (fun c => c != cix), retired := [(cix, T.site, T.die)] }))
    ∧ (∀ (g : Grid), grid? s x.id g.acc = some g → g.next = gridClusters g → g.waiting = [] → g.live = [] → g.away = [] →
      g.retired = [] → gridBusy s x.id g.acc = false →
      (∀ c ∈ s.cores, ∀ d ∈ c.dirty, ¬ (d.w.graded = true ∧ d.w.ctx = x.id ∧ d.w.acc = g.acc)) →
      let d := ofBytes g.desc
      let gone (s : State) : State := emit { modCtx s x.id (fun y => { y with
        grids := y.grids.filter (fun h => h.acc != g.acc), tags := y.tags.filter (fun t => t.2.acc != g.acc),
        claims := y.claims.filter (fun c => c.2.1 != g.acc) }) with
          departed := s.departed.filter (fun t => !(t.ctx == x.id && t.acc == g.acc)) } 8 4 x.id g.acc 0 0
      let ends (s1 : State) : Prop := exec (.gridComplete x.id g.acc) s = .next (gone s1)
      (ldCadr2 d = 0 → ends s)
      ∧ (ldCadr2 d ≠ 0 →
        (∀ pa ty, checkGlobal s x (ldCadr2 d) 8 .store = .ok (.mem pa ty) →
          let unit := fullUnit pa (leBytes 8 (ldCval d))
          let s1 := homeStoreFor s unit none (some x.id)
          (pa < 2 ^ 40 → ends (if ty ≤ 1 then setForm s1 (pageRaw s1 x (ldCadr2 d)) [pa] else s1))
          ∧ (∀ p, targetOf s pa = .ualink p → ends (sendWord s x (ldCadr2 d) pa ty unit)))
        ∧ (∀ w off, checkGlobal s x (ldCadr2 d) 8 .store = .ok (.win w off) → ends s)
        ∧ (∀ i, checkGlobal s x (ldCadr2 d) 8 .store = .error i → ends (logError s (some x.id) 7 (ldCadr2 d) 0 8))))
    ∧ (∀ (e : Ev) (rest : List Ev), s.evQ = e :: rest →
      let base := bits (ctlGet s 0x300020) 55 0
      let len := bits (ctlGet s 0x300028) 31 0
      let full := (s.regs.evwr - BitVec.ofNat 32 (bits (ctlGet s 0x300030) 63 32)).toNat = len
      let at' := base + 64 * (s.pseq % len)
      (len = 0 → exec .eventRecord s = .next { s with evQ := rest, pseq := s.pseq + 1 })
      ∧ (len ≠ 0 → full → exec .eventRecord s = .next { s with
          evQ := rest, pseq := s.pseq + 1,
          regs := { s.regs with drop := if s.regs.drop.toNat = 2 ^ 32 - 1 then s.regs.drop else s.regs.drop + 1 } })
      ∧ (len ≠ 0 → ¬ full → at' < 2 ^ 40 → s.home.wf = true →
        e.die < 16 → e.kind < 2 ^ 8 → e.ctx < 2 ^ 16 → e.info < 2 ^ 36 → ∃ s', exec .eventRecord s = .next s'
          ∧ s'.evQ = rest ∧ s'.pseq = s.pseq + 1
          ∧ { s'.regs with msixPend := s.regs.msixPend } = { s.regs with evwr := s.regs.evwr + 1 }
          ∧ (if s.regs.msixMask.contains (0, 0) then s'.msix = s.msix ∧ (0, 0) ∈ s'.regs.msixPend
            else s'.msix = s.msix ++ [(0, 0)] ∧ s'.regs.msixPend = s.regs.msixPend)
          ∧ s'.home.readN at' 8 = e.info + e.die * 2 ^ 36 + e.kind * 2 ^ 40 + e.ctx * 2 ^ 48
          ∧ s'.home.readN (at' + 8) 8 = e.cyc.toNat
          ∧ s'.home.readN (at' + 16) 8 = e.dseq % 2 ^ 64 ∧ s'.home.readN (at' + 24) 8 = s.pseq % 2 ^ 64
          ∧ s'.home.readN (at' + 32) 8 = e.acc % 2 ^ 64 ∧ s'.home.readN (at' + 40) 8 = e.cix % 2 ^ 64
          ∧ s'.home.readN (at' + 48) 8 = 0 ∧ s'.home.readN (at' + 56) 8 = 0
          ∧ ∀ a, a < at' ∨ at' + 64 ≤ a → s'.home.get a = s.home.get a))
    ∧ (∀ (rcd : List Word) (rest : List (List Word)), x.fqPend = rcd :: rest →
      let full := (x.fqwr - BitVec.ofNat 32 (s.home.readN (ctxDesc s x.id + 44) 4)).toNat = x.fqlen
      (full → exec (.faultQueueWrite x.id) s = .next s)
      ∧ (¬ full → x.fqlen ≠ 0 → exec (.faultQueueWrite x.id) s = .next (raiseContext
          (modCtx (deviceWrite (deviceWrite s (x.fqbase + 64 * (x.fqwr.toNat % x.fqlen)) 64 (ofBytes (rcd.flatMap (fun w => leBytes 8 w.toNat))))
            (ctxDesc s x.id + 40) 4 (x.fqwr.toNat + 1)) x.id (fun y => { y with fqPend := rest, fqwr := y.fqwr + 1 })) x.id)))
    ∧ (∀ (die : Nat) (c : Nat × Nat × Nat), firstStanding s die = some c → (die, c) ∉ s.placerHold →
      exec (.placerHold die) s = .next { s with placerHold := (die, c) :: s.placerHold })
    ∧ (∀ acc, (∃ g ∈ x.grids, g.acc = acc) ∨ (∃ l ∈ x.launches, l.acc = acc) →
      (x.wdog ≠ 0 → exec (.watchdog x.id acc) s
        = .next (queueFault s x.id ([0x20, 0, 0, 0, 0, acc, 0, x.id].map (BitVec.ofNat 64))))
      ∧ (x.wdog = 0 → exec (.watchdog x.id acc) s = .next s))

/-! ## The driver's commands -/

/-- R357 to R362 and R367: CONTEXT_CREATE makes a context live from a valid descriptor, with the format presets, empty
windows and no launches, unless the package needs a reset (R446); CONTEXT_DESTROY leaves nothing of it and its queues at rest; an action makes the stopped
group it names go on at I, go on after I or end, or destroys the context (that of a grid which a watchdog's entry names,
too: log 34); a shootdown discards the kept translations and the fetched code of the range with which it started and lets
what is parked there replay, while a group with a thread that took another fault stays stopped; a region commit takes the table when no context is live and the
dies hold equally many whole-die regions. Each command's status says how it ended. Logs 11, 16 and 30 name the model's
choices; of the bytes of a changed region nothing is claimed. (No restored cluster waits to be placed.) -/
def Obligations.ContextCommands : Prop :=
  ∀ (s : State) (word : Word),
    let W := word.toNat
    let id := bits W 15 0
    let status (s' : State) (off hi lo st : Nat) : Prop := bits (ctlGet s' off) hi lo = st
    let at' := ctxDesc s id
    let D := s.home.readN at' 256
    let ok := s.shut = false ∧ ctx? s id = none ∧ id < bits (ctlGet s 0x400008) 16 0 ∧ at' + 256 ≤ 2 ^ 40 ∧ poisoned s at' 256 = false
      ∧ bit D 63 = true ∧ bits D 7 0 ≠ 0 ∧ bits D 61 56 = 0 ∧ bits D 11 8 = 0 ∧ bits D 127 120 = 0 ∧ bits D 255 248 = 0
      ∧ bits D 319 288 = 0 ∧ bits D 447 440 = 0 ∧ bits D 511 480 = 0 ∧ bits D 2047 576 = 0
      ∧ (∀ n ∈ [bits D 287 256, bits D 479 448], ∃ k, n = 2 ^ k ∧ 4 ≤ k ∧ k ≤ 20) ∧ bits D 255 192 % 64 = 0 ∧ bits D 447 384 % 32 = 0
    let ended (s' : State) (id : Nat) : Prop :=
      ctx? s' id = none ∧ (∀ k, k ≠ id → (ctx? s' k).isSome = (ctx? s k).isSome)
      ∧ (∀ t ∈ s'.teams, t.ctx = id → ∃ q, t.role = .queue q)
      ∧ (∀ r ∈ s'.queues, r.ctx.toNat = id → r.state = 0 ∧ r.run = false)
      ∧ (∀ k ∈ s'.kept, k.ctx ≠ id) ∧ (∀ k ∈ s'.copies, k.writer.ctx ≠ id) ∧ (∀ r ∈ s'.launchQ, r.ctx ≠ id)
    (ok → ∃ s' y, exec (.contextCreate word) s = .next s' ∧ s'.ctxs = s.ctxs ++ [y] ∧ { s' with ctxs := s.ctxs, regs := s.regs } = s
      ∧ status s' 0x400010 30 28 0
      ∧ y.id = id ∧ y.det = bit D 62 ∧ y.ptroot = bits D 55 12 * 4096 ∧ y.part.toNat = bits D 7 0 ∧ y.cotbase = bits D 119 64
      ∧ y.cotn = bits D 159 128 ∧ y.wdog = bits D 191 160 ∧ y.fqbase = bits D 247 192 ∧ y.fqlen = bits D 287 256
      ∧ y.fqwr.toNat = bits D 351 320 ∧ y.elbase = bits D 439 384 ∧ y.ellen = bits D 479 448 ∧ y.elwr.toNat = bits D 543 512
      ∧ y.fd = fdPresets ∧ y.wd = List.replicate 16 0 ∧ y.srk = 0 ∧ y.srw = 0 ∧ y.thand = 0 ∧ y.nextAcc = 0 ∧ y.launches = [] ∧ y.grids = [])
    ∧ (¬ ok → ∃ s', exec (.contextCreate word) s = .next s' ∧ { s' with regs := s.regs } = s ∧ status s' 0x400010 30 28 2)
    ∧ ((ctx? s id).isSome → ∃ s', exec (.contextDestroy word) s = .next s' ∧ ended s' id ∧ status s' 0x400010 30 28 0)
    ∧ (ctx? s id = none → ∃ s', exec (.contextDestroy word) s = .next s' ∧ { s' with regs := s.regs } = s ∧ status s' 0x400010 30 28 2)
    ∧ (let a := actionId s W
      let named (act : Nat) : State := ctlSet s 0x4008C0 (setBits (setBits (ctlGet s 0x4008C0) 24 0 (bits W 24 0)) 30 28 act)
      waitingTeams s = [] →
      (∀ (w : Where) (T : Team) (G : Group) (x : Ctx), actionGroups s a = [w] → team? s w.uid = some T → grp? T w.group = some G →
        ctxOf s T = some x → T.role = .compute → 256 ≤ w.uid →
        (∃ s' G', exec (.actionReplay word) s = .next s' ∧ group? s' w = some G' ∧ G'.stopped = false ∧ G'.parked = none
          ∧ (∀ (l : Nat), G'.threads[l]? = (G.threads[l]?).map (fun (th : Thread) =>
            if th.status = .faulted then { th with status := .running, parked := false } else th))
          ∧ s'.home = s.home ∧ status s' 0x4008C0 62 61 0)
        ∧ (∀ (l : Nat) (th : Thread), G.threads[l]? = some th → th.status = .faulted →
          (∀ m u, G.threads[m]? = some u → u.status = .faulted → m = l) →
          (∃ s' G', exec (.actionSkip word) s = .next s' ∧ group? s' w = some G' ∧ G'.stopped = false ∧ G'.parked = none
            ∧ G'.threads[l]? = some { th with pc := BitVec.ofNat 64 (afterInstr (named 1) T x th.pc.toNat), status := .running, parked := false }
            ∧ (∀ m, m ≠ l → G'.threads[m]? = G.threads[m]?) ∧ s'.home = s.home ∧ status s' 0x4008C0 62 61 0)
          ∧ ((∀ (m : Nat) (u : Thread), G.threads[m]? = some u → (∀ a b d e, u.status ≠ .heldLane a b d e ∧ u.status ≠ .heldWindow a b d e)) →
            ∃ s' G' th', exec (.actionEnd word) s = .next s' ∧ group? s' w = some G' ∧ G'.stopped = false
              ∧ G'.threads[l]? = some th' ∧ th'.status = .ended ∧ s'.home = s.home ∧ status s' 0x4008C0 62 61 0))
        ∧ ∃ s', exec (.actionDestroy word) s = .next s' ∧ ended s' a.ctx ∧ status s' 0x4008C0 62 61 0)
      ∧ (actionGroups s a = [] →
        (∀ row ∈ ([(Instr.actionSkip word, 1), (.actionEnd word, 2)] : List (Instr × Nat)),
          exec row.1 s = .next (setActionStatus (named row.2) 2))
        ∧ (watchdogNamed s a = false → exec (.actionDestroy word) s = .next (setActionStatus (named 3) 2))
        ∧ (watchdogNamed s a = true → ∃ s', exec (.actionDestroy word) s = .next s' ∧ ended s' a.ctx ∧ status s' 0x4008C0 62 61 0)))
    ∧ (let lg := bits W 7 0
      let va := bits (ctlGet s 0x400800) 55 12 * 4096
      (shootStatus s = 1 → exec (.shootdown word) s = .next s)
      ∧ (shootStatus s ≠ 1 → ∃ s', exec (.shootdown word) s = .next s' ∧ { s' with regs := s.regs, shootdown := s.shootdown } = s
        ∧ (let ok := 12 ≤ lg ∧ lg ≤ 56 ∧ va % 2 ^ lg = 0
          status s' 0x400808 62 61 (if ok then 1 else 2) ∧ s'.shootdown = (if ok then some (bits W 47 32, va, 2 ^ lg) else s.shootdown))
        ∧ status s' 0x400808 47 32 (bits W 47 32) ∧ status s' 0x400808 7 0 lg))
    ∧ (s.shootdown = none → exec .shootdownComplete s = .next s)
    ∧ (∀ ctx va n, s.shootdown = some (ctx, va, n) → waitingTeams s = [] →
      let covered (a : Nat) : Prop := va ≤ a ∧ a < va + n
      ∃ s', exec .shootdownComplete s = .next s' ∧ status s' 0x400808 62 61 0 ∧ s'.home = s.home ∧ s'.shootdown = none
        ∧ (∀ k, k ∈ s'.kept ↔ k ∈ s.kept ∧ ¬ (k.ctx = ctx ∧ k.va < va + n ∧ va < k.va + k.size))
        ∧ (∀ c ∈ s'.cores, ∀ i ∈ c.icache, ¬ (i.ctx = ctx ∧ 16 * i.va < va + n ∧ va < 16 * i.va + 16))
        ∧ (∀ (T : Team) (G : Group) (x : Ctx) (p : Nat), team? s T.uid = some T → grp? T G.idx = some G → ctxOf s T = some x →
          x.id = ctx → T.lost = false → G.parked = some p → (covered p ∨ ∃ q ∈ G.also, covered q) →
          ∃ G', group? s' { uid := T.uid, group := G.idx } = some G' ∧ G'.parked = none
            ∧ (G'.stopped = true ↔ ∃ (l : Nat) (th : Thread), G.threads[l]? = some th ∧ th.status = .faulted ∧ th.parked = false)
            ∧ ∀ (l : Nat), G'.threads[l]? = (G.threads[l]?).map (fun (th : Thread) =>
              if th.status = .faulted ∧ th.parked = true then { th with status := .running, parked := false } else th)))
    ∧ (let es := (List.range 1024).map (regionByte s)
      let whole (die : Nat) : Nat := (es.filter (fun e => e % 4 == 2 && e / 4 % 8 == die)).length
      let even := ∀ d, d < 8 → whole d = whole 0
      (s.ctxs ≠ [] ∨ ¬ even → ∃ s', exec (.regionCommit word) s = .next s' ∧ { s' with regs := s.regs } = s
        ∧ s'.regs.regions = s.regs.regions ∧ status s' 0x400400 2 1 2)
      ∧ (s.ctxs = [] → even → (∀ c ∈ s.cores, c.dirty = []) → s.home.wf = true → ∃ s', exec (.regionCommit word) s = .next s'
        ∧ status s' 0x400400 2 1 0 ∧ (∀ r, r < 1024 → regionOld s' r = regionByte s r)
        ∧ ∀ a, (1024 ≤ a / 2 ^ 30 ∨ regionKind (regionOld s (a / 2 ^ 30)) = regionKind (regionByte s (a / 2 ^ 30))) →
            s'.home.get a = s.home.get a))

/-- R332, R333, R337, R344, R345 and R352: QUEUE_RUN starts a stopped or exited queue at its pc with a fresh view of
memory and code, or faults it where its context is not live; QUEUE_STOP leaves the pc in the record; QUEUE_FAULT_CLEAR
clears flt and leaves state 4; a membership write starts the barrier afresh, and an arrival that has not been waited on is
void; SITE_SWAP exchanges two free logical
sites and records it. Log 28 names what is inferred of queue records. -/
def Obligations.QueueAndSiteCommands : Prop :=
  (∀ (s : State) (q : Nat), q < 256 →
    let r := queueRec s q
    let becomes (i : Instr) (r' : QueueRec) (k : State → Prop) : Prop :=
      ∃ s', exec i s = .next s' ∧ queueRec s' q = r' ∧ (∀ p, p ≠ q → queueRec s' p = queueRec s p) ∧ s'.home = s.home ∧ k s'
    (∀ x, r.state = 0 ∨ r.state = 5 → r.flt = false → ctx? s r.ctx.toNat = some x →
      (∀ T, team? s q = some T → ∃ G th, grp? T 0 = some G ∧ G.threads[0]? = some th) →
      becomes (.queueRun q) { r with state := 1, run := true } (fun s' =>
        (∃ th, thread? s' (queueWhere q) 0 = some th ∧ th.pc = BitVec.ofNat 64 r.pc.toNat
          ∧ (th.status = .running ∨ ∃ n, th.status = .waiting (.barrier n)))
        ∧ (∀ e ∈ (core s' (8 + q / 128) (q / 8 % 16)).clean, e = homeLine s' e.line)
        ∧ ∀ k ∈ (core s' (8 + q / 128) (q / 8 % 16)).icache, k.ctx ≠ x.id))
    ∧ (r.state = 0 ∨ r.state = 5 → r.flt = false → ctx? s r.ctx.toNat = none →
      becomes (.queueRun q) { r with state := 4, flt := true, run := false, fcode := 2, fpc := r.pc } (fun s' =>
        ∃ e, s'.evQ = s.evQ ++ [e] ∧ e.die = 8 + q / 128 ∧ e.kind = 5 ∧ e.ctx = r.ctx.toNat ∧ e.info = q + 2 * 2 ^ 8))
    ∧ ((r.state ≠ 0 ∧ r.state ≠ 5) ∨ r.flt = true → becomes (.queueRun q) { r with run := true } (fun s' => s'.teams = s.teams))
    ∧ (r.state = 1 ∨ r.state = 2 ∨ r.state = 3 →
      becomes (.queueStop q) { r with state := 0, run := false, pc := BitVec.ofNat 56 (queuePc s q) } (fun _ => True))
    ∧ (¬ (r.state = 1 ∨ r.state = 2 ∨ r.state = 3) → becomes (.queueStop q) { r with run := false } (fun s' => s'.teams = s.teams))
    ∧ becomes (.queueFaultClear q) { r with flt := false, state := if r.state = 4 then 0 else r.state } (fun s' => s'.teams = s.teams))
  ∧ (∀ (s : State) (k n : Nat) (v : Byte), k < 32 → n < 16 → ∃ s', exec (.headlandMembershipWrite k n v) s = .next s'
    ∧ headlandMembers s' k n = v.toNat
    ∧ (∀ j m, j < 32 → m < 16 → (j, m) ≠ (k, n) → headlandMembers s' j m = headlandMembers s j m ∧ hlBarrier s' j m = hlBarrier s j m)
    ∧ hlBarrier s' k n = { hlBarrier s k n with count := 0, flags := 0, result := 0 }
    ∧ (∀ q T G th, q / 8 = k → team? s q = some T → T.role = .queue q → grp? T 0 = some G → G.threads[0]? = some th →
      thread? s' (queueWhere q) 0 = some (if th.status = .waiting (.barrier n) ∨ bit th.arr.toNat n = false then th
        else { th with arr := BitVec.ofNat 28 (setBits th.arr.toNat n n 0), voided := BitVec.ofNat 28 (setBits th.voided.toNat n n 1) }))
    ∧ s'.home = s.home)
  ∧ (∀ (s : State) (die : Nat) (word : Word), die < 8 →
    let a := bits word.toNat 7 0
    let b := bits word.toNat 15 8
    let st (s' : State) : Nat := bits (ctlGet s' (0x200000 + 0x1000 * die + 0x200)) 31 30
    let free := residents s die a = [] ∧ residents s die b = []
    (168 ≤ a ∨ 168 ≤ b ∨ a = b → ∃ s', exec (.siteSwap die word) s = .next s' ∧ st s' = 2 ∧ { s' with regs := s.regs } = s
      ∧ s'.regs.phys = s.regs.phys)
    ∧ (a < 168 → b < 168 → a ≠ b → ¬ free → ∃ s', exec (.siteSwap die word) s = .next s' ∧ st s' = 1 ∧ { s' with regs := s.regs } = s
      ∧ s'.regs.phys = s.regs.phys)
    ∧ (a < 168 → b < 168 → a ≠ b → free → ∃ s', exec (.siteSwap die word) s = .next s' ∧ st s' = 0
      ∧ (∀ d l, physOf s' d l = if d = die ∧ l = a then physOf s die b else if d = die ∧ l = b then physOf s die a else physOf s d l)
      ∧ ∃ e, s'.evQ = s.evQ ++ [e] ∧ e.die = die ∧ e.kind = 6 ∧ e.info = a + b * 2 ^ 8))

/-- R382 to R387, R394 to R396 and R441 to R444: PATCH_LOAD takes the image in the mailbox when R385's checks pass,
and its number of slots is enabled; PATCH_UNLOAD and PATCH_SET_ENABLES change the configuration, which each core takes
by PATCH_SWITCH, and the command ends with the last; firmware is staged, then activated (a PCIe PHY's waits for its
port's link reset); the owner key changes only under a status of 0, and the nonce after every command; emulation code
starts with its request area and nothing of an earlier request, and gives its result to the threads that wait, or fails; a
measurement answers over SPDM with its signature. Log 31 names what is inferred; the nonce is free (log 7), and log 12 names
the model's choices on measurements: one image for targets 0 and 1, the images of a target in the order of its units, those
that a package is made with, and the signature. -/
def Obligations.SecureControllerCommands : Prop :=
  (∀ (s : State) (word : Word),
    let W := word.toNat
    let bs := mailboxImage s
    let all (s' : State) : Prop := ∀ c ∈ s'.cores, c.die < 8 → c.patchGen = s'.patchGen
    let pst (s' : State) : Nat := bits (ctlGet s' 0x500000) 30 27
    let kept (s' : State) : Prop := { s' with regs := s.regs } = s ∧ s'.regs.patchEn = s.regs.patchEn ∧ s'.regs.floors = s.regs.floors
    let takes (i : Instr) (image : Option Patch) (en : Nat) : Prop := ∃ s', exec i s = .next s' ∧ s'.patch = image
      ∧ s'.patchGen = s.patchGen + 1 ∧ s'.regs.patchEn = BitVec.ofNat 16 en ∧ s'.cores = s.cores ∧ s'.home = s.home
      ∧ (all s' → pst s' = 0) ∧ (¬ all s' → pst s' = 1)
    (patchStatus s = 1 → ∀ i ∈ ([Instr.patchLoad word, .patchUnload word, .patchSetEnables word] : List Instr),
      ∃ s', exec i s = .next s' ∧ kept s' ∧ pst s' = 1)
    ∧ (patchStatus s ≠ 1 →
      (imageStatus s bs 1 ≠ 0 → ∃ s', exec (.patchLoad word) s = .next s' ∧ kept s' ∧ pst s' = imageStatus s bs 1)
      ∧ (imageStatus s bs 1 = 0 → takes (.patchLoad word) (some (patchOf bs)) (ones (imgHdr bs).nslot)
        ∧ ∀ s', exec (.patchLoad word) s = .next s' → ∀ id, floorOf s' id =
            if (imgHdr bs).rfl' ∧ id = (imgHdr bs).id then (imgHdr bs).ver else floorOf s id)
      ∧ takes (.patchUnload word) none 0
      ∧ (s.patch = none → ∃ s', exec (.patchSetEnables word) s = .next s' ∧ kept s' ∧ pst s' = 7)
      ∧ (∀ p, s.patch = some p → takes (.patchSetEnables word) (some p) (bits W 47 32 &&& ones p.slots.length)))
    ∧ (let fst (s' : State) : Nat := bits (ctlGet s' 0x500100) 30 27
      let target := bits W 39 36
      let unit := bits W 47 40
      let same (s' : State) : Prop := { s' with regs := s.regs } = s ∧ s'.regs.floors = s.regs.floors
      let img := mailboxImage s
      (unitCount target ≤ unit → ∀ i ∈ ([Instr.firmwareStage word, .firmwareActivate word] : List Instr),
        ∃ s', exec i s = .next s' ∧ same s' ∧ fst s' = 7)
      ∧ (unit < unitCount target →
        (imageStatus s img 2 ≠ 0 → ∃ s', exec (.firmwareStage word) s = .next s' ∧ same s' ∧ fst s' = imageStatus s img 2)
        ∧ (imageStatus s img 2 = 0 → ∃ s', exec (.firmwareStage word) s = .next s' ∧ fst s' = 0
          ∧ s'.staged = some { target := target, unit := unit, image := img } ∧ s'.firmware = s.firmware ∧ s'.home = s.home)
        ∧ (∀ k, s.staged = some k → k.target = target → k.unit = unit → unitBusy s target unit = false →
          ∃ s', exec (.firmwareActivate word) s = .next s' ∧ fst s' = 0 ∧ s'.staged = none
            ∧ s'.firmware = (if target = 4 then s.firmware
                else if target < 2 then { k with unit := 0 } :: s.firmware.filter (fun g => !(g.target == target && g.unit == 0))
                else k :: s.firmware.filter (fun g => !(g.target == target && g.unit == unit)))
            ∧ s'.portFirmware = (if target = 4 then k :: s.portFirmware.filter (fun g => !(g.target == 4 && g.unit == unit))
                else s.portFirmware) ∧ s'.home = s.home)
        ∧ (s.staged = none ∨ (∃ k, s.staged = some k ∧ (k.target ≠ target ∨ k.unit ≠ unit)) ∨ unitBusy s target unit = true →
          ∃ s', exec (.firmwareActivate word) s = .next s' ∧ same s' ∧ fst s' = 7)))
    ∧ (∀ row ∈ ([(Instr.ownerKeySet word, 0, keyRegs s), (.ownerKeyClear word, 1, List.replicate 64 0)] : List (Instr × Nat × List Byte)),
      let st := ownerStatus s row.2.1 row.2.2
      ∃ s', exec row.1 s = .next s' ∧ bits (ctlGet s' 0x500240) 30 28 = st ∧ s'.regs.nonce ≠ s.regs.nonce
        ∧ s'.regs.ownerKey = (if st = 0 then (if row.2.1 = 0 then some row.2.2 else none) else s.regs.ownerKey)
        ∧ { s' with regs := s.regs, fresh := s.fresh } = s))
  ∧ (∀ (s : State) (n : Nat), ∃ s', exec (.patchSwitch n) s = .next s'
    ∧ s'.cores = s.cores.map (fun c => if c.die = n / 168 ∧ c.site = n % 168 ∧ c.die < 8 then { c with patchGen := s.patchGen } else c)
    ∧ s'.patch = s.patch ∧ s'.patchGen = s.patchGen ∧ s'.home = s.home
    ∧ (patchStatus s = 1 → patchStatus s' = if ∀ c ∈ s'.cores, c.die < 8 → c.patchGen = s.patchGen then 0 else 1))
  ∧ (∀ (s : State) (iod : Nat) (r : EmuReq),
    ((∀ q ∈ s.emuQ, q.iod = iod → q.running = false) → s.emuQ.find? (fun q => q.iod == iod) = some r →
      ∃ s' T th, exec (.emulationStart iod) s = .next s' ∧ team? s' (emuUid iod) = some T ∧ T.role = .patch iod
        ∧ thread? s' { uid := emuUid iod, group := 0 } 0 = some th ∧ th.pc = BitVec.ofNat 64 r.entry ∧ th.status = .running
        ∧ T.lmem.readN 0 8 = r.d % 2 ^ 64 ∧ T.lmem.readN 8 4 = r.lit % 2 ^ 32 ∧ T.lmem.readN 12 4 = laneMask r.lanes % 2 ^ 32
        ∧ T.lmem.readN 16 8 = r.pc % 2 ^ 64 ∧ T.lmem.readN 24 2 = r.ctx % 2 ^ 16 ∧ T.lmem.readN 26 2 = r.pid % 2 ^ 16
        ∧ (iod < 2 → (∀ q ∈ s'.outReqs, q.w.uid ≠ emuUid iod) ∧ (∀ i ∈ s'.syncQ, i.w.uid ≠ emuUid iod) ∧ ∀ k ∈ s'.copies, k.w.uid ≠ emuUid iod)
        ∧ s'.home = s.home)
    ∧ (r.running = true → s.emuQ.find? (fun q => q.iod == iod && q.running) = some r →
      let s0 := { s with emuQ := s.emuQ.filter (fun q => !(q.iod == iod && q.running)) }
      exec (.emulationTimeout iod) s = .next (settle (deliver
        (detachEmu { s0 with teams := s.teams.filter (fun t => t.role != .patch iod) } iod) (emuCur r) r.lanes { code := .illegalInstruction }))
      ∧ (∀ T, team? s (emuUid iod) = some T →
        let s1 := { s0 with teams := s.teams.filter (fun u => u.uid != emuUid iod) }
        let how := T.lmem.readN 0x600 1
        (teamEnded T = false → exec (.emulationResult iod) s = .next s)
        ∧ (teamEnded T = true → how ≠ 0 → exec (.emulationResult iod) s = .next (settle (deliver (detachEmu s1 iod) (emuCur r) r.lanes
            { code := if how = 1 then (faultOfNum (T.lmem.readN 0x601 1)).getD .illegalInstruction else .illegalInstruction })))
        ∧ (∀ U G l th, teamEnded T = true → how = 0 → r.lanes = [l] → l < 32 → r.w.uid ≠ emuUid iod → team? s r.w.uid = some U →
          grp? U r.w.group = some G → G.threads[l]? = some th → U.lmem.wf = true → U.kern.f = r.f →
          let flags := T.lmem.readN 0x600 4
          let n := bits r.d 26 19
          ∃ s' U' G' th', exec (.emulationResult iod) s = .next s' ∧ team? s' r.w.uid = some U' ∧ grp? U' r.w.group = some G'
            ∧ G'.threads[l]? = some th' ∧ th'.pc = BitVec.ofNat 64 r.next ∧ th'.status = .running
            ∧ (bit flags 17 = false → th'.p = th.p)
            ∧ (bit flags 16 = true → n < r.f → readV U' G' l n = T.lmem.readN (0x700 + 16 * l) 8)
            ∧ (∀ m, m < r.f → (m ≠ n ∨ bit flags 16 = false) → readV U' G' l m = readV U G l m)
            ∧ s'.home = s.home))))
  ∧ (∀ (s : State) (index : Nat), ∃ s' a, exec (.spdmRequest index) s = .next s' ∧ s'.responses = s.responses ++ [a]
    ∧ a.port = 16 ∧ a.kind = 5 ∧ a.status = 0
    ∧ (let image (target unit : Nat) : List Byte := match s.firmware.find? (fun g => g.target == target && g.unit == unit) with
        | some g => g.image
        | none => Config.factoryImage target unit
      let signed (m : List Byte) : Prop := a.data = m ++ Config.identitySign s.fresh m
      (∀ row ∈ ([(1, 0, 1), (2, 1, 1), (3, 2, 16), (4, 3, 16), (8, 5, 10)] : List (Nat × Nat × Nat)), index = row.1 →
        signed (beBytes 32 (sha256 ((List.range row.2.2).flatMap (image row.2.1)))))
      ∧ (index = 5 → signed (match s.patch with | some p => beBytes 32 (sha256 p.bytes) | none => List.replicate 32 0))
      ∧ (index = 6 → signed (match s.regs.ownerKey with | some k => beBytes 32 (sha256 k) | none => List.replicate 32 0))
      ∧ (index = 7 → signed (beBytes 32 (sha256 (s.regs.floors.flatMap (fun f => leBytes 4 f.1 ++ leBytes 2 f.2))))))
    ∧ { s' with responses := s.responses, fresh := s.fresh } = s)

/-! ## The links -/

/-- R349, R406, R408, R409, R418, R439, R440, R445 and R446: package reset leaves the reset state but for what the
links and the secure controller keep; port modes and the PCIe PHY images that a link reset puts in force, the token
pool, ports, lane counts, the temperature peak, HBM repair and the governor's cap; a register write stores the bits
that software may write, once the port's earlier writes are performed (`q`). A die's energy and corrected errors add up over
its refreshes; a package that its governor has shut down needs a reset. Logs 2, 7, 9, 27 and 32 name the model's choices; that
registers without a Reset column read 0 after a package reset is log 6 (DESIGN CHOICE), that HBM does is log 1. -/
def Obligations.PackageRegisters : Prop :=
  ∀ s : State,
    let q := drainWrites s 0
    (∃ s', exec .packageReset s = .next s' ∧ s'.ctxs = [] ∧ s'.teams = [] ∧ s'.cores = [] ∧ s'.queues = [] ∧ s'.copies = []
      ∧ s'.patch = none ∧ s'.evQ = [] ∧ s'.kept = [] ∧ s'.poison = []
      ∧ (∀ p, ctlGet s' p = 0) ∧ poolSize s' = 1280 ∧ (∀ d l, physOf s' d l = l)
      ∧ s'.regs.floors = s.regs.floors ∧ s'.regs.ownerKey = s.regs.ownerKey ∧ s'.shut = false ∧ s'.portFirmware = []
      ∧ (∀ t u, s'.firmware.find? (fun g => g.target == t && g.unit == u)
        = (s.portFirmware.reverse ++ s.firmware).find? (fun g => g.target == t && g.unit == u))
      ∧ (s.home.wf = true → ∀ a, s'.home.get a = if a < 2 ^ 40 then 0 else s.home.get a))
    ∧ (∀ port, ∃ s', exec (.linkReset port) s = .next s'
      ∧ { s' with regs := s.regs, firmware := s.firmware, portFirmware := s.portFirmware } = s
      ∧ (∀ m, port = 1 → s.regs.io1pending = some m → s'.regs = { s.regs with io1mode := m, io1pending := none })
      ∧ (port ≠ 1 ∨ s.regs.io1pending = none → s'.regs = s.regs)
      ∧ (∀ f, s.portFirmware.find? (fun f => f.unit == port) = some f →
        s'.firmware = f :: s.firmware.filter (fun g => !(g.target == f.target && g.unit == f.unit))
        ∧ s'.portFirmware = s.portFirmware.filter (fun f => f.unit != port))
      ∧ ((∀ f ∈ s.portFirmware, f.unit ≠ port) → s'.firmware = s.firmware ∧ s'.portFirmware = s.portFirmware))
    ∧ (∀ v : Word,
      let m := if v.toNat % 4 = 3 then 0 else v.toNat % 4
      ∃ s', exec (.io1ModeWrite v) s = .next s' ∧ { s' with regs := s.regs } = s
        ∧ (m = 0 ∨ s.regs.io1mode = 0 → s'.regs = { s.regs with io1mode := m, io1pending := none })
        ∧ (m ≠ 0 → s.regs.io1mode ≠ 0 → s'.regs = { s.regs with io1pending := if m = s.regs.io1mode then none else some m }))
    ∧ (∀ v : Word, ∃ s', exec (.poolWrite v) s = .next s' ∧ s'.regs.pool = max 320 (min 2560 (v.toNat % 4096))
      ∧ { s' with regs := s.regs, evQ := s.evQ, dseq := s.dseq } = s
      ∧ (poolSize s' = poolSize s → s'.evQ = s.evQ)
      ∧ (poolSize s' ≠ poolSize s → ∃ e, s'.evQ = s.evQ ++ [e] ∧ e.die = 8 ∧ e.kind = 7 ∧ e.info = poolSize s'))
    ∧ (∀ (die : Nat) (t : Telemetry), die < 10 → ∃ s', exec (.telemetryRefresh die t) s = .next s'
      ∧ telemetryOf s' die = { t with
          energy := (telemetryOf s die).energy + t.energy
          csram := BitVec.ofNat 32 (min (2 ^ 32 - 1) ((telemetryOf s die).csram.toNat
            + ((s.csram.find? (fun c => c.1 == die)).map (·.2)).getD 0 + t.csram.toNat)) }
      ∧ (∀ c ∈ s'.csram, c.1 ≠ die) ∧ tpeakOf s' die = max (tpeakOf s die) t.temp.toNat
      ∧ (∀ d, d ≠ die → telemetryOf s' d = telemetryOf s d ∧ tpeakOf s' d = tpeakOf s d)
      ∧ (let hot (n : Nat) : Prop := ∃ p ∈ s'.telemetry, n ≤ p.2.temp.toNat
        let inlet := bits t.package.toNat 15 0
        let flow := bits t.package.toNat 47 32
        (hot 1840 → s'.ctxs = [] ∧ s'.shut = true)
        ∧ (¬ hot 1840 → s'.shut = s.shut ∧ s'.regs.cap = (if hot 1680 then 320 else if 512 < inlet ∨ flow < 750 then 1280 else 2560)
          ∧ s'.ctxs = s.ctxs ∧ s'.home = s.home
          ∧ (poolSize s' ≠ poolSize s → ∃ e, s'.evQ = s.evQ ++ [e] ∧ e.die = 8 ∧ e.kind = 7 ∧ e.info = poolSize s'))))
    ∧ (∀ die, die < 10 → ∃ s' a, exec (.tpeakRead die) s = .next s' ∧ s'.responses = q.responses ++ [a]
      ∧ a.data = leBytes 8 ((telemetryOf q die).temp.toNat + tpeakOf q die * 2 ^ 16 + (telemetryOf q die).power.toNat * 2 ^ 32)
      ∧ tpeakOf s' die = (telemetryOf q die).temp.toNat ∧ { s' with responses := q.responses, tpeak := q.tpeak } = q)
    ∧ (∀ die, die < 10 →
      let off := 0x800018 + 0x100 * die
      ∃ s', exec (.laneFailure die) s = .next s' ∧ { s' with regs := s.regs } = s
        ∧ bits (ctlGet s' off) 63 32 = (bits (ctlGet s off) 63 32 + 1) % 2 ^ 32 ∧ (∀ o, o ≠ off → ctlGet s' o = ctlGet s o))
    ∧ (∀ word : Word,
      let st (s' : State) : Nat := bits (ctlGet s' 0x400C00) 62 61
      (st s = 1 → exec (.hbmRepair word) s = .next s)
      ∧ (st s ≠ 1 → ∃ s', exec (.hbmRepair word) s = .next s' ∧ { s' with regs := s.regs, fresh := s.fresh } = s
        ∧ (word.toNat % 4 = 3 ∨ 2 ^ 40 ≤ ctlGet s 0x400C08 → st s' = 3)
        ∧ (word.toNat % 4 ≠ 3 → ctlGet s 0x400C08 < 2 ^ 40 → st s' = 1 ∨ st s' = 2))
      ∧ (st s ≠ 1 → exec .hbmRepairComplete s = .next s)
      ∧ (st s = 1 → ∃ s', exec .hbmRepairComplete s = .next s' ∧ st s' = 0 ∧ { s' with regs := s.regs } = s))
    ∧ (∀ p, exec (.ualinkPortDown p) s = .next
        { s with regs := { s.regs with ports := s.regs.ports.modify p (fun q => { q with trained := false, up := false }) } }
      ∧ exec (.ualinkPortUp p) s = .next
        { s with regs := { s.regs with ports := s.regs.ports.modify p (fun q => { q with trained := true, up := !q.dis }) } })
    ∧ (∀ (off len : Nat) (v : Word),
      ((len ≠ 4 ∧ len ≠ 8) ∨ off % len ≠ 0 ∨ 2 ^ 24 < off + len → exec (.registerWrite off len v) s = .next q)
      ∧ (off ∈ [0x300020, 0x400000, 0x400008, 0x400800, 0x400848, 0x400850, 0x400888, 0x4008C8, 0x4008D0, 0x400900, 0x400C08] →
        ∃ s', exec (.registerWrite off 8 v) s = .next s' ∧ { s' with regs := q.regs } = q
          ∧ (∀ k, k < 64 → bit (ctlGet s' off) k = if bit (storedBits off) k then bit v.toNat k else bit (ctlGet q off) k)
          ∧ ∀ o, o ≠ off → ctlGet s' o = ctlGet q o)
      ∧ (∀ k n, k < 32 → n < 16 → n % 8 = 0 →
        exec (.registerWrite (0x110000 + 16 * k + n) 4 v) s = .next ((List.range 4).foldl (fun s i =>
          membershipWrite s k (n + i) (bits v.toNat (8 * i + 7) (8 * i))) q))
      ∧ (∀ g ∈ ([(0x400010, 31), (0x400808, 63), (0x400840, 33), (0x400880, 47), (0x4008C0, 63), (0x500000, 31), (0x500100, 31), (0x500240, 31)] :
          List (Nat × Nat)), bit v.toNat g.2 = true → bit (ctlGet q g.1) g.2 = false →
        exec (.registerWrite g.1 8 v) s = .next
          (startCommand (ctlSet q g.1 (mergeBits (ctlGet q g.1) v.toNat (storedBits g.1))) g.1 v.toNat)))
    ∧ q.regs = s.regs ∧ ∀ p ∈ q.pieces, p.port = 0 → p.kind ≠ .write

/-- R91, R404 to R407, R409, R412 to R417 and R420: a request of a PCIe port stands at the port's die as pieces, each
within one granule and of at most 512 bytes and at its home, that cover its bytes in ascending order; one out of range, longer
than a port carries, not supported or not admitted is counted at its port and refused, and a poisoned write is counted and
discarded. A piece is performed when the earlier writes it is ordered after are: a write's bytes at their home, a read's or
atomic's answer back, the new value of an atomic (`inboundNew`) at its home. A UALink request is performed when a window
admits it, and counted and refused otherwise. (Here no word is poisoned.) Log 32 names what is inferred. Log 36 names what is inferred of the limits. -/
def Obligations.InboundRequests : Prop :=
  ∀ (s : State) (r : InReq),
    let n (kind : InKind) : Nat := if kind = .write then r.data.length else r.len
    let arrives := r.port = 0 ∨ (r.port = 1 ∧ s.regs.io1mode ≠ 0)
    let admits (kind : InKind) : Prop := r.port = 1 → s.regs.io1mode = 2 → admitted s r.peer r.addr (n kind) (inClass kind) = true
    let counted (s' : State) : Prop := (r.port = 0 → s'.regs = { s.regs with pcieErr0 := s.regs.pcieErr0 + 1 })
      ∧ (r.port = 1 → s'.regs = { s.regs with pcieErr1 := s.regs.pcieErr1 + 1 })
    let fits (kind : InKind) : Prop := 0 < n kind ∧ r.addr + n kind ≤ 2 ^ 40 ∧ n kind ≤ if kind = .write then 512 else 4096
    (¬ arrives → exec (.inboundWrite r) s = .next s ∧ exec (.inboundRead r) s = .next s)
    ∧ (∀ row ∈ ([(Instr.inboundWrite r, .write), (.inboundRead r, .read)] : List (Instr × InKind)), arrives →
      (r.poisoned = false ∨ row.2 = .read) →
      (admits row.2 → fits row.2 → ∃ s' ps, exec row.1 s = .next s' ∧ s'.pieces = s.pieces ++ ps
        ∧ { s' with pieces := s.pieces, nextReq := s.nextReq } = s
        ∧ (∀ p ∈ ps, p.port = r.port ∧ p.kind = row.2 ∧ p.home = homeDie s p.pa ∧ 0 < p.len
          ∧ r.addr ≤ p.pa ∧ p.pa + p.len ≤ r.addr + n row.2 ∧ p.len ≤ granuleRest s p.pa ∧ p.len ≤ 512
          ∧ (row.2 = .write → p.data = (r.data.drop (p.pa - r.addr)).take p.len))
        ∧ ps.Pairwise (fun p q => p.pa + p.len ≤ q.pa)
        ∧ (∀ a, r.addr ≤ a → a < r.addr + n row.2 → ∃ p ∈ ps, p.pa ≤ a ∧ a < p.pa + p.len))
      ∧ (¬ admits row.2 ∨ ¬ fits row.2 → ∃ s', exec row.1 s = .next s' ∧ s'.pieces = s.pieces ∧ s'.home = s.home ∧ counted s'
        ∧ (row.2 = .write → s'.responses = s.responses)
        ∧ (row.2 = .read → ∃ a, s'.responses = s.responses ++ [a] ∧ a.port = 16 + r.port ∧ a.status = 1)))
    ∧ (arrives → r.poisoned = true → ∃ s', exec (.inboundWrite r) s = .next s' ∧ counted s' ∧ { s' with regs := s.regs } = s)
    ∧ (arrives → r.poisoned = false → r.kind ≠ .read → r.kind ≠ .write →
      let takes := admits r.kind ∧ (r.kind = .fetchAdd ∨ r.kind = .swap ∨ r.kind = .cas) ∧ (r.len = 4 ∨ r.len = 8) ∧ r.addr % r.len = 0
        ∧ r.addr + r.len ≤ 2 ^ 40
      (takes → ∃ s' p, exec (.inboundAtomic r) s = .next s' ∧ s'.pieces = s.pieces ++ [p] ∧ p.kind = r.kind ∧ p.pa = r.addr ∧ p.len = r.len
          ∧ p.data = r.data ∧ { s' with pieces := s.pieces, nextReq := s.nextReq } = s)
      ∧ (¬ takes → ∃ s' a, exec (.inboundAtomic r) s = .next s' ∧ counted s' ∧ s'.responses = s.responses ++ [a] ∧ a.port = 16 + r.port
          ∧ a.status = 1 ∧ { s' with responses := s.responses, regs := s.regs } = s))
    ∧ (∀ p : Piece, s.pieces.find? (fun q => q.id == p.id) = some p →
      let ready := ∀ q ∈ s.pieces, q.port = p.port → q.kind = .write →
        ¬ ((q.wr < p.wr ∧ (p.kind = .write → p.relaxed = false ∧ (p.idOrdered = true → q.requester = p.requester)))
          ∨ (p.kind = .write ∧ q.home = p.home ∧ q.id < p.id))
      let gone (s' : State) : Prop := s'.pieces = s.pieces.filter (fun q => q.id != p.id)
      (¬ ready → exec (.pieceAck p.id) s = .next s)
      ∧ (ready → p.kind = .read → s.poison = [] → ∃ s' a, exec (.pieceAck p.id) s = .next s' ∧ gone s'
        ∧ s'.responses = s.responses ++ [a] ∧ a.port = 16 + p.port ∧ a.status = 0 ∧ a.data = s.home.readList p.pa p.len ∧ s'.home = s.home)
      ∧ (ready → p.kind = .write → s.home.wf = true → s.poison = [] →
        ∃ s', exec (.pieceAck p.id) s = .next s' ∧ gone s'
        ∧ ∀ a, s'.home.get a = if p.pa ≤ a ∧ a < p.pa + p.data.length then p.data.getD (a - p.pa) 0 else s.home.get a)
      ∧ (∀ y, ready → p.len = 4 ∨ p.len = 8 → s.home.wf = true → s.poison = [] →
        inboundNew p.kind p.len (s.home.readN p.pa p.len) (ofBytes (p.data.take p.len)) (ofBytes ((p.data.drop p.len).take p.len)) = some y →
        ∃ s' a, exec (.pieceAck p.id) s = .next s' ∧ gone s' ∧ s'.responses = s.responses ++ [a] ∧ a.status = 0
        ∧ a.data = leBytes p.len (s.home.readN p.pa p.len) ∧ s'.home.readN p.pa p.len = y
        ∧ ∀ b, (b < p.pa ∨ p.pa + p.len ≤ b) → s'.home.get b = s.home.get b))
    ∧ (∀ q, s.regs.ports[r.port]? = some q →
      let ok := bit (ctlGet s 0x700000) 16 = true ∧ 0 < n r.kind ∧ r.addr % 256 + n r.kind ≤ 256 ∧ r.addr + n r.kind ≤ 2 ^ 40
        ∧ admitted s r.peer r.addr (n r.kind) (inClass r.kind) = true
      (q.up = false → exec (.ualinkInboundRequest r) s = .next s)
      ∧ (q.up = true → ok → r.kind = .read → s.poison = [] → ∃ s' a, exec (.ualinkInboundRequest r) s = .next s'
        ∧ s'.responses = s.responses ++ [a] ∧ a.port = r.port ∧ a.status = 0 ∧ a.data = s.home.readList r.addr r.len
        ∧ { s' with responses := s.responses } = s)
      ∧ (q.up = true → ok → r.kind = .write → r.poisoned = false → s.home.wf = true → s.poison = [] →
        ∃ s', exec (.ualinkInboundRequest r) s = .next s'
        ∧ ∀ a, s'.home.get a = if r.addr ≤ a ∧ a < r.addr + r.data.length then r.data.getD (a - r.addr) 0 else s.home.get a)
      ∧ (q.up = true → ok → r.poisoned = false → r.len = 4 ∨ r.len = 8 → r.addr % r.len = 0 → s.home.wf = true → s.poison = [] →
        ∀ y, inboundNew r.kind r.len (s.home.readN r.addr r.len) (ofBytes (r.data.take r.len)) (ofBytes ((r.data.drop r.len).take r.len)) = some y →
        ∃ s' a, exec (.ualinkInboundRequest r) s = .next s' ∧ s'.responses = s.responses ++ [a] ∧ a.port = r.port ∧ a.status = 0
        ∧ a.data = leBytes r.len (s.home.readN r.addr r.len) ∧ s'.home.readN r.addr r.len = y
        ∧ ∀ b, (b < r.addr ∨ r.addr + r.len ≤ b) → s'.home.get b = s.home.get b)
      ∧ (q.up = true → ¬ ok → ∃ s' a, exec (.ualinkInboundRequest r) s = .next s' ∧ s'.home = s.home
        ∧ s'.responses = s.responses ++ [a] ∧ a.port = r.port ∧ a.status = 1
        ∧ s'.regs = { s.regs with ports := s.regs.ports.modify r.port (fun q =>
          { q with nerr := if q.nerr.toNat = 2 ^ 32 - 1 then q.nerr else q.nerr + 1 }) }))

/-- R53, R370 to R376: a save refuses a context that is not live, a place out of range or no team of the context
there; with too little room it answers the bytes it needs and changes nothing else; otherwise its image stands at the
address, with the magic number, the scope, the context and its size in the header, and the teams with all that their
clusters tie to them are gone from the cores. A save that a core does not answer leaves its teams lost and stopped. A
restore refuses an image that is not one of the context; from a context image it takes the slots, windows and special
registers, their reserved bits as 0 (R9). Where a field of an image has no place in the spec, the place is the model's (log
24). -/
def Obligations.SavesAndRestores : Prop :=
  ∀ (s : State) (word : Word),
    let W := word.toNat
    let id := bits W 63 48
    let die := bits W 47 44
    let site := bits W 43 36
    let addr := ctlGet s 0x400850
    let size := ctlGet s 0x400848
    let st (s' : State) : Nat := bits (ctlGet s' 0x400840) 32 30
    let regsOnly (s' : State) : Prop := { s' with regs := s.regs } = s
    let here (t : Team) : Bool := t.role == .compute && t.ctx == id && t.die == die && t.site == site && !t.lost
    let saved (i : Instr) (scope : Nat) (x : Ctx) (ts : List Team) : Prop :=
      let s0 := storeSaveCmd s W scope
      let qs := if scope = 1 then (s.queues.filter (fun r => r.ctx.toNat == id)).map (·.q) else []
      let s1 := quiesce s0 (ts.map (·.uid) ++ qs)
      ∀ x1, ctx? s1 x.id = some x1 →
        let need := (imageOf' s1 x1 (s1.teams.filter (fun t => ts.any (fun u => u.uid == t.uid))) (scope == 1)
          (qs.map (fun q => (q, (List.range 4).map (queueWord s1 q))))).bytes.length
        (size < need → ∃ s', exec i s = .next s' ∧ regsOnly s' ∧ st s' = 2 ∧ ctlGet s' 0x400858 = need % 2 ^ 64)
        ∧ (need ≤ size → 2 ^ 40 < addr + need → ∃ s', exec i s = .next s' ∧ regsOnly s' ∧ st s' = 3)
        ∧ (need ≤ size → addr + need ≤ 2 ^ 40 → s1.home.wf = true → ∃ s', exec i s = .next s' ∧ st s' = 0
          ∧ s'.home.readN addr 4 = 0x45564153 ∧ s'.home.readN (addr + 4) 1 = scope ∧ s'.home.readN (addr + 6) 2 = id
          ∧ (need < 2 ^ 64 → s'.home.readN (addr + 8) 8 = need)
          ∧ (∀ t ∈ s'.teams, ∀ u ∈ s1.teams, ts.any (fun v => v.uid == u.uid) = true → t.uid ≠ u.uid)
          ∧ ∀ a, a < addr ∨ addr + need ≤ a → s'.home.get a = s1.home.get a)
    (ctx? s id = none → ∀ i ∈ ([Instr.saveTeams word, .saveContext word] : List Instr),
      ∃ s', exec i s = .next s' ∧ regsOnly s' ∧ st s' = 3)
    ∧ (∀ x, ctx? s id = some x →
      (8 ≤ die ∨ 168 ≤ site ∨ addr % 64 ≠ 0 ∨ (∀ t ∈ s.teams, here t = false) →
        ∃ s', exec (.saveTeams word) s = .next s' ∧ regsOnly s' ∧ st s' = 3)
      ∧ (die < 8 → site < 168 → addr % 64 = 0 → (∃ t ∈ s.teams, here t = true) →
        saved (.saveTeams word) 0 x (s.teams.filter (tied s (s.teams.filter here))))
      ∧ (addr % 64 ≠ 0 → ∃ s', exec (.saveContext word) s = .next s' ∧ regsOnly s' ∧ st s' = 3)
      ∧ (addr % 64 = 0 → saved (.saveContext word) 1 x (s.teams.filter (fun t => t.role == .compute && t.ctx == id && !t.lost))))
    ∧ (∀ d p, ∃ s', exec (.saveTimeout word d p) s = .next s' ∧ st s' = 4 ∧ s'.home = s.home
      ∧ s'.teams = s.teams.map (fun t => if t.role = .compute ∧ t.ctx = id ∧ t.die = d ∧ t.site = p then
          { t with lost := true, groups := t.groups.map (fun g => { g with stopped := true }) } else t))
    ∧ (let at' := ctlGet s 0x400888
      let h := s.home.readN at' 64
      let rst (s' : State) : Nat := bits (ctlGet s' 0x400880) 46 45
      let ok := bits h 31 0 = 0x45564153 ∧ bits h 47 33 = 0 ∧ bits h 511 256 = 0 ∧ bits h 63 48 = id ∧ (ctx? s id).isSome
        ∧ at' + bits h 127 64 ≤ 2 ^ 40 ∧ poisoned s at' 64 = false
      (¬ ok → ∃ s', exec (.restore word) s = .next s' ∧ regsOnly s' ∧ rst s' = 2)
      ∧ (ok → ∃ s' y, exec (.restore word) s = .next s' ∧ rst s' = 0 ∧ s'.home = s.home ∧ ctx? s' id = some y
        ∧ (bit h 32 = true → ∀ n, n < 16 →
          y.fd[n]? = some (BitVec.ofNat 64 (s.home.readN (at' + 64 + 8 * n) 8 % 2 ^ 50))
          ∧ (∃ d, y.wd[n]? = some d ∧ ∀ k, k < 512 → bit d.toNat k =
            (bit (s.home.readN (at' + 192 + 64 * n) 64) k && !decide ((56 ≤ k ∧ k < 64) ∨ (104 ≤ k ∧ k < 123) ∨ (384 ≤ k ∧ k < 448))))
          ∧ y.srk.toNat = s.home.readN (at' + 1216) 8 ∧ y.srw.toNat = s.home.readN (at' + 1224) 8 % 2 ^ 32
          ∧ y.thand.toNat = s.home.readN (at' + 1232) 8)))
end

