-- ==== Sys2Proof/Laws/Mem.lean ====
section
/-! SUPPORT. What the operations on memories do: reads after writes, and the canonical form, which every one of them keeps. -/
namespace Sys2Proof.Machine

/-! ## Reads -/

@[simp] theorem Mem.get_nil (x : Nat) : Mem.get [] x = memDefault := rfl

theorem Mem.get_cons (a : Nat) (b : Byte) (m : Mem) (x : Nat) :
    Mem.get ((a, b) :: m) x = if a = x then b else if x < a then memDefault else Mem.get m x := rfl

theorem Mem.above_cons {lo a : Nat} {b : Byte} {m : Mem} :
    Mem.above lo ((a, b) :: m) = true ↔ lo ≤ a ∧ b ≠ memDefault ∧ Mem.above (a + 1) m = true := by
  simp [Mem.above, and_assoc]

theorem Mem.above_mono {lo hi : Nat} {m : Mem} (h : Mem.above hi m = true) (le : lo ≤ hi) : Mem.above lo m = true := by
  cases m with
  | nil => rfl
  | cons c m => obtain ⟨a, b⟩ := c; rw [above_cons] at *; exact ⟨le.trans h.1, h.2⟩

/-- Below the first address of a canonical memory nothing is listed. -/
theorem Mem.get_of_above {lo x : Nat} {m : Mem} (h : Mem.above lo m = true) (lt : x < lo) : m.get x = memDefault := by
  cases m with
  | nil => rfl
  | cons c m =>
    obtain ⟨a, b⟩ := c
    rw [above_cons] at h
    rw [get_cons, if_neg (by omega), if_pos (by omega)]

/-! ## One byte written -/

theorem Mem.above_set {lo : Nat} {m : Mem} (x : Nat) (v : Byte) (h : Mem.above lo m = true) (le : lo ≤ x) :
    Mem.above lo (m.set x v) = true := by
  induction m generalizing lo with
  | nil => simp only [Mem.set]; split <;> simp_all [Mem.above]
  | cons c m ih =>
    obtain ⟨a, b⟩ := c
    rw [above_cons] at h
    simp only [Mem.set]
    split
    · split
      · exact above_cons.2 h
      · exact above_cons.2 ⟨le, ‹_›, above_cons.2 ⟨by omega, h.2⟩⟩
    · split
      · split
        · exact above_mono h.2.2 (by omega)
        · exact above_cons.2 ⟨by omega, ‹_›, by simpa [‹a = x›] using h.2.2⟩
      · exact above_cons.2 ⟨h.1, h.2.1, ih h.2.2 (by omega)⟩

/-- A byte written keeps the canonical form. -/
theorem Mem.wf_set {m : Mem} (x : Nat) (v : Byte) (h : m.wf = true) : (m.set x v).wf = true :=
  above_set x v h (Nat.zero_le x)

theorem Mem.get_set_above {lo : Nat} {m : Mem} (x y : Nat) (v : Byte) (h : Mem.above lo m = true) :
    (m.set x v).get y = if y = x then v else m.get y := by
  induction m generalizing lo with
  | nil => simp only [Mem.set]; split <;> simp_all [Mem.get]; grind
  | cons c m ih =>
    obtain ⟨a, b⟩ := c
    rw [above_cons] at h
    have below : ∀ z, z ≤ a → Mem.get m z = memDefault := fun z hz => get_of_above h.2.2 (by omega)
    have ih := ih h.2.2
    simp only [Mem.set]
    split
    · split
      · simp only [Mem.get]; grind
      · simp only [Mem.get]; grind
    · split
      · split
        · simp only [Mem.get]; grind
        · simp only [Mem.get]; grind
      · simp only [Mem.get]; grind

/-- The byte read after a write: the one written, or what was there before. -/
theorem Mem.get_set {m : Mem} (x y : Nat) (v : Byte) (h : m.wf = true) : (m.set x v).get y = if y = x then v else m.get y :=
  get_set_above x y v h

/-! ## Rows of bytes -/

@[simp] theorem Mem.writeList_nil (m : Mem) (x : Nat) : m.writeList x [] = m := rfl

theorem Mem.writeList_cons (m : Mem) (x : Nat) (b : Byte) (bs : List Byte) :
    m.writeList x (b :: bs) = (m.set x b).writeList (x + 1) bs := rfl

theorem Mem.wf_writeList {m : Mem} (x : Nat) (bs : List Byte) (h : m.wf = true) : (m.writeList x bs).wf = true := by
  induction bs generalizing m x with
  | nil => exact h
  | cons b bs ih => exact ih (x + 1) (wf_set x b h)

/-- The byte read after a row is written: one of the row, or what was there before. -/
theorem Mem.get_writeList {m : Mem} (x y : Nat) (bs : List Byte) (h : m.wf = true) :
    (m.writeList x bs).get y = if x ≤ y then bs.getD (y - x) (m.get y) else m.get y := by
  induction bs generalizing m x with
  | nil => simp
  | cons b bs ih =>
    rw [writeList_cons, ih (x + 1) (wf_set x b h), get_set x y b h]
    by_cases e : y = x
    · subst e; simp
    · by_cases l : x + 1 ≤ y
      · obtain ⟨k, rfl⟩ : ∃ k, y = x + 1 + k := ⟨y - (x + 1), by omega⟩
        simp [show x + 1 + k - x = k + 1 by omega, e, show x ≤ x + 1 + k by omega, List.getD_eq_getElem?_getD]
      · simp [e, l, show ¬ x ≤ y by omega]

theorem Mem.wf_writeN {m : Mem} (x n v : Nat) (h : m.wf = true) : (m.writeN x n v).wf = true := wf_writeList _ _ h

@[simp] theorem Mem.length_readList (m : Mem) (x n : Nat) : (m.readList x n).length = n := by
  induction n generalizing x with
  | zero => rfl
  | succ n ih => simp [readList, ih]

theorem Mem.readList_eq_map (m : Mem) (x n : Nat) : m.readList x n = (List.range n).map (fun i => m.get (x + i)) := by
  induction n generalizing x with
  | zero => rfl
  | succ n ih => simp [readList, ih, List.range_succ_eq_map, Nat.add_assoc, Nat.add_comm 1, Function.comp_def]

/-- Two memories that agree on a row read the same there. -/
theorem Mem.readList_congr {m m' : Mem} {x n : Nat} (h : ∀ y, x ≤ y → y < x + n → m.get y = m'.get y) :
    m.readList x n = m'.readList x n := by
  rw [readList_eq_map, readList_eq_map]
  exact List.map_congr_left fun i hi => h _ (by omega) (by have := List.mem_range.1 hi; omega)

/-! ## Cells removed -/

theorem Mem.above_filter {lo : Nat} {m : Mem} (p : Host.Cell → Bool) (h : Mem.above lo m = true) :
    Mem.above lo (m.filter p) = true := by
  induction m generalizing lo with
  | nil => rfl
  | cons c m ih =>
    obtain ⟨a, b⟩ := c
    rw [above_cons] at h
    rw [List.filter_cons]
    split
    · exact above_cons.2 ⟨h.1, h.2.1, ih h.2.2⟩
    · exact above_mono (ih h.2.2) (by omega)

/-- Cells left out keep the canonical form. -/
theorem Mem.wf_filter {m : Mem} (p : Host.Cell → Bool) (h : m.wf = true) : Mem.wf (m.filter p) = true := above_filter p h

theorem Mem.wf_clearRange {m : Mem} (x n : Nat) (h : m.wf = true) : (m.clearRange x n).wf = true := wf_filter _ h

end Sys2Proof.Machine
end

