-- ==== Sys2Proof/Laws/Bits.lean ====
section
/-! SUPPORT. Numbers and their bytes: what is read back after a number is written to a memory. -/
namespace Sys2Proof.Machine

@[simp] theorem length_leBytes (n v : Nat) : (leBytes n v).length = n := by
  induction n generalizing v with
  | zero => rfl
  | succ n ih => simp [leBytes, ih]

theorem ofBytes_leBytes (n v : Nat) : ofBytes (leBytes n v) = v % 256 ^ n := by
  induction n generalizing v with
  | zero => simp [leBytes, ofBytes, Nat.mod_one]
  | succ n ih =>
    rw [leBytes, ofBytes, ih, BitVec.toNat_ofNat, show (256 : Nat) ^ (n + 1) = 256 * 256 ^ n by ring, Nat.mod_mul]

theorem ofBytes_lt (bs : List Byte) : ofBytes bs < 256 ^ bs.length := by
  induction bs with
  | nil => simp [ofBytes]
  | cons b bs ih => have := b.isLt; simp only [ofBytes, List.length_cons, Nat.pow_succ]; omega

theorem Mem.readN_lt (m : Mem) (x n : Nat) : m.readN x n < 256 ^ n := by
  simpa [readN] using ofBytes_lt (m.readList x n)

/-- The number read where one was written. -/
theorem Mem.readN_writeN_same {m : Mem} (x n v : Nat) (h : m.wf = true) : (m.writeN x n v).readN x n = v % 256 ^ n := by
  have e : (m.writeN x n v).readList x n = leBytes n v := by
    refine List.ext_getElem (by simp) fun i h₁ h₂ => ?_
    simp only [length_leBytes] at h₂
    simp [readList_eq_map, writeN, get_writeList _ _ _ h, List.getD_eq_getElem?_getD, h₂]
  rw [readN, e, ofBytes_leBytes]

/-- A byte that a number written elsewhere leaves alone. -/
theorem Mem.get_writeN_other {m : Mem} (x n v y : Nat) (h : m.wf = true) (d : y < x ∨ x + n ≤ y) :
    (m.writeN x n v).get y = m.get y := by
  rw [writeN, get_writeList _ _ _ h]
  split
  · rw [List.getD_eq_getElem?_getD, List.getElem?_eq_none (by simp; omega), Option.getD_none]
  · rfl

/-- A number that one written elsewhere leaves alone. -/
theorem Mem.readN_writeN_other {m : Mem} (x n v y k : Nat) (h : m.wf = true) (d : y + k ≤ x ∨ x + n ≤ y) :
    (m.writeN x n v).readN y k = m.readN y k := by
  rw [readN, readN, readList_congr fun z _ _ => get_writeN_other x n v z h (by omega)]

end Sys2Proof.Machine
end

