-- ==== Sys2Proof/Laws/State.lean ====
section
/-! SUPPORT. The state's small laws: what each update leaves of each field, and what is found after it. -/
namespace Sys2Proof.Machine

/-! ## Lists found and updated by a key -/

theorem find?_updIf {α : Type} {k : α → Nat} {f : α → α} (xs : List α) (u w : Nat) (keep : ∀ x, k (f x) = k x) :
    (updIf (fun x => k x == w) f xs).find? (fun x => k x == u) =
      if u = w then (xs.find? (fun x => k x == u)).map f else xs.find? (fun x => k x == u) := by
  induction xs with
  | nil => simp [updIf]
  | cons x xs ih =>
    simp only [updIf, List.map_cons, List.find?_cons] at ih ⊢
    by_cases e : k x = w
    · by_cases h : u = w
      · subst h; simp [e, keep]
      · simp only [e, beq_self_eq_true, if_true, keep, beq_iff_eq, if_false, h] at ih ⊢
        simp [show (w == u) = false by simpa using Ne.symm h, ih]
    · by_cases h : u = w
      · subst h
        simp only [show (k x == u) = false by simpa using e, if_true] at ih ⊢
        simpa [show (k x == u) = false by simpa using e] using ih
      · simp only [show (k x == w) = false by simpa using e, h, if_false] at ih ⊢
        simp only [Bool.false_eq_true, if_false]
        split <;> simp_all

/-! ## Teams, groups, threads -/

theorem team?_modTeam (s : State) (u w : Nat) (f : Team → Team) (keep : ∀ t, (f t).uid = t.uid) :
    team? (modTeam s w f) u = if u = w then (team? s u).map f else team? s u :=
  find?_updIf s.teams u w keep

@[simp] theorem modTeam_rest (s : State) (w : Nat) (f : Team → Team) (ts : List Team) :
    { modTeam s w f with teams := ts } = { s with teams := ts } := rfl

theorem grp?_modGrp (t : Team) (k g : Nat) (f : Group → Group) (keep : ∀ x, (f x).idx = x.idx) :
    grp? (modGrp g f t) k = if k = g then (grp? t k).map f else grp? t k :=
  find?_updIf t.groups k g keep

@[simp] theorem modGrp_uid (g : Nat) (f : Group → Group) (t : Team) : (modGrp g f t).uid = t.uid := rfl
@[simp] theorem modGrp_lmem (g : Nat) (f : Group → Group) (t : Team) : (modGrp g f t).lmem = t.lmem := rfl
@[simp] theorem modGrp_lpoison (g : Nat) (f : Group → Group) (t : Team) : (modGrp g f t).lpoison = t.lpoison := rfl
@[simp] theorem modGrp_kern (g : Nat) (f : Group → Group) (t : Team) : (modGrp g f t).kern = t.kern := rfl
@[simp] theorem modThr_idx (l : Nat) (f : Thread → Thread) (g : Group) : (modThr l f g).idx = g.idx := rfl
@[simp] theorem modThr_o (l : Nat) (f : Thread → Thread) (g : Group) : (modThr l f g).o = g.o := rfl
@[simp] theorem lwrite8_uid (t : Team) (a v : Nat) : (lwrite8 t a v).uid = t.uid := rfl
@[simp] theorem lwrite8_groups (t : Team) (a v : Nat) : (lwrite8 t a v).groups = t.groups := rfl
@[simp] theorem lwrite8_kern (t : Team) (a v : Nat) : (lwrite8 t a v).kern = t.kern := rfl

theorem grp?_idx {t : Team} {k : Nat} {g : Group} (h : grp? t k = some g) : g.idx = k := by
  simpa using List.find?_some h

theorem team?_uid {s : State} {u : Nat} {t : Team} (h : team? s u = some t) : t.uid = u := by
  simpa using List.find?_some h

/-! ## What an update of one part leaves -/

@[simp] theorem modTeam_inputs (s : State) (u : Nat) (f : Team → Team) : (modTeam s u f).inputs = s.inputs := rfl
@[simp] theorem modTeam_cur (s : State) (u : Nat) (f : Team → Team) : (modTeam s u f).cur = s.cur := rfl
@[simp] theorem modTeam_fresh (s : State) (u : Nat) (f : Team → Team) : (modTeam s u f).fresh = s.fresh := rfl
@[simp] theorem modTeam_tick (s : State) (u : Nat) (f : Team → Team) : (modTeam s u f).tick = s.tick := rfl
@[simp] theorem modTeam_home (s : State) (u : Nat) (f : Team → Team) : (modTeam s u f).home = s.home := rfl
@[simp] theorem modTeam_poison (s : State) (u : Nat) (f : Team → Team) : (modTeam s u f).poison = s.poison := rfl
@[simp] theorem modTeam_departed (s : State) (u : Nat) (f : Team → Team) : (modTeam s u f).departed = s.departed := rfl
@[simp] theorem modTeam_cores (s : State) (u : Nat) (f : Team → Team) : (modTeam s u f).cores = s.cores := rfl
@[simp] theorem modTeam_ctxs (s : State) (u : Nat) (f : Team → Team) : (modTeam s u f).ctxs = s.ctxs := rfl
@[simp] theorem modTeam_kept (s : State) (u : Nat) (f : Team → Team) : (modTeam s u f).kept = s.kept := rfl
@[simp] theorem modTeam_syncQ (s : State) (u : Nat) (f : Team → Team) : (modTeam s u f).syncQ = s.syncQ := rfl
@[simp] theorem modTeam_copies (s : State) (u : Nat) (f : Team → Team) : (modTeam s u f).copies = s.copies := rfl
@[simp] theorem modTeam_launchQ (s : State) (u : Nat) (f : Team → Team) : (modTeam s u f).launchQ = s.launchQ := rfl
@[simp] theorem modTeam_outReqs (s : State) (u : Nat) (f : Team → Team) : (modTeam s u f).outReqs = s.outReqs := rfl
@[simp] theorem modTeam_deques (s : State) (u : Nat) (f : Team → Team) : (modTeam s u f).deques = s.deques := rfl
@[simp] theorem modTeam_queues (s : State) (u : Nat) (f : Team → Team) : (modTeam s u f).queues = s.queues := rfl
@[simp] theorem modTeam_regs (s : State) (u : Nat) (f : Team → Team) : (modTeam s u f).regs = s.regs := rfl
@[simp] theorem modTeam_emuQ (s : State) (u : Nat) (f : Team → Team) : (modTeam s u f).emuQ = s.emuQ := rfl
@[simp] theorem modTeam_csram (s : State) (u : Nat) (f : Team → Team) : (modTeam s u f).csram = s.csram := rfl
@[simp] theorem modTeam_shut (s : State) (u : Nat) (f : Team → Team) : (modTeam s u f).shut = s.shut := rfl
@[simp] theorem modTeam_responses (s : State) (u : Nat) (f : Team → Team) : (modTeam s u f).responses = s.responses := rfl

@[simp] theorem modCtx_inputs (s : State) (i : Nat) (f : Ctx → Ctx) : (modCtx s i f).inputs = s.inputs := rfl
@[simp] theorem modCtx_cur (s : State) (i : Nat) (f : Ctx → Ctx) : (modCtx s i f).cur = s.cur := rfl
@[simp] theorem modCtx_fresh (s : State) (i : Nat) (f : Ctx → Ctx) : (modCtx s i f).fresh = s.fresh := rfl
@[simp] theorem modCtx_tick (s : State) (i : Nat) (f : Ctx → Ctx) : (modCtx s i f).tick = s.tick := rfl
@[simp] theorem modCtx_home (s : State) (i : Nat) (f : Ctx → Ctx) : (modCtx s i f).home = s.home := rfl
@[simp] theorem modCtx_poison (s : State) (i : Nat) (f : Ctx → Ctx) : (modCtx s i f).poison = s.poison := rfl
@[simp] theorem modCtx_teams (s : State) (i : Nat) (f : Ctx → Ctx) : (modCtx s i f).teams = s.teams := rfl
@[simp] theorem modCtx_departed (s : State) (i : Nat) (f : Ctx → Ctx) : (modCtx s i f).departed = s.departed := rfl
@[simp] theorem modCtx_cores (s : State) (i : Nat) (f : Ctx → Ctx) : (modCtx s i f).cores = s.cores := rfl
@[simp] theorem modCtx_kept (s : State) (i : Nat) (f : Ctx → Ctx) : (modCtx s i f).kept = s.kept := rfl
@[simp] theorem modCtx_syncQ (s : State) (i : Nat) (f : Ctx → Ctx) : (modCtx s i f).syncQ = s.syncQ := rfl
@[simp] theorem modCtx_copies (s : State) (i : Nat) (f : Ctx → Ctx) : (modCtx s i f).copies = s.copies := rfl
@[simp] theorem modCtx_launchQ (s : State) (i : Nat) (f : Ctx → Ctx) : (modCtx s i f).launchQ = s.launchQ := rfl
@[simp] theorem modCtx_outReqs (s : State) (i : Nat) (f : Ctx → Ctx) : (modCtx s i f).outReqs = s.outReqs := rfl
@[simp] theorem modCtx_deques (s : State) (i : Nat) (f : Ctx → Ctx) : (modCtx s i f).deques = s.deques := rfl
@[simp] theorem modCtx_queues (s : State) (i : Nat) (f : Ctx → Ctx) : (modCtx s i f).queues = s.queues := rfl
@[simp] theorem modCtx_regs (s : State) (i : Nat) (f : Ctx → Ctx) : (modCtx s i f).regs = s.regs := rfl
@[simp] theorem modCtx_emuQ (s : State) (i : Nat) (f : Ctx → Ctx) : (modCtx s i f).emuQ = s.emuQ := rfl
@[simp] theorem modCtx_csram (s : State) (i : Nat) (f : Ctx → Ctx) : (modCtx s i f).csram = s.csram := rfl
@[simp] theorem modCtx_shut (s : State) (i : Nat) (f : Ctx → Ctx) : (modCtx s i f).shut = s.shut := rfl
@[simp] theorem modCtx_responses (s : State) (i : Nat) (f : Ctx → Ctx) : (modCtx s i f).responses = s.responses := rfl

@[simp] theorem ctlSet_inputs (s : State) (off v : Nat) : (ctlSet s off v).inputs = s.inputs := rfl
@[simp] theorem ctlSet_cur (s : State) (off v : Nat) : (ctlSet s off v).cur = s.cur := rfl
@[simp] theorem ctlSet_fresh (s : State) (off v : Nat) : (ctlSet s off v).fresh = s.fresh := rfl
@[simp] theorem ctlSet_tick (s : State) (off v : Nat) : (ctlSet s off v).tick = s.tick := rfl
@[simp] theorem ctlSet_home (s : State) (off v : Nat) : (ctlSet s off v).home = s.home := rfl
@[simp] theorem ctlSet_poison (s : State) (off v : Nat) : (ctlSet s off v).poison = s.poison := rfl
@[simp] theorem ctlSet_teams (s : State) (off v : Nat) : (ctlSet s off v).teams = s.teams := rfl
@[simp] theorem ctlSet_departed (s : State) (off v : Nat) : (ctlSet s off v).departed = s.departed := rfl
@[simp] theorem ctlSet_cores (s : State) (off v : Nat) : (ctlSet s off v).cores = s.cores := rfl
@[simp] theorem ctlSet_ctxs (s : State) (off v : Nat) : (ctlSet s off v).ctxs = s.ctxs := rfl
@[simp] theorem ctlSet_kept (s : State) (off v : Nat) : (ctlSet s off v).kept = s.kept := rfl
@[simp] theorem ctlSet_syncQ (s : State) (off v : Nat) : (ctlSet s off v).syncQ = s.syncQ := rfl
@[simp] theorem ctlSet_copies (s : State) (off v : Nat) : (ctlSet s off v).copies = s.copies := rfl
@[simp] theorem ctlSet_launchQ (s : State) (off v : Nat) : (ctlSet s off v).launchQ = s.launchQ := rfl
@[simp] theorem ctlSet_outReqs (s : State) (off v : Nat) : (ctlSet s off v).outReqs = s.outReqs := rfl
@[simp] theorem ctlSet_deques (s : State) (off v : Nat) : (ctlSet s off v).deques = s.deques := rfl
@[simp] theorem ctlSet_queues (s : State) (off v : Nat) : (ctlSet s off v).queues = s.queues := rfl
@[simp] theorem ctlSet_emuQ (s : State) (off v : Nat) : (ctlSet s off v).emuQ = s.emuQ := rfl
@[simp] theorem ctlSet_csram (s : State) (off v : Nat) : (ctlSet s off v).csram = s.csram := rfl
@[simp] theorem ctlSet_shut (s : State) (off v : Nat) : (ctlSet s off v).shut = s.shut := rfl
@[simp] theorem ctlSet_responses (s : State) (off v : Nat) : (ctlSet s off v).responses = s.responses := rfl

@[simp] theorem draw_snd_inputs (s : State) : ((draw s).2).inputs = s.inputs := rfl
@[simp] theorem draw_snd_cur (s : State) : ((draw s).2).cur = s.cur := rfl
@[simp] theorem draw_snd_tick (s : State) : ((draw s).2).tick = s.tick := rfl
@[simp] theorem draw_snd_home (s : State) : ((draw s).2).home = s.home := rfl
@[simp] theorem draw_snd_poison (s : State) : ((draw s).2).poison = s.poison := rfl
@[simp] theorem draw_snd_teams (s : State) : ((draw s).2).teams = s.teams := rfl
@[simp] theorem draw_snd_departed (s : State) : ((draw s).2).departed = s.departed := rfl
@[simp] theorem draw_snd_cores (s : State) : ((draw s).2).cores = s.cores := rfl
@[simp] theorem draw_snd_ctxs (s : State) : ((draw s).2).ctxs = s.ctxs := rfl
@[simp] theorem draw_snd_kept (s : State) : ((draw s).2).kept = s.kept := rfl
@[simp] theorem draw_snd_syncQ (s : State) : ((draw s).2).syncQ = s.syncQ := rfl
@[simp] theorem draw_snd_copies (s : State) : ((draw s).2).copies = s.copies := rfl
@[simp] theorem draw_snd_launchQ (s : State) : ((draw s).2).launchQ = s.launchQ := rfl
@[simp] theorem draw_snd_outReqs (s : State) : ((draw s).2).outReqs = s.outReqs := rfl
@[simp] theorem draw_snd_deques (s : State) : ((draw s).2).deques = s.deques := rfl
@[simp] theorem draw_snd_queues (s : State) : ((draw s).2).queues = s.queues := rfl
@[simp] theorem draw_snd_regs (s : State) : ((draw s).2).regs = s.regs := rfl
@[simp] theorem draw_snd_emuQ (s : State) : ((draw s).2).emuQ = s.emuQ := rfl
@[simp] theorem draw_snd_csram (s : State) : ((draw s).2).csram = s.csram := rfl
@[simp] theorem draw_snd_shut (s : State) : ((draw s).2).shut = s.shut := rfl
@[simp] theorem draw_snd_responses (s : State) : ((draw s).2).responses = s.responses := rfl

@[simp] theorem modCore_inputs (s : State) (d k : Nat) (f : Core → Core) : (modCore s d k f).inputs = s.inputs := by unfold modCore; split <;> rfl
@[simp] theorem modCore_cur (s : State) (d k : Nat) (f : Core → Core) : (modCore s d k f).cur = s.cur := by unfold modCore; split <;> rfl
@[simp] theorem modCore_fresh (s : State) (d k : Nat) (f : Core → Core) : (modCore s d k f).fresh = s.fresh := by unfold modCore; split <;> rfl
@[simp] theorem modCore_tick (s : State) (d k : Nat) (f : Core → Core) : (modCore s d k f).tick = s.tick := by unfold modCore; split <;> rfl
@[simp] theorem modCore_home (s : State) (d k : Nat) (f : Core → Core) : (modCore s d k f).home = s.home := by unfold modCore; split <;> rfl
@[simp] theorem modCore_poison (s : State) (d k : Nat) (f : Core → Core) : (modCore s d k f).poison = s.poison := by unfold modCore; split <;> rfl
@[simp] theorem modCore_teams (s : State) (d k : Nat) (f : Core → Core) : (modCore s d k f).teams = s.teams := by unfold modCore; split <;> rfl
@[simp] theorem modCore_departed (s : State) (d k : Nat) (f : Core → Core) : (modCore s d k f).departed = s.departed := by unfold modCore; split <;> rfl
@[simp] theorem modCore_ctxs (s : State) (d k : Nat) (f : Core → Core) : (modCore s d k f).ctxs = s.ctxs := by unfold modCore; split <;> rfl
@[simp] theorem modCore_kept (s : State) (d k : Nat) (f : Core → Core) : (modCore s d k f).kept = s.kept := by unfold modCore; split <;> rfl
@[simp] theorem modCore_syncQ (s : State) (d k : Nat) (f : Core → Core) : (modCore s d k f).syncQ = s.syncQ := by unfold modCore; split <;> rfl
@[simp] theorem modCore_copies (s : State) (d k : Nat) (f : Core → Core) : (modCore s d k f).copies = s.copies := by unfold modCore; split <;> rfl
@[simp] theorem modCore_launchQ (s : State) (d k : Nat) (f : Core → Core) : (modCore s d k f).launchQ = s.launchQ := by unfold modCore; split <;> rfl
@[simp] theorem modCore_outReqs (s : State) (d k : Nat) (f : Core → Core) : (modCore s d k f).outReqs = s.outReqs := by unfold modCore; split <;> rfl
@[simp] theorem modCore_deques (s : State) (d k : Nat) (f : Core → Core) : (modCore s d k f).deques = s.deques := by unfold modCore; split <;> rfl
@[simp] theorem modCore_queues (s : State) (d k : Nat) (f : Core → Core) : (modCore s d k f).queues = s.queues := by unfold modCore; split <;> rfl
@[simp] theorem modCore_regs (s : State) (d k : Nat) (f : Core → Core) : (modCore s d k f).regs = s.regs := by unfold modCore; split <;> rfl
@[simp] theorem modCore_emuQ (s : State) (d k : Nat) (f : Core → Core) : (modCore s d k f).emuQ = s.emuQ := by unfold modCore; split <;> rfl
@[simp] theorem modCore_csram (s : State) (d k : Nat) (f : Core → Core) : (modCore s d k f).csram = s.csram := by unfold modCore; split <;> rfl
@[simp] theorem modCore_shut (s : State) (d k : Nat) (f : Core → Core) : (modCore s d k f).shut = s.shut := by unfold modCore; split <;> rfl
@[simp] theorem modCore_responses (s : State) (d k : Nat) (f : Core → Core) : (modCore s d k f).responses = s.responses := by unfold modCore; split <;> rfl

theorem ctx?_modCtx (s : State) (i w : Nat) (f : Ctx → Ctx) (keep : ∀ c, (f c).id = c.id) :
    ctx? (modCtx s w f) i = if i = w then (ctx? s i).map f else ctx? s i :=
  find?_updIf s.ctxs i w keep

end Sys2Proof.Machine
end

