-- ==== Sys2Proof/Laws/Wrote.lean ====
section
/-! SUPPORT. What one write of a register, or one change of a thread, does to the state in the terms of Safety. -/
namespace Sys2Proof.Machine

/-- The register rows of a group hold every register of the kernel (R94). -/
theorem f_le_ringRows (k : Kern) : k.f ≤ ringRows k := by unfold ringRows; omega

/-- Two v registers of a group share no byte. -/
theorem vAddr_apart (k : Kern) (g : Group) {l m l' m' : Nat} (hl : l < 32) (hl' : l' < 32) (hm : m < k.f) (hm' : m' < k.f)
    (ne : ¬ (l = l' ∧ m = m')) : vAddr k g l m + 8 ≤ vAddr k g l' m' ∨ vAddr k g l' m' + 8 ≤ vAddr k g l m := by
  have hr := f_le_ringRows k
  unfold vAddr
  by_cases e : (g.o + m) % ringRows k = (g.o + m') % ringRows k
  · have : m = m' := by
      have := (Nat.ModEq.add_left_cancel' g.o (show Nat.ModEq (ringRows k) (g.o + m) (g.o + m') from e))
      rwa [Nat.ModEq, Nat.mod_eq_of_lt (by omega), Nat.mod_eq_of_lt (by omega)] at this
    rw [e]; omega
  · omega

/-- The g registers of a group stand before its v registers. -/
theorem gAddr_below (k : Kern) (g : Group) {n l m : Nat} (hn : n < 64) : gAddr k g.idx n + 8 ≤ vAddr k g l m := by
  unfold gAddr vAddr; omega

variable {s s' : State} {c : Cur} {T : Team} {G : Group} {v : Nat → Nat → Option Nat} {g : Nat → Option Nat}
  {th : Nat → Thread → Thread}

/-- Nothing written, nothing changed. -/
theorem Wrote.refl (team : team? s c.w.uid = some T) (group : grp? T c.w.group = some G) (clean : T.lpoison = [])
    (canon : T.lmem.wf = true) : Wrote s s c T G (fun _ _ => none) (fun _ => none) (fun _ th => th) :=
  ⟨T, G, ⟨rfl, fun _ _ => rfl, team, rfl, fun _ _ => rfl, group, rfl⟩, by simp, clean, canon, by simp, by simp, by simp⟩

theorem Wrote.congr {v' : Nat → Nat → Option Nat} {g' : Nat → Option Nat} {th' : Nat → Thread → Thread}
    (h : Wrote s s' c T G v g th) (hv : ∀ l n, l < 32 → n < T.kern.f → v l n = v' l n) (hg : ∀ n, n < 64 → g n = g' n)
    (ht : ∀ l t, G.threads[l]? = some t → th l t = th' l t) : Wrote s s' c T G v' g' th' := by
  obtain ⟨T', G', h1, h2, h3, h4, h5, h6, h7⟩ := h
  refine ⟨T', G', h1, fun l => ?_, h3, h4, fun l n a b => hv l n a b ▸ h5 l n a b, fun n a => hg n a ▸ h6 n a,
    fun a p q => h7 a (fun l n x y => hv l n x y ▸ p l n x y) (fun n x => hg n x ▸ q n x)⟩
  rw [h2]
  cases e : G.threads[l]? with
  | none => rfl
  | some t => simp [ht l t e]

/-- What a state that differs in one team only, by a change that keeps what `SameBut` keeps, is to the first state. -/
theorem SameBut.step {w : Where} {T₁ T₂ : Team} {G₁ G₂ : Group} (h : SameBut s s' w T T₁ G G₁) (F : Team → Team)
    (uid : ∀ t, (F t).uid = t.uid) (team : F T₁ = T₂)
    (rest : { T₂ with lmem := T₁.lmem, lpoison := T₁.lpoison, groups := T₁.groups } = T₁)
    (groups : ∀ k, k ≠ w.group → grp? T₂ k = grp? T₁ k) (group : grp? T₂ w.group = some G₂)
    (grest : { G₂ with threads := G₁.threads } = G₁) : SameBut s (modTeam s' w.uid F) w T T₂ G G₂ where
  rest := h.rest
  others u hu := by rw [team?_modTeam s' u w.uid F uid, if_neg hu, h.others u hu]
  team := by rw [team?_modTeam s' _ _ F uid, if_pos rfl, h.team, Option.map_some, team]
  teamRest := by
    have a := h.teamRest
    rw [← rest] at a
    exact a
  groups k hk := (groups k hk).trans (h.groups k hk)
  group := group
  groupRest := by
    have a := h.groupRest
    rw [← grest] at a
    exact a

theorem SameBut.kern {w : Where} {T' : Team} {G' : Group} (h : SameBut s s' w T T' G G') : T'.kern = T.kern := by
  rw [← h.teamRest]

theorem SameBut.idx {w : Where} {T' : Team} {G' : Group} (h : SameBut s s' w T T' G G') : G'.idx = G.idx := by
  rw [← h.groupRest]

theorem SameBut.o {w : Where} {T' : Team} {G' : Group} (h : SameBut s s' w T T' G G') : G'.o = G.o := by
  rw [← h.groupRest]

theorem SameBut.vAddr {w : Where} {T' : Team} {G' : Group} (h : SameBut s s' w T T' G G') (l n : Nat) :
    vAddr T'.kern G' l n = vAddr T.kern G l n := by
  simp only [Machine.vAddr, h.kern, h.idx, h.o]

/-- A thread changed. -/
theorem Wrote.thread (h : Wrote s s' c T G v g th) (l : Nat) (k : Thread → Thread) :
    Wrote s (modThread s' c.w l k) c T G v g (fun m t => if m = l then k (th m t) else th m t) := by
  obtain ⟨T', G', h1, h2, h3, h4, h5, h6, h7⟩ := h
  refine ⟨modGrp c.w.group (modThr l k) T', modThr l k G', ?_, fun m => ?_, h3, h4, ?_, ?_, ?_⟩
  · refine h1.step (modGrp c.w.group (modThr l k)) (fun _ => rfl) rfl rfl (fun j hj => ?_) ?_ rfl
    · rw [grp?_modGrp T' j c.w.group (modThr l k) (modThr_idx l k), if_neg hj]
    · rw [grp?_modGrp T' _ c.w.group (modThr l k) (modThr_idx l k), if_pos rfl, h1.group]; rfl
  · by_cases e : m = l
    · subst e; simp [modThr, h2, Function.comp_def]
    · simp [modThr, h2, e, Ne.symm e]
  · exact h5
  · exact h6
  · exact h7

/-- A v register written. -/
theorem Wrote.vreg (h : Wrote s s' c T G v g th) {l n : Nat} (hl : l < 32) (hn : n < T.kern.f) (x : Nat) :
    Wrote s (writeV s' c.w l n x) c T G (fun m j => if m = l ∧ j = n then some x else v m j) g th := by
  obtain ⟨T', G', h1, h2, h3, h4, h5, h6, h7⟩ := h
  have hg := h1.group
  refine ⟨lwrite8 T' (vAddr T'.kern G' l n) x, G', ?_, h2, ?_, ?_, ?_, ?_, ?_⟩
  · refine h1.step (fun t => match grp? t c.w.group with | some g => lwrite8 t (vAddr t.kern g l n) x | none => t)
      (fun t => ?_) ?_ rfl (fun _ _ => rfl) hg rfl
    · split <;> rfl
    · simp only [hg]
  · simp [lwrite8, h3]
  · exact Mem.wf_writeN _ _ _ h4
  · intro m j hm hj
    simp only [readV, lwrite8]
    by_cases e : m = l ∧ j = n
    · obtain ⟨rfl, rfl⟩ := e
      simp [Mem.readN_writeN_same _ _ _ h4]
    · rw [if_neg e, Mem.readN_writeN_other _ _ _ _ _ h4]
      · exact h5 m j hm hj
      · simpa [h1.vAddr] using vAddr_apart T.kern G hm hl hj hn e
  · intro j hj
    have := gAddr_below T'.kern G' (l := l) (m := n) hj
    simp only [readG, lwrite8]
    rw [Mem.readN_writeN_other _ _ _ _ _ h4 (by omega)]
    exact h6 j hj
  · intro a p q
    have := p l n hl hn (by simp)
    rw [show (lwrite8 T' (vAddr T'.kern G' l n) x).lmem = T'.lmem.writeN (vAddr T'.kern G' l n) 8 x from rfl, h1.vAddr,
      Mem.get_writeN_other _ _ _ _ h4 this]
    refine h7 a (fun m j hm hj y => p m j hm hj ?_) q
    dsimp only; split <;> simp_all

/-- A g register written. -/
theorem Wrote.greg (h : Wrote s s' c T G v g th) {n : Nat} (hn : n < 64) (x : Nat) :
    Wrote s (writeG s' c.w n x) c T G v (fun j => if j = n then some x else g j) th := by
  obtain ⟨T', G', h1, h2, h3, h4, h5, h6, h7⟩ := h
  have hg := h1.group
  have hi : G'.idx = c.w.group := grp?_idx hg
  refine ⟨lwrite8 T' (gAddr T'.kern c.w.group n) x, G', ?_, h2, ?_, ?_, ?_, ?_, ?_⟩
  · exact h1.step (fun t => lwrite8 t (gAddr t.kern c.w.group n) x) (fun _ => rfl) rfl rfl (fun _ _ => rfl) hg rfl
  · simp [lwrite8, h3]
  · exact Mem.wf_writeN _ _ _ h4
  · intro m j hm hj
    have := gAddr_below T'.kern G' (l := m) (m := j) hn
    rw [hi] at this
    simp only [readV, lwrite8]
    rw [Mem.readN_writeN_other _ _ _ _ _ h4 (by omega)]
    exact h5 m j hm hj
  · intro j hj
    simp only [readG, lwrite8, hi]
    by_cases e : j = n
    · subst e; simp [Mem.readN_writeN_same _ _ _ h4]
    · rw [if_neg e, Mem.readN_writeN_other _ _ _ _ _ h4 (by unfold gAddr; omega), ← hi]
      exact h6 j hj
  · intro a p q
    have := q n hn (by simp)
    rw [← h1.idx, ← h1.kern, hi] at this
    rw [show (lwrite8 T' (gAddr T'.kern c.w.group n) x).lmem = T'.lmem.writeN (gAddr T'.kern c.w.group n) 8 x from rfl,
      Mem.get_writeN_other _ _ _ _ h4 this]
    refine h7 a p (fun j hj y => q j hj ?_)
    dsimp only; split <;> simp_all

end Sys2Proof.Machine
end

