-- ==== Sys2Proof/Laws/Run.lean ====
section
/-! SUPPORT. What an issue group reads, and what running an instruction over it comes to. -/
namespace Sys2Proof.Machine

variable {s s' : State} {c : Cur} {T : Team} {G : Group} {x : Ctx} {v : Nat → Nat → Option Nat} {g : Nat → Option Nat}
  {th : Nat → Thread → Thread} {f : Fld} {op : Nat} {i : Instr}

/-! ## What an issue group reads -/

theorem Stands.thread? (h : Stands s c T G x) (l : Nat) : Machine.thread? s c.w l = G.threads[l]? := by
  simp [Machine.thread?, group?, h.team, h.group]

theorem Stands.active (h : Stands s c T G x) (f : Fld) : active s c f = acting c G f :=
  List.filter_congr fun l _ => by
    show (match Machine.thread? s c.w l with | some th => guardTrue f th | none => false) = _
    exact congrArg (fun o : Option Thread => match o with | some th => guardTrue f th | none => false) (h.thread? l)

theorem acting_lanes {l : Nat} (h : l ∈ acting c G f) : l ∈ c.lanes := (List.mem_filter.1 h).1

theorem Stands.acting_lt (h : Stands s c T G x) {l : Nat} (m : l ∈ acting c G f) : l < 32 := (h.lanes l (acting_lanes m)).1

theorem Stands.acting_rising (h : Stands s c T G x) : (acting c G f).Pairwise (· < ·) := h.rising.filter _

theorem Stands.env? (h : Stands s c T G x) {l : Nat} (m : l ∈ acting c G f) :
    Machine.env? s c l = some (laneEnv c T G x l) := by
  simp [Machine.env?, laneEnv, h.team, h.group, h.ctx, (h.lanes l (acting_lanes m)).2]

theorem Ready.registerFault (h : Ready i s c T G x) (hi : asLong i = some (op, f)) (l : Nat) :
    Machine.registerFault (laneEnv c T G x l) op f = none := by
  have := h.range op f hi
  simp [Machine.registerFault, regPoison, laneEnv, h.clean, Nat.not_lt.2 this]

/-! ## Threads moved -/

theorem Wrote.threads (h : Wrote s s' c T G v g th) (k : Thread → Thread) (ls : List Nat) (nd : ls.Nodup) :
    Wrote s (modThreads s' c.w ls k) c T G v g (fun m t => if m ∈ ls then k (th m t) else th m t) := by
  induction ls generalizing s' th with
  | nil => exact h.congr (by simp) (by simp) (by simp)
  | cons l ls ih =>
    have nd := List.nodup_cons.1 nd
    refine (ih (h.thread l k) nd.2).congr (by simp) (by simp) fun m t _ => ?_
    by_cases e : m = l
    · subst e; simp [nd.1]
    · simp [e]

theorem Wrote.goto (h : Wrote s s' c T G v g th) (pc : Nat) (ls : List Nat) (nd : ls.Nodup) :
    Wrote s (goto s' c.w ls pc) c T G v g (fun m t => if m ∈ ls then stepped pc (th m t) else th m t) :=
  h.threads _ ls nd

/-! ## Effects of an instruction that writes registers -/

def Eff.onV (n : Nat) (o : Option Nat) : Eff → Option Nat
  | .v m y => if n = m then some y else o
  | _ => o
def Eff.onG (n : Nat) (o : Option Nat) : Eff → Option Nat
  | .g m y => if n = m then some y else o
  | _ => o
def Eff.onThread (th : Thread) : Eff → Thread
  | .p n b => setPred n b th
  | .nf y => orNf y th
  | .sx y => { th with sx := BitVec.ofNat 64 y }
  | .smst y => { th with smst := BitVec.ofNat 64 y }
  | .jump pc => { th with pc := BitVec.ofNat 64 pc }
  | .cid y => { th with cid := BitVec.ofNat 24 y }
  | .tpc y => { th with tpc := BitVec.ofNat 64 y }
  | .idle n => { th with idle := n }
  | _ => th
/-- The register that an effect writes is one that the kernel has. -/
def Eff.held (k : Nat) : Eff → Prop
  | .v n _ => n < k
  | .g n _ => n < 64
  | _ => True

/-- One effect of a thread. -/
theorem Wrote.eff (h : Wrote s s' c T G v g th) {l : Nat} (hl : l < 32) (low : Bool) {e : Eff} (ok : e.held T.kern.f) :
    Wrote s (applyEff c.w l low s' e) c T G (fun m n => if m = l then e.onV n (v m n) else v m n)
      (fun n => if low then e.onG n (g n) else g n) (fun m t => if m = l then e.onThread (th m t) else th m t) := by
  cases e with
  | v n y =>
    refine (h.vreg hl ok y).congr (fun m j _ _ => ?_) (fun j _ => ?_) (fun m t _ => ?_) <;> simp [Eff.onV, Eff.onG, Eff.onThread]
    by_cases m = l <;> simp_all
  | g n y =>
    cases low with
    | false => exact h.congr (by simp [Eff.onV]) (by simp) (by simp [Eff.onThread])
    | true => exact (h.greg ok y).congr (by simp [Eff.onV]) (by simp [Eff.onG]) (by simp [Eff.onThread])
  | _ => exact (h.thread l _).congr (by simp [Eff.onV]) (by simp [Eff.onG]) (by simp [Eff.onThread])

def effsV (es : List Eff) (n : Nat) (o : Option Nat) : Option Nat := es.foldl (Eff.onV n) o
def effsG (es : List Eff) (n : Nat) (o : Option Nat) : Option Nat := es.foldl (Eff.onG n) o
def effsThread (es : List Eff) (th : Thread) : Thread := es.foldl Eff.onThread th

/-- The effects of a thread. -/
theorem Wrote.effs {l : Nat} (hl : l < 32) (low : Bool) (es : List Eff) (ok : ∀ e ∈ es, e.held T.kern.f)
    (h : Wrote s s' c T G v g th) :
    Wrote s (applyEffs c.w l low s' es) c T G (fun m n => if m = l then effsV es n (v m n) else v m n)
      (fun n => if low then effsG es n (g n) else g n) (fun m t => if m = l then effsThread es (th m t) else th m t) := by
  induction es generalizing s' v g th with
  | nil => exact h.congr (by simp [effsV]) (by simp [effsG]) (by simp [effsThread])
  | cons e es ih =>
    refine (ih (fun e m => ok e (List.mem_cons_of_mem _ m)) (h.eff hl low (ok e List.mem_cons_self))).congr ?_ ?_ ?_
    · intro m n _ _; by_cases m = l <;> simp_all [effsV]
    · intro n _; cases low <;> simp [effsG]
    · intro m t _; by_cases m = l <;> simp_all [effsThread]

/-! ## Instructions that write registers only -/

/-- The threads of an issue group after another: each takes its effects at the next instruction. -/
theorem Wrote.results (ls : List Nat) (lt : ∀ l ∈ ls, l < 32) (nd : ls.Nodup) (low : Nat → Bool) (es : Nat → List Eff)
    (ok : ∀ l ∈ ls, ∀ e ∈ es l, e.held T.kern.f) (h : Wrote s s' c T G v g th) (pc : Nat) :
    Wrote s (ls.foldl (fun r l => applyEffs c.w l (low l) (Machine.goto r c.w [l] pc) (es l)) s') c T G
      (fun m n => if m ∈ ls then effsV (es m) n (v m n) else v m n)
      (fun n => ls.foldl (fun o l => if low l then effsG (es l) n o else o) (g n))
      (fun m t => if m ∈ ls then effsThread (es m) (stepped pc (th m t)) else th m t) := by
  induction ls generalizing s' v g th with
  | nil => exact h.congr (by simp) (by simp) (by simp)
  | cons l ls ih =>
    have nd := List.nodup_cons.1 nd
    have h1 := (h.goto pc [l] (by simp)).effs (lt l List.mem_cons_self) (low l) (es l) (ok l List.mem_cons_self)
    refine (ih (fun a m => lt a (List.mem_cons_of_mem _ m)) nd.2 (fun a m => ok a (List.mem_cons_of_mem _ m)) h1).congr ?_ ?_ ?_
    · intro m n _ _
      by_cases e : m = l
      · subst e; simp [nd.1]
      · simp [e]
    · intro n _; rfl
    · intro m t _
      by_cases e : m = l
      · subst e; simp [nd.1]
      · simp [e]

theorem foldl_ite_head (p : Nat → Bool) (k : Nat → Option Nat → Option Nat) (ls : List Nat) (o : Option Nat)
    (hp : ∀ l ∈ ls, p l = false) : ls.foldl (fun o l => if p l then k l o else o) o = o := by
  induction ls with
  | nil => rfl
  | cons l ls ih => simp [hp l List.mem_cons_self]; simpa using ih fun a m => hp a (List.mem_cons_of_mem _ m)

/-- Running an instruction that writes registers of its threads: when no thread faults, each acting thread has its effects,
the g registers those of the lowest, and every thread of the issue group advances. -/
theorem Ready.runPure (h : Ready i s c T G x) (hi : asLong i = some (op, f)) (body : Env → Except FaultInfo (List Eff))
    (es : Nat → List Eff) (good : ∀ l ∈ acting c G f, body (laneEnv c T G x l) = .ok (es l))
    (ok : ∀ l ∈ acting c G f, ∀ e ∈ es l, e.held T.kern.f) :
    ∃ s', runPure op f s body = .next s' ∧ Wrote s s' c T G
      (fun l n => if l ∈ acting c G f then effsV (es l) n none else none)
      (fun n => (acting c G f).head?.bind (fun l => effsG (es l) n none))
      (advance c (acting c G f) (fun l => effsThread (es l))) := by
  have nd : (acting c G f).Nodup := (h.acting_rising (f := f)).imp (fun a => Nat.ne_of_lt a)
  have ndl : c.lanes.Nodup := h.rising.imp (fun a => Nat.ne_of_lt a)
  let act := acting c G f
  have hres : act.filterMap (fun l => (Machine.env? s c l).map (fun e =>
      (l, match Machine.registerFault e op f with
          | some i => (.error i : Except FaultInfo (List Eff))
          | none => body e))) = act.map (fun l => (l, .ok (es l))) := by
    rw [List.filterMap_congr (g := fun l => some (l, .ok (es l))) (fun l hl => ?_), ← List.filterMap_eq_map]; rfl
    simp [h.toStands.env? hl, h.registerFault hi, good l hl]
  let skip := skipFalse s c f
  have hskip : Wrote s skip c T G (fun _ _ => none) (fun _ => none)
      (fun m t => if m ∈ c.lanes.filter (fun l => !act.contains l) then stepped c.next t else t) := by
    have := (Wrote.refl h.team h.group h.clean h.canon).goto c.next (c.lanes.filter (fun l => !act.contains l)) (ndl.filter _)
    simpa [skip, skipFalse, h.toStands.active, act] using this
  let low : Nat := act.headD 0
  have hfold : ∀ (ls : List Nat) (r : State), (ls.map (fun l => (l, (.ok (es l) : Except FaultInfo (List Eff))))).foldl
      (fun (r : State × List (Nat × FaultInfo)) (p : Nat × Except FaultInfo (List Eff)) =>
        match p.2 with
        | .ok es => (applyEffs c.w p.1 (p.1 == low) (Machine.goto r.1 c.w [p.1] c.next) es, r.2)
        | .error i => (r.1, r.2 ++ [(p.1, i)])) (r, []) =
      (ls.foldl (fun r l => applyEffs c.w l (l == low) (Machine.goto r c.w [l] c.next) (es l)) r, []) := by
    intro ls
    induction ls with
    | nil => intro r; rfl
    | cons l ls ih => intro r; simp only [List.map_cons, List.foldl_cons, ih]
  have hw := hskip.results act (fun l m => h.acting_lt m) nd (fun l => l == low) es ok c.next
  refine ⟨_, ?_, hw.congr ?_ ?_ ?_⟩
  · have e : Machine.runPure op f s body = .next (
        let r := (act.filterMap (fun l => (Machine.env? s c l).map (fun e =>
          (l, match Machine.registerFault e op f with
              | some i => (.error i : Except FaultInfo (List Eff))
              | none => body e)))).foldl
          (fun (r : State × List (Nat × FaultInfo)) (p : Nat × Except FaultInfo (List Eff)) =>
            match p.2 with
            | .ok es => (applyEffs c.w p.1 (p.1 == low) (Machine.goto r.1 c.w [p.1] c.next) es, r.2)
            | .error i => (r.1, r.2 ++ [(p.1, i)])) (skip, [])
        takeFaults r.1 c r.2) := by
      simp only [Machine.runPure, withCur, h.cur, h.toStands.active, h.whole, Bool.false_eq_true, if_false]; rfl
    rw [e, hres, hfold]
    rfl
  · intro l n _ _; rfl
  · intro n _
    match e : act with
    | [] => simp [show acting c G f = [] from e]
    | l :: ls =>
      have hl : low = l := by simp [low, e]
      have np : ∀ a ∈ ls, (a == low) = false := by
        intro a m
        rw [show acting c G f = l :: ls from e, List.nodup_cons] at nd
        rw [hl]; simp; rintro rfl; exact nd.1 m
      simp only [show acting c G f = l :: ls from e, List.foldl_cons, List.head?_cons, Option.bind_some]
      rw [foldl_ite_head (fun l => l == low) (fun l o => effsG (es l) n o) ls _ np]
      simp [hl]
  · intro l t _
    simp only [advance]
    by_cases a : l ∈ act
    · have : l ∈ c.lanes := acting_lanes a
      simp [a, this, show l ∈ acting c G f from a]
    · by_cases b : l ∈ c.lanes
      · simp [a, b, show l ∉ acting c G f from a]
      · simp [a, b]

end Sys2Proof.Machine
end

