-- ==== Sys2Proof/Laws/Computes.lean ====
section
/-! SUPPORT. Instructions whose result is register d, in the terms of the statements: from the effects that an instruction
answers to what `Computes` says. -/
namespace Sys2Proof.Machine

variable {s : State} {c : Cur} {T : Team} {G : Group} {x : Ctx} {f : Fld} {op : Nat} {i : Instr}

/-- A v register that an instruction names is one that its check of R94 sees. -/
theorem vNeed_mem {p : Nat × Nat} (h : p ∈ vSpans op f) : p.1 + p.2 ≤ vNeed op f := by
  have gen : ∀ (l : List (Nat × Nat)) (m : Nat), m ≤ l.foldl (fun m p => max m (p.1 + p.2)) m ∧
      ∀ p ∈ l, p.1 + p.2 ≤ l.foldl (fun m p => max m (p.1 + p.2)) m := by
    intro l
    induction l with
    | nil => simp
    | cons q l ih =>
      intro m
      simp only [List.foldl_cons]
      refine ⟨le_trans (le_max_left _ _) (ih _).1, fun p hp => ?_⟩
      rcases List.mem_cons.1 hp with rfl | hp
      · exact le_trans (le_max_right _ _) (ih _).1
      · exact (ih _).2 p hp
  exact (gen _ 0).2 p h

/-- A destination in v(d) or g(d) that the encoding and the kernel allow. -/
theorem dstEff_held (hs : ∃ g, sigOf op = some g ∧ g.d = .vg 4) (hop : op < 0xC0 ∧ op ≠ 0x48) (wf : fieldsOk op f = true)
    {k : Nat} (r : vNeed op f ≤ k) (y : Nat) : (dstEff f y).held k := by
  obtain ⟨g, hs, hd⟩ := hs
  unfold dstEff regEff
  split
  · rename_i e
    simp only [fieldsOk, hs, Bool.and_eq_true] at wf
    have := wf.1.1.1.1.1.1.1.2
    simpa [hd, roleOk, e, Eff.held] using this
  · rename_i e
    have : ∃ n, 0 < n ∧ (f.d.toNat, n) ∈ vSpans op f := by
      refine ⟨if op = 156 ∨ op = 157 ∨ op = 117 ∨ op = 206 then 2 else 1, by split <;> omega, ?_⟩
      unfold vSpans
      rw [if_neg (by simp; omega)]
      simp only [Bool.not_eq_true] at e
      simp [hs, hd, e, hop.2, or_assoc, show op ≠ 216 by omega, show op ≠ 217 by omega]
    obtain ⟨n, hn, hm⟩ := this
    have := vNeed_mem hm
    simp only [Eff.held]
    simp at this; omega

/-- A long form is well formed when the checks of R164 hold of its opcode and fields. -/
theorem fieldsOk_of_wf (h : i.wf = true) (hi : opFld i = some (op, f)) : fieldsOk op f = true := by
  simpa [Instr.wf, hi] using h

theorem dst_fold_v {l m : Nat} {act : List Nat} (n : Nat) (file : Bool) (val : Nat → Nat) :
    (if l ∈ act then (regEff file n (val l)).onV m none else none) = toV file n act val l m := by
  cases file <;> simp [regEff, Eff.onV, toV]
  split <;> split <;> simp_all

theorem dst_fold_g {m : Nat} {act : List Nat} (n : Nat) (file : Bool) (val : Nat → Nat) :
    (act.head?.bind fun l => (regEff file n (val l)).onG m none) = toG file n act val m := by
  cases file <;> cases act <;> simp [regEff, Eff.onG, toG]

/-- The effect is on the thread itself: it writes no v or g register. -/
def Eff.own : Eff → Bool
  | .v _ _ => false
  | .g _ _ => false
  | _ => true

theorem effs_own {es : List Eff} (h : es.all Eff.own = true) (n : Nat) (o : Option Nat) :
    es.foldl (Eff.onV n) o = o ∧ es.foldl (Eff.onG n) o = o := by
  induction es with
  | nil => simp
  | cons e es ih =>
    simp only [List.all_cons, Bool.and_eq_true] at h
    cases e <;> simp_all [Eff.onV, Eff.onG, Eff.own]

theorem held_own {es : List Eff} (h : es.all Eff.own = true) (k : Nat) : ∀ e ∈ es, e.held k := by
  intro e he
  have := List.all_eq_true.1 h e he
  cases e <;> simp_all [Eff.own, Eff.held]

/-- An instruction that answers one register result, and effects on its own thread. -/
theorem Ready.computes (h : Ready i s c T G x) (hi : asLong i = some (op, f)) {body : Env → Except FaultInfo (List Eff)}
    (he : exec i s = Machine.runPure op f s body) (es : Env → List Eff)
    {val : Env → Nat} {k : Env → Thread → Thread}
    (hb : ∀ l ∈ acting c G f, body (laneEnv c T G x l) = .ok (dstEff f (val (laneEnv c T G x l)) :: es (laneEnv c T G x l)))
    (own : ∀ e, (es e).all Eff.own = true)
    (held : ∀ y, (dstEff f y).held T.kern.f) (hk : ∀ e th, effsThread (es e) th = k e th) :
    Computes i f s c T G x val k := by
  obtain ⟨s', h1, h2⟩ := h.runPure hi body _ hb (fun l _ e he => by
    rcases List.mem_cons.1 he with rfl | he
    · exact held _
    · exact held_own (own _) _ e he)
  have e3 : ∀ y th, (dstEff f y).onThread th = th := by
    intro y th; unfold dstEff regEff; split <;> rfl
  refine ⟨s', he.trans h1, h2.congr ?_ ?_ ?_⟩
  · intro l n _ _
    simp only [effsV, List.foldl_cons, (effs_own (own _) n _).1]
    exact dst_fold_v f.d.toNat (fldBit f 4) (fun l => val (laneEnv c T G x l))
  · intro n _
    simp only [effsG, List.foldl_cons, (effs_own (own _) n _).2]
    exact dst_fold_g f.d.toNat (fldBit f 4) (fun l => val (laneEnv c T G x l))
  · intro l th _
    simp only [advance, effsThread, List.foldl_cons, e3]
    simp only [← hk, effsThread]

/-- An instruction that answers effects on its own threads only. -/
theorem Ready.changes (h : Ready i s c T G x) (hi : asLong i = some (op, f)) {body : Env → Except FaultInfo (List Eff)}
    (he : exec i s = Machine.runPure op f s body) (es : Env → List Eff) {k : Env → Thread → Thread}
    (hb : ∀ l ∈ acting c G f, body (laneEnv c T G x l) = .ok (es (laneEnv c T G x l)))
    (own : ∀ e, (es e).all Eff.own = true) (hk : ∀ e th, effsThread (es e) th = k e th) :
    ∃ s', exec i s = .next s' ∧ Wrote s s' c T G (fun _ _ => none) (fun _ => none)
      (advance c (acting c G f) (fun l => k (laneEnv c T G x l))) := by
  obtain ⟨s', h1, h2⟩ := h.runPure hi body _ hb (fun l _ => held_own (own _) _)
  refine ⟨s', he.trans h1, h2.congr ?_ ?_ ?_⟩
  · intro l n _ _
    simp [effsV, (effs_own (own _) n _).1]
  · intro n _
    simp only [effsG, (effs_own (own _) n _).2]
    cases (acting c G f).head? <;> rfl
  · intro l th _
    simp only [advance, hk]

end Sys2Proof.Machine
end

