-- ==== Sys2Proof/Tests/Slice0.lean ====
section
/-! SUPPORT. Tests of the model, with expectations from the spec: ill-formed terms that are refused, words written out from
the encodings, single steps, and for each statement states and operands that meet its hypotheses. -/
namespace Sys2Proof.Tests
open Sys2Proof Sys2Proof.Machine
set_option Elab.async false

/-! ## Ill-formed terms (R157 to R162, R164) -/

/-- Fields of a 64-bit form. -/
def fld (d a b c : Nat) (slot : Nat := 0) (m : Nat := 0) : Fld :=
  { form := .w64, sense := false, guard := 0, pace := 0, d := BitVec.ofNat 8 d, a := BitVec.ofNat 8 a, b := BitVec.ofNat 8 b,
    c := BitVec.ofNat 8 c, slot := BitVec.ofNat 4 slot, m := BitVec.ofNat 9 m, lit := 0 }

/-- R154: sense 1 with p0 is reserved. -/
theorem test_wf_guard : (Instr.iadd { fld 1 2 3 0 with sense := true }).wf = false := by decide
/-- R151: the 32-bit form holds six bits of a register number, and no c, slot, m or pace. -/
theorem test_wf_form32 : (Instr.iadd { fld 64 2 3 0 with form := .w32 }).wf = false
    ∧ (Instr.logic3 { fld 1 2 3 4 with form := .w32 }).wf = false
    ∧ (Instr.iadd { fld 1 2 3 0 with form := .w32, pace := 1 }).wf = false := by decide
/-- R153: only the 96-bit form holds a literal, and field b is then 0. -/
theorem test_wf_literal : (Instr.iadd { fld 1 2 0 0 with lit := 5 }).wf = false
    ∧ (Instr.iadd { fld 1 2 3 0 with form := .w96, lit := 5 }).wf = false
    ∧ (Instr.redLaneI { fld 1 2 0 0 with form := .w96, lit := 5 }).wf = false := by decide
/-- R157: a field that an instruction does not use is 0, and a g register is below 64. -/
theorem test_wf_register : (Instr.mov (fld 1 2 3 0)).wf = false ∧ (Instr.mov (fld 64 0 3 0 0 16)).wf = false
    ∧ (Instr.setp (fld 8 1 2 0)).wf = false := by decide
/-- R158: eight types; the bit-field instructions have one. -/
theorem test_wf_type : (Instr.iadd (fld 1 2 3 0 8)).wf = false ∧ (Instr.bfx (fld 1 2 3 0 1)).wf = false
    ∧ (Instr.sext (fld 1 2 3 0 1)).wf = false := by decide
/-- R159: reserved modifier bits are 0; rounding override 7 and scope 7 are reserved. -/
theorem test_wf_modifier : (Instr.iadd (fld 1 2 3 0 0 128)).wf = false ∧ (Instr.fadd (fld 1 2 3 0 0 7)).wf = false
    ∧ (Instr.pub (fld 0 0 0 0 0 7)).wf = false := by decide
/-- R161: no 16-bit word stands for `mov r0, r0`; SETP has six modes. -/
theorem test_wf_short : (Instr.mov16 0 0).wf = false ∧ (Instr.setp16 6 1 2).wf = false := by decide
/-- R191, R179, R217, R223, R227: MOVS writes no read-only entry; PMOV has one register; pairs end at v255; three logic ops. -/
theorem test_wf_single : (Instr.movsWrite (fld 0 1 0 0)).wf = false ∧ (Instr.pmov (fld 1 2 0 0)).wf = false
    ∧ (Instr.sowg (fld 255 2 3 4)).wf = false ∧ (Instr.redLaneLog (fld 1 2 0 3 0 96)).wf = false
    ∧ (Instr.ldw (fld 255 2 3 0)).wf = false ∧ (Instr.ldw (fld 63 2 3 0 0 16)).wf = false := by decide
/-- R234, R236, R237: RED inc and dec take .n types; ATOMRD reads a pair. -/
theorem test_wf_red : (Instr.red (fld 6 1 2 0 0)).wf = false ∧ (Instr.atomrd (fld 0 1 2 255 0)).wf = false := by decide
/-- R261, R271, R288: a shape of a small matrix, RESQ's pair, ACRD's rows. -/
theorem test_wf_matrix : (Instr.smmul (fld 1 2 3 0 0 0)).wf = false ∧ (Instr.resq (fld 255 0 0 0)).wf = false
    ∧ (Instr.acrd (fld 255 0 0 1)).wf = false := by decide

/-! ## Words written out (R147, R150 to R154, R163) -/

/-- The words of the 64-bit form: length code 3, opcode at [10:3], guard at [13:11], sense at [14], pace at [18:15], d at
[26:19], a at [34:27], b at [42:35], c at [50:43], slot at [54:51], m at [63:55]. -/
def word64 (op d a b c slot m : Nat) : Nat :=
  3 + op * 2 ^ 3 + d * 2 ^ 19 + a * 2 ^ 27 + b * 2 ^ 35 + c * 2 ^ 43 + slot * 2 ^ 51 + m * 2 ^ 55

theorem test_decode_control : decodeTableWord 64 (word64 0x01 0 0 0 9 0 0) = some (.trap (fld 0 0 0 9))
    ∧ decodeTableWord 64 (word64 0x06 3 4 5 6 0 0) = some (.callW (fld 3 4 5 6))
    ∧ decodeTableWord 64 (word64 0x0A 0 0 0 0 0 0) = some (.exit (fld 0 0 0 0)) := by decide +kernel
theorem test_decode_integer : decodeTableWord 64 (word64 0x26 1 2 3 4 6 0) = some (.imad (fld 1 2 3 4 6))
    ∧ decodeTableWord 64 (word64 0x37 1 2 3 0xE8 0 0) = some (.logic3 (fld 1 2 3 0xE8))
    ∧ decodeTableWord 64 (word64 0x46 1 2 3 5 4 0) = some (.setp (fld 1 2 3 5 4)) := by decide +kernel
theorem test_decode_format : decodeTableWord 64 (word64 0x52 1 2 3 0 9 0x180) = some (.fadd (fld 1 2 3 0 9 0x180))
    ∧ decodeTableWord 64 (word64 0x55 1 2 3 4 0 3) = some (.ffma (fld 1 2 3 4 0 3))
    ∧ decodeTableWord 64 (word64 0x6C 1 2 3 4 5 0) = some (.cvt (fld 1 2 3 4 5)) := by decide +kernel
theorem test_decode_lanes : decodeTableWord 64 (word64 0x7B 1 2 3 4 0 0x40) = some (.lpair (fld 1 2 3 4 0 0x40))
    ∧ decodeTableWord 64 (word64 0x83 1 2 0 4 5 0) = some (.redLane (fld 1 2 0 4 5)) := by decide +kernel
theorem test_decode_memory : decodeTableWord 64 (word64 0x90 1 2 3 0xF8 4 0x20) = some (.ld (fld 1 2 3 0xF8 4 0x20))
    ∧ decodeTableWord 64 (word64 0xA7 1 2 3 4 4 0x0D) = some (.atomCas (fld 1 2 3 4 4 0x0D))
    ∧ decodeTableWord 64 (word64 0xB3 1 2 0 3 0 0) = some (.dqsteal (fld 1 2 0 3))
    ∧ decodeTableWord 64 (word64 0xB8 5 0 3 0 0 0) = some (.arrive (fld 5 0 3 0)) := by decide +kernel
theorem test_decode_matrix : decodeTableWord 64 (word64 0xCC 1 2 0 0 0 0) = some (.resv (fld 1 2 0 0))
    ∧ decodeTableWord 64 (word64 0xD0 0 2 0 0 0 0) = some (.mma (fld 0 2 0 0)) := by decide +kernel
theorem test_decode_copies : decodeTableWord 64 (word64 0xE0 6 2 3 4 0 0) = some (.copy (fld 6 2 3 4))
    ∧ decodeTableWord 64 (word64 0xE7 1 2 3 0 0 0) = some (.qpush (fld 1 2 3 0))
    ∧ decodeTableWord 64 (word64 0xED 1 2 0 0 0 0) = some (.launch (fld 1 2 0 0)) := by decide +kernel
/-- R150, R161: op16 11 is LD64, with the offset in the mod field. -/
theorem test_decode_short : decodeTableWord 16 (2 * 11 + 1 * 2 ^ 5 + 2 * 2 ^ 9 + 3 * 2 ^ 13) = some (.ld64 3 1 2) := by decide +kernel

/-! ## A small machine -/

def thr : Thread := threadStart 0x100000 1
/-- A group of 32 threads at 0x0010_0000. -/
def grp0 : Group := { groupStart 0 (List.replicate 32 thr) 0x30000 0x32000 with started := true, argsRead := true }
/-- A team of one group with 256 v registers, with this local space. -/
def tm (lm : Mem) (g : Group := grp0) : Team :=
  { soloTeam 1000 .compute 0 0 0 256 0x10000 with groups := [g], lmem := lm }
/-- Context 0, with the page tables at 0x0001_0000 and the presets in its slots. -/
def ctx0 : Ctx :=
  { id := 0, det := false, ptroot := 0x10000, part := 1, cotbase := 0, cotn := 0, wdog := 0, fqbase := 0, fqlen := 16,
    fqwr := 0, elbase := 0, ellen := 16, elwr := 0, fd := fdPresets, wd := List.replicate 16 0, srk := 0, srw := 0, thand := 0,
    nextAcc := 0, kernels := [], launches := [], grids := [], tags := [], claims := [], steppings := [], aside := [], fqPend := [], prevDie := 8 }
/-- Page tables that map the first GiB to itself, with every right (R353, R354). -/
def pages : Mem :=
  Mem.writeN (Mem.writeN (Mem.writeN [] 0x10000 8 0x11001) 0x11000 8 0x12001) 0x12000 8 0x73
/-- A 64-bit instruction at 0x0010_0000, for threads of these lanes. -/
def cur (lanes : List Nat) : Cur :=
  { w := { uid := 1000, group := 0 }, lanes := lanes, pc := 0x100000, next := 0x100008, dword := 0, lit := 0, form := 2,
    noPatch := false, noG := false }
def st (lanes : List Nat) (t : Team) (x : Ctx := ctx0) : State :=
  { State.reset with cur := some (cur lanes), teams := [t], ctxs := [x], home := pages }
/-- Core (0, 0). -/
def withCore (k : Core) (s : State) : State := { s with cores := [k] }
/-- A core that keeps code object 1, of 4 KiB at 0x0010_0000. -/
def coded : Core := { emptyCore 0 0 with codes := [{ ctx := 0, id := 1, base := 0x100000, len := 0x1000 }] }
/-- Registers of lane 0, and g registers. -/
def vmem (vs : List (Nat × Nat)) (gs : List (Nat × Nat) := []) : Mem :=
  gs.foldl (fun m p => Mem.writeN m (gAddr (flatKern 256 0) 0 p.1) 8 p.2)
    (vs.foldl (fun (m : Mem) p => Mem.writeN m (vAddr (flatKern 256 0) grp0 0 p.1) 8 p.2) [])

/-- What `Ready` asks of an instruction by itself. -/
def fits (i : Instr) : Bool := i.wf && (match asLong i with | some (op, f) => decide (vNeed op f ≤ 256) | none => true)

theorem ready {i : Instr} {s : State} {c : Cur} {T : Team} {G : Group} {x : Ctx} (h : Stands s c T G x)
    (hi : fits i = true) (hk : T.kern.f = 256) (hp : T.lpoison = []) (hw : T.lmem.wf = true) : Ready i s c T G x := by
  simp only [fits, Bool.and_eq_true] at hi
  refine ⟨h, hi.1, fun op f e => ?_, hp, hw⟩
  have := hi.2
  rw [e] at this
  rw [hk]
  exact of_decide_eq_true this

theorem readyAll {is : List Instr} {s : State} {c : Cur} {T : Team} {G : Group} {x : Ctx} (h : Stands s c T G x)
    (hi : is.all fits = true) (hk : T.kern.f = 256) (hp : T.lpoison = []) (hw : T.lmem.wf = true) :
    ∀ i ∈ is, Ready i s c T G x := fun i m => ready h (List.all_eq_true.1 hi i m) hk hp hw

/-- Two threads of the group stand at the instruction, lanes 0 and 31. -/
theorem pair : Stands (st [0, 31] (tm [])) (cur [0, 31]) (tm []) grp0 ctx0 := ⟨rfl, rfl, rfl, rfl, by decide, by decide, rfl⟩
theorem pairReady (is : List Instr) (h : is.all fits = true) :
    ∀ i ∈ is, Ready i (st [0, 31] (tm [])) (cur [0, 31]) (tm []) grp0 ctx0 := readyAll pair h rfl rfl rfl

/-! ## Witnesses: registers and predicates -/

theorem witness_IntegerArithmetic : ∀ i ∈ [Instr.mov (fld 255 0 255 0), .sel (fld 255 1 2 7), .iadd (fld 255 1 2 0 7),
    .isub (fld 63 1 2 0 0 16), .imul (fld 1 1 2 0 4), .imulh (fld 1 1 2 0 4), .imad (fld 1 1 2 255), .idiv (fld 1 1 2 0),
    .irem (fld 1 1 2 0), .ineg (fld 1 0 2 0), .iabs (fld 1 0 2 0), .imin (fld 1 1 2 0), .imax (fld 1 1 2 0), .iadds (fld 1 1 2 0),
    .isubs (fld 1 1 2 0), .iadc (fld 1 1 2 63), .lea (fld 1 1 2 7), .lear (fld 1 0 2 0)],
    Ready i (st [0, 31] (tm [])) (cur [0, 31]) (tm []) grp0 ctx0 := pairReady _ (by decide +kernel)
theorem witness_LogicAndShifts : ∀ i ∈ [Instr.and (fld 1 2 3 0), .or (fld 1 2 3 0), .xor (fld 1 2 3 0), .not (fld 1 0 3 0),
    .andn (fld 1 2 3 0), .logic3 (fld 1 2 3 255), .shl (fld 1 2 3 0), .shr (fld 1 2 3 0), .sar (fld 1 2 3 0), .rol (fld 1 2 3 0),
    .ror (fld 1 2 3 0), .dshr (fld 1 2 3 255)],
    Ready i (st [0, 31] (tm [])) (cur [0, 31]) (tm []) grp0 ctx0 := pairReady _ (by decide +kernel)
theorem witness_BitFields : ∀ i ∈ [Instr.bfx (fld 1 2 3 0), .bfxs (fld 1 2 3 0), .bfi (fld 1 2 3 0), .sext (fld 1 2 3 0),
    .zext (fld 1 2 3 0), .bmsk (fld 1 0 3 0), .popc (fld 1 0 3 0), .clz (fld 1 0 3 0 7), .ctz (fld 1 0 3 0), .brev (fld 1 0 3 0),
    .bswap (fld 1 0 3 0)], Ready i (st [0, 31] (tm [])) (cur [0, 31]) (tm []) grp0 ctx0 := pairReady _ (by decide +kernel)
theorem witness_Predicates : ∀ i ∈ [Instr.setp (fld 0 2 3 5), .setp (fld 7 2 3 0), .plogic (fld 7 7 7 255), .pset (fld 0 2 3 0),
    .setv (fld 1 7 0 0), .pmov (fld 1 0 0 0 0 0), .pmov (fld 0 1 0 0 0 64)],
    Ready i (st [0, 31] (tm [])) (cur [0, 31]) (tm []) grp0 ctx0 := pairReady _ (by decide +kernel)

/-! ## Witnesses: formats -/

/-- Slot 0 of the presets is valid and of every kind that these instructions accept. -/
theorem preset0 : slotGood ctx0 0 (fun _ => true) ∧ slotGood ctx0 0 (fun k => [0, 1, 4].contains k.kind)
    ∧ slotGood ctx0 0 (fun k => k.kind != 1) ∧ slotGood ctx0 0 (fun k => [0, 1, 4].contains k.kind && decide (13 ≤ k.w)) := by
  unfold slotGood
  decide +kernel
theorem witness_FormatArithmetic : ∀ i ∈ [Instr.fadd (fld 1 2 3 0), .fsub (fld 1 2 3 0), .fmul (fld 1 2 3 0), .fdiv (fld 1 2 3 0),
    .fsqrt (fld 1 0 3 0), .frcp (fld 1 0 3 0), .frsq (fld 1 0 3 0), .fexp2 (fld 1 0 3 0), .flog2 (fld 1 0 3 0), .fsin (fld 1 0 3 0),
    .fcos (fld 1 0 3 0), .fxexp (fld 1 0 3 0), .ffma (fld 1 2 3 4), .ffms (fld 1 2 3 4), .fnma (fld 1 2 3 4), .fscl (fld 1 2 3 0),
    .frnd (fld 1 0 3 0)], Ready i (st [0, 31] (tm [])) (cur [0, 31]) (tm []) grp0 ctx0 := pairReady _ (by decide +kernel)
theorem witness_FormatOrder : ∀ i ∈ [Instr.fmin (fld 1 2 3 0), .fmax (fld 1 2 3 0), .fminp (fld 1 2 3 0), .fmaxp (fld 1 2 3 0),
    .fabs (fld 1 0 3 0), .fneg (fld 1 0 3 0), .fcpys (fld 1 2 3 0), .fclamp (fld 1 2 3 4)],
    Ready i (st [0, 31] (tm [])) (cur [0, 31]) (tm []) grp0 ctx0 := pairReady _ (by decide +kernel)
theorem witness_FormatCompare : ∀ i ∈ [Instr.fcmp (fld 1 2 3 7), .fclass (fld 1 2 3 0), .fsetp (fld 7 2 3 0), .fsetp (fld 0 2 3 0x17),
    .fsel (fld 1 2 3 4)], Ready i (st [0, 31] (tm [])) (cur [0, 31]) (tm []) grp0 ctx0 := pairReady _ (by decide +kernel)
/-- The part numbers of all three are below the parts there are. -/
theorem witness_FormatConvert : (∀ i ∈ [Instr.cvt (fld 1 2 0 0), .scale (fld 1 2 3 0), .unscale (fld 1 2 3 0)],
      Ready i (st [0, 31] (tm [])) (cur [0, 31]) (tm []) grp0 ctx0)
    ∧ ∀ p ∈ [(fld 1 2 0 0).b.toNat % 64, srcBz (laneEnv (cur [0, 31]) (tm []) grp0 ctx0 0) (fld 1 2 3 0) / 256 % 64],
      p * min (elems (slotDef ctx0 0)) (elems (slotDef ctx0 0)) < max (elems (slotDef ctx0 0)) (elems (slotDef ctx0 0)) :=
  ⟨pairReady _ (by decide +kernel), by decide +kernel⟩
theorem witness_FormatHorizontal : ∀ i ∈ [Instr.fhsum (fld 1 0 3 0), .fhmax (fld 1 0 3 0), .fdot (fld 1 2 3 4)],
    Ready i (st [0, 31] (tm [])) (cur [0, 31]) (tm []) grp0 ctx0 := pairReady _ (by decide +kernel)
theorem witness_CounterDraws : ∀ i ∈ [Instr.sowg (fld 254 2 3 4), .sowgf (fld 1 2 3 4)],
    Ready i (st [0, 31] (tm [])) (cur [0, 31]) (tm []) grp0 ctx0 := pairReady _ (by decide +kernel)

/-! ## Witnesses: lanes -/

theorem threads0 (l : Nat) : grp0.threads[l]? = if l < 32 then some thr else none := List.getElem?_replicate
/-- g1 names every lane. -/
def laneTeam : Team := tm (vmem [] [(1, 0xFFFFFFFF)])
theorem allStand : Stands (st (List.range 32) laneTeam) (cur (List.range 32)) laneTeam grp0 ctx0 :=
  ⟨rfl, rfl, rfl, rfl, by decide, by decide, rfl⟩
theorem allReady (is : List Instr) (h : is.all fits = true) :
    ∀ i ∈ is, Ready i (st (List.range 32) laneTeam) (cur (List.range 32)) laneTeam grp0 ctx0 :=
  readyAll allStand h rfl rfl (by decide +kernel)
/-- All 32 threads arrive together at an instruction whose mask is g1. -/
theorem allArrive (f : Fld) (hf : f.c = 1) : LastArrival f (cur (List.range 32)) laneTeam grp0 (List.range 32) := by
  have hm : readG laneTeam grp0 1 = 0xFFFFFFFF := by decide +kernel
  have hc : f.c.toNat = 1 := by rw [hf]; rfl
  refine ⟨by decide, ?_, fun l h => h, fun l h => ⟨thr, ?_, by decide⟩, fun l h => .inl h, fun l th m g n d h hs => ?_⟩
  · rw [hc, hm]; decide +kernel
  · rw [threads0, if_pos (List.mem_range.1 h)]
  · rw [threads0] at h
    split at h
    · cases h; cases hs
    · cases h
theorem witness_LaneMovesAndVotes : (∀ i ∈ [Instr.lget (fld 1 2 3 1), .lslide (fld 1 2 3 1), .lslideW (fld 1 2 3 1), .lpair (fld 1 2 3 1),
      .lcycle (fld 1 2 3 1), .lcast (fld 1 2 31 1 0 64), .lall (fld 0 2 0 1), .lany (fld 7 2 0 1), .lsame (fld 1 2 0 1),
      .lbits (fld 1 2 0 1), .lcount (fld 1 2 0 1), .lpeers (fld 1 2 0 1)],
      Ready i (st (List.range 32) laneTeam) (cur (List.range 32)) laneTeam grp0 ctx0)
    ∧ LastArrival (fld 1 2 3 1) (cur (List.range 32)) laneTeam grp0 (List.range 32)
    ∧ LastArrival (fld 1 2 0 1) (cur (List.range 32)) laneTeam grp0 (List.range 32) :=
  ⟨allReady _ (by decide +kernel), allArrive _ rfl, allArrive _ rfl⟩
theorem witness_LaneReductions : (∀ i ∈ [Instr.redLane (fld 1 2 0 1), .redLaneMin (fld 1 2 0 1), .redLaneMax (fld 1 2 0 1 0 32),
      .scan (fld 1 2 0 1 0 64), .scanMin (fld 1 2 0 1), .scanMax (fld 1 2 0 1), .redLaneI (fld 1 2 0 1), .scanI (fld 1 2 0 1),
      .redLaneLog (fld 1 2 0 1 0 64)],
      Ready i (st (List.range 32) laneTeam) (cur (List.range 32)) laneTeam grp0 ctx0)
    ∧ LastArrival (fld 1 2 0 1) (cur (List.range 32)) laneTeam grp0 (List.range 32) :=
  ⟨allReady _ (by decide +kernel), allArrive _ rfl⟩

/-! ## Witnesses: transfers, traps, system -/

/-- v2 of lane 0 holds a handle of the code object that the core keeps, at its last halfword. -/
def jumpTeam : Team := tm (vmem [(2, 2 ^ 40 + 0xFFE)])
def jumpState (x : Ctx := ctx0) (t : Team := jumpTeam) : State := withCore coded (st [0] t x)
theorem jumpStand : Stands jumpState (cur [0]) jumpTeam grp0 ctx0 := ⟨rfl, rfl, rfl, rfl, by decide, by decide, rfl⟩
theorem kept0 (x : Ctx) (h : x.id = 0) (t : Team) : Keeps (jumpState x t) x jumpTeam 1 0x100000 0x1000 := by
  unfold Keeps; rw [h]; exact ⟨by decide, rfl⟩
theorem witness_Transfers : (∀ i ∈ [Instr.bra (fld 63 255 255 255), .brdec (fld 1 2 3 4 0), .call (fld 1 2 3 4), .mkh (fld 1 2 3 4),
      .brx (fld 0 2 0 0), .ret (fld 0 2 0 0), .callx (fld 1 2 0 0)], Ready i jumpState (cur [0]) jumpTeam grp0 ctx0)
    ∧ Keeps jumpState ctx0 jumpTeam 1 0x100000 0x1000 ∧ (laneEnv (cur [0]) jumpTeam grp0 ctx0 0).th.cid.toNat = 1
    ∧ srcA (laneEnv (cur [0]) jumpTeam grp0 ctx0 0) (fld 0 2 0 0) % 2 ^ 40 < 0x1000
    ∧ srcA (laneEnv (cur [0]) jumpTeam grp0 ctx0 0) (fld 0 2 0 0) / 2 ^ 40 = 1 :=
  ⟨readyAll jumpStand (by decide +kernel) rfl rfl (by decide +kernel), kept0 ctx0 rfl _, rfl, by decide +kernel, by decide +kernel⟩

/-- The trap handler is at 0x10 of code object 1. -/
def trapCtx : Ctx := { ctx0 with thand := 2 ^ 40 + 0x10 }
/-- The threads are in the handler, entered from 0x20 of code object 1. -/
def inHandler : Group := { grp0 with threads := List.replicate 32 { thr with intrap := true, tpc := 2 ^ 40 + 0x20 } }
/-- The same team, in the handler. -/
def handlerTeam : Team := { jumpTeam with groups := [inHandler] }
theorem witness_TrapsAndReturns :
    (Ready (.trap (fld 0 0 0 255)) (jumpState trapCtx) (cur [0]) jumpTeam grp0 trapCtx ∧ Keeps (jumpState trapCtx) trapCtx jumpTeam 1 0x100000 0x1000
      ∧ trapCtx.thand.toNat ≠ 0 ∧ trapCtx.thand.toNat / 2 ^ 40 = 1 ∧ trapCtx.thand.toNat % 2 ^ 40 < 0x1000 ∧ (laneEnv (cur [0]) jumpTeam grp0 trapCtx 0).th.intrap = false)
    ∧ (Ready (.tret (fld 0 0 0 0)) (jumpState ctx0 handlerTeam) (cur [0]) handlerTeam inHandler ctx0
      ∧ ∀ l ∈ acting (cur [0]) inHandler (fld 0 0 0 0), (laneEnv (cur [0]) handlerTeam inHandler ctx0 l).th.intrap = true
        ∧ Keeps (jumpState ctx0 handlerTeam) ctx0 handlerTeam ((laneEnv (cur [0]) handlerTeam inHandler ctx0 l).th.tpc.toNat / 2 ^ 40) 0x100000 0x1000
        ∧ (laneEnv (cur [0]) handlerTeam inHandler ctx0 l).th.tpc.toNat % 2 ^ 40 < 0x1000)
    ∧ (Ready (.trap (fld 0 0 0 1)) (jumpState trapCtx handlerTeam) (cur [0]) handlerTeam inHandler trapCtx)
    ∧ ∀ i ∈ [Instr.trap (fld 0 0 0 0), .tret (fld 0 0 0 0), .brk (fld 0 0 0 0)],
      Ready i jumpState (cur [0]) jumpTeam grp0 ctx0 ∧ NoPatch jumpState (cur [0]) jumpTeam ctx0 ∧ ctx0.thand.toNat = 0
        ∧ (laneEnv (cur [0]) jumpTeam grp0 ctx0 0).th.intrap = false ∧ acting (cur [0]) grp0 (fld 0 0 0 0) = [0] :=
  ⟨⟨ready ⟨rfl, rfl, rfl, rfl, by decide, by decide, rfl⟩ (by decide +kernel) rfl rfl (by decide +kernel), kept0 _ rfl _, by decide, by decide, by decide, rfl⟩,
   ⟨ready ⟨rfl, rfl, rfl, rfl, by decide, by decide, rfl⟩ (by decide +kernel) rfl rfl (by decide +kernel), by unfold Keeps; decide +kernel⟩,
   ready ⟨rfl, rfl, rfl, rfl, by decide, by decide, rfl⟩ (by decide +kernel) rfl rfl (by decide +kernel),
   fun i m => ⟨readyAll jumpStand (by decide +kernel) rfl rfl (by decide +kernel) i m, ⟨rfl, .inr rfl⟩, by decide, rfl, by decide⟩⟩

theorem witness_ReadsAndHints : ∀ i ∈ [Instr.nop (fld 0 0 0 0), .icpf (fld 0 2 0 0), .fbar (fld 0 0 0 0), .pref (fld 0 2 0 0), .oprdy (fld 0 0 0 0),
    .idle (fld 0 0 3 0), .elect (fld 1 7 0 0), .rdpc (fld 1 0 0 0), .frec (fld 1 0 3 0), .fdget (fld 1 0 0 0 15)],
    Ready i (st [0, 31] (tm [])) (cur [0, 31]) (tm []) grp0 ctx0 := pairReady _ (by decide +kernel)
theorem witness_SpecialRegistersRead : ∀ i ∈ ((List.range 0x1B).map (fun n => Instr.movsRead (fld 1 0 0 n))),
    Ready i (st [0, 31] (tm [])) (cur [0, 31]) (tm []) grp0 ctx0 := pairReady _ (by decide +kernel)
/-- Lane 31 alone. -/
theorem solo31 (i : Instr) (f : Fld) (h : fits i = true) (hf : f.guard = 0 ∧ f.sense = false) :
    Solo i f (st [31] (tm [])) (cur [31]) (tm []) grp0 ctx0 31 := by
  refine ⟨ready ⟨rfl, rfl, rfl, rfl, by decide, by decide, rfl⟩ h rfl rfl rfl, rfl, ?_⟩
  have e : guardTrue f thr = true := by simp [guardTrue, predOf, hf.1, hf.2]
  simp [acting, cur, threads0, e]
theorem witness_SpecialRegistersWritten : ∀ n ∈ [0x10, 0x11, 0x12, 0x13, 0x14, 0x15, 0x16],
    Solo (.movsWrite (fld 0 1 0 n)) (fld 0 1 0 n) (st [31] (tm [])) (cur [31]) (tm []) grp0 ctx0 31 := fun n m =>
  solo31 _ _ (List.all_eq_true.1 (by decide +kernel : ([0x10, 0x11, 0x12, 0x13, 0x14, 0x15, 0x16].all (fun n => fits (.movsWrite (fld 0 1 0 n)))) = true) n m)
    ⟨rfl, rfl⟩
theorem witness_DeviceQueries : ∀ i ∈ [Instr.sysq (fld 1 0 0 0), .sysq (fld 1 0 0 2), .sysq (fld 1 0 0 16), .sysq (fld 1 0 0 255)],
    Ready i (st [0, 31] (tm [])) (cur [0, 31]) (tm []) grp0 ctx0 := pairReady _ (by decide +kernel)

/-! ## Witnesses: memory -/

theorem okOf {α : Type} {a : Except FaultInfo α} (h : a.isOk = true) : ∃ y, a = .ok y := by
  cases a with
  | error _ => cases h
  | ok y => exact ⟨y, rfl⟩
/-- A check that passes and a load that waits for no link. -/
theorem okLoad {α β γ δ : Type} {a : Except FaultInfo α} {b : α → Except FaultInfo (β × List γ × δ)}
    (h : (match a with | .ok y => (match b y with | .ok (_, [], _) => true | _ => false) | _ => false) = true) :
    ∃ y p q, a = .ok y ∧ b y = .ok (p, [], q) := by
  cases a with
  | error _ => cases h
  | ok y =>
    simp only at h
    split at h
    · rename_i p q e; exact ⟨y, p, q, rfl, e⟩
    · cases h
theorem okStep {r : StepR} (h : (match r with | .ok _ => true | _ => false) = true) : ∃ s, r = .ok s := by
  cases r <;> first | exact ⟨_, rfl⟩ | cases h

theorem soloAt {s : State} {T : Team} {G : Group} {x : Ctx} {i : Instr} {f : Fld} (hs : Stands s (cur [0]) T G x) (h : fits i = true)
    (hk : T.kern.f = 256) (hp : T.lpoison = []) (hw : T.lmem.wf = true) (hg : acting (cur [0]) G f = [0]) : Solo i f s (cur [0]) T G x 0 :=
  ⟨ready hs h hk hp hw, rfl, hg⟩

/-- v2 of lane 0 is 0x20000, v3 is 8, v4 is 0x40. -/
def memTeam : Team := tm (vmem [(2, 0x20000), (3, 8), (4, 0x40)])
def memState : State := st [0] memTeam
theorem memStand : Stands memState (cur [0]) memTeam grp0 ctx0 := ⟨rfl, rfl, rfl, rfl, by decide, by decide, rfl⟩
theorem memSolo (i : Instr) (f : Fld) (h : fits i = true) (hg : acting (cur [0]) grp0 f = [0]) : Solo i f memState (cur [0]) memTeam grp0 ctx0 0 :=
  soloAt memStand h rfl rfl (by decide +kernel) hg
def memEnv : Env := laneEnv (cur [0]) memTeam grp0 ctx0 0
theorem room (s : State) (hs : ctrFull s (cur [0]).w k = false) : Room s (cur [0]) grp0 k := ⟨fun _ h => (List.not_mem_nil h).elim, hs⟩

theorem witness_StoresStayInTheCore : ([(0x20000, 1, 0xFF), (0x2000F, 2, 0x0F)] : List (Nat × Byte × Byte)).Pairwise (fun p q => p.1 ≠ q.1) := by decide
/-- A core holds two bytes of a line, of one store. -/
def dirtyCore : Core := { emptyCore 0 0 with
  dirty := [{ pa := 0x20000, byte := 7, mask := 0xFF, sid := 1, w := writerOf memTeam 0 0, nt := false, comb := false, raw := false },
            { pa := 0x2007F, byte := 9, mask := 0xFF, sid := 1, w := writerOf memTeam 0 0, nt := false, comb := false, raw := false }] }
/-- A STRONG page away from them, and a NORMAL one. -/
theorem witness_LoadsSeeTheirCore : ∀ p ∈ [(3, 0x20001), (3, 0x2007E), (0, 0x20000)],
    2 ≤ p.1 → ∀ d ∈ (Machine.core (withCore dirtyCore memState) 0 0).dirty, d.pa < p.2 ∨ p.2 + 1 ≤ d.pa := by decide +kernel
theorem witness_StoresReachTheirHome : let s := withCore dirtyCore memState
    s.home.wf = true ∧ s.poison = [] ∧ (Machine.core s (0 / 168) (0 % 168)).dirty.Pairwise (fun d e => d.sid ≤ e.sid)
    ∧ (Machine.core s 0 0).dirty ≠ [] ∧ ∀ d ∈ (Machine.core s 0 0).dirty, ∀ y, ctx? s d.w.ctx = some y → y.det = false := by
  refine ⟨by decide +kernel, rfl, by decide +kernel, by decide +kernel, fun d h y e => ?_⟩
  have h' : d ∈ dirtyCore.dirty := h
  simp only [dirtyCore, List.mem_cons, List.not_mem_nil, or_false] at h'
  rcases h' with rfl | rfl <;> · cases e; rfl
theorem witness_LocalStoresWrite : memTeam.lmem.wf = true := by decide +kernel

/-- LD at the top of a sector, LDW, LDL at 0x8 of the scratchpad, LDACQ, LDP of all elements, LDMX in slot 3. -/
theorem witness_LoadsIssue : Room memState (cur [0]) grp0 .loads
    ∧ (Solo (.ld (fld 255 2 3 0 0 0x20)) (fld 255 2 3 0 0 0x20) memState (cur [0]) memTeam grp0 ctx0 0
      ∧ ∃ loc bs s0, checkGlobal memState ctx0 (effAddr memEnv (fld 255 2 3 0 0 0x20)) 8 .load = .ok loc
        ∧ loadLoc memState 0 0 (effAddr memEnv (fld 255 2 3 0 0 0x20)) 8 loc = .ok (bs, [], s0))
    ∧ (Solo (.ldw (fld 254 2 0 0)) (fld 254 2 0 0) memState (cur [0]) memTeam grp0 ctx0 0
      ∧ ∃ loc bs s0, checkGlobal memState ctx0 (effAddr memEnv (fld 254 2 0 0)) 16 .load = .ok loc
        ∧ loadLoc memState 0 0 (effAddr memEnv (fld 254 2 0 0)) 16 loc = .ok (bs, [], s0))
    ∧ (Solo (.ld64 7 15 2) (shortMem 7 15 2) memState (cur [0]) memTeam grp0 ctx0 0 ∧ asLong (.ld64 7 15 2) = some (0x90, shortMem 7 15 2)
      ∧ ∃ loc bs s0, checkGlobal memState ctx0 (srcV memEnv 2 + 8 * 7) 8 .load = .ok loc
        ∧ loadLoc memState 0 0 (srcV memEnv 2 + 8 * 7) 8 loc = .ok (bs, [], s0))
    ∧ (Solo (.ldl (fld 1 3 0 0)) (fld 1 3 0 0) memState (cur [0]) memTeam grp0 ctx0 0
      ∧ ∃ r, localLoad memState ctx0 1000 (effAddr memEnv (fld 1 3 0 0)) 8 8 = .ok r)
    ∧ (Solo (.ldacq (fld 1 2 0 0 0 6)) (fld 1 2 0 0 0 6) memState (cur [0]) memTeam grp0 ctx0 0
      ∧ ∃ loc bs s0, checkGlobal memState ctx0 (effAddr memEnv (fld 1 2 0 0 0 6)) 8 .load = .ok loc
        ∧ loadLoc memState 0 0 (effAddr memEnv (fld 1 2 0 0 0 6)) 8 loc = .ok (bs, [], s0)) :=
  ⟨room _ (by decide +kernel), ⟨memSolo _ _ (by decide +kernel) (by decide +kernel), okLoad (by decide +kernel)⟩,
   ⟨memSolo _ _ (by decide +kernel) (by decide +kernel), okLoad (by decide +kernel)⟩,
   ⟨memSolo _ _ (by decide +kernel) (by decide +kernel), rfl, okLoad (by decide +kernel)⟩,
   ⟨memSolo _ _ (by decide +kernel) (by decide +kernel), okOf (by decide +kernel)⟩,
   ⟨memSolo _ _ (by decide +kernel) (by decide +kernel), okLoad (by decide +kernel)⟩⟩
theorem okBytes {α β γ : Type} {a : Except FaultInfo (α × List β × γ)} (h : (match a with | .ok (_, [], _) => true | _ => false) = true) :
    ∃ p q, a = .ok (p, [], q) := by
  match a, h with
  | .ok (p, [], q), _ => exact ⟨p, q, rfl⟩
/-- The chain of checks and reads of an LDMX. -/
theorem okChain {α β γ δ ε ζ : Type} {a : Except FaultInfo α} {b : Except FaultInfo β} {c : α → β → Except FaultInfo (γ × δ × ε)}
    {d : ε → Except FaultInfo ζ}
    (h : (match a, b with
      | .ok x, .ok y => (match c x y with | .ok (_, _, s) => (d s).isOk | .error _ => false)
      | _, _ => false) = true) :
    ∃ x y p k s z, a = .ok x ∧ b = .ok y ∧ c x y = .ok (p, k, s) ∧ d s = .ok z := by
  match a, b, h with
  | .ok x, .ok y, h =>
    simp only at h
    match e : c x y, h with
    | .ok (p, k, s), h => exact ⟨x, y, p, k, s, _, rfl, rfl, e, (okOf h).choose_spec⟩
/-- LDP at element 8, from the scratchpad (m[3]) and from memory, of as many elements as the slot has; LDMX of a line. -/
theorem witness_LoadsIssue_packed : slotGood ctx0 0 (fun _ => true) ∧ (fld 1 4 3 2 0 8).c.toNat ≤ elems (slotDef ctx0 0)
    ∧ (Solo (.ldp (fld 1 4 3 2 0 8)) (fld 1 4 3 2 0 8) memState (cur [0]) memTeam grp0 ctx0 0
      ∧ ∃ r, localLoad memState ctx0 1000 (srcA memEnv (fld 1 4 3 2 0 8) + 8 * 32 / 8) 8 1 = .ok r)
    ∧ (Solo (.ldp (fld 1 2 3 0)) (fld 1 2 3 0) memState (cur [0]) memTeam grp0 ctx0 0
      ∧ ∃ bs s0, loadBytes memState ctx0 0 0 (srcA memEnv (fld 1 2 3 0) + 8 * 32 / 8) 8 .load = .ok (bs, [], s0))
    ∧ (Solo (.ldmx (fld 251 2 2 0 3)) (fld 251 2 2 0 3) memState (cur [0]) memTeam grp0 ctx0 0 ∧ slotGood ctx0 3 mxFormat
      ∧ mxRegs (slotDef ctx0 3).w = 4 ∧ srcA memEnv (fld 251 2 2 0 3) = 0x20000
      ∧ ∃ r1 r2 b1 k1 s1 z, loadLocs memState ctx0 0x20000 32 .mxLoad = .ok r1 ∧ loadLocs memState ctx0 0x20000 1 .mxLoad = .ok r2
        ∧ loadBytes (dropSectors memState memEnv (r1 ++ r2)) ctx0 0 0 0x20000 32 .mxLoad = .ok (b1, k1, s1)
        ∧ loadBytes s1 ctx0 0 0 0x20000 1 .mxLoad = .ok z) := by
  exact ⟨preset0.1, by decide +kernel, ⟨memSolo _ _ (by decide +kernel) (by decide +kernel), okOf (by decide +kernel)⟩,
    ⟨memSolo _ _ (by decide +kernel) (by decide +kernel), okBytes (by decide +kernel)⟩,
    memSolo _ _ (by decide +kernel) (by decide +kernel), by unfold slotGood; decide +kernel, by decide +kernel, by decide +kernel,
    okChain (by decide +kernel)⟩

theorem witness_StoresIssue : Room memState (cur [0]) grp0 .stores
    ∧ (∀ f ∈ [fld 255 2 3 0 0 0x20], Solo (.st f) f memState (cur [0]) memTeam grp0 ctx0 0
      ∧ ∃ loc, checkGlobal memState ctx0 (effAddr memEnv f) 8 .store = .ok loc)
    ∧ (∀ f ∈ [fld 254 2 0 0], Solo (.stw f) f memState (cur [0]) memTeam grp0 ctx0 0
      ∧ ∃ loc, checkGlobal memState ctx0 (effAddr memEnv f) 16 .store = .ok loc)
    ∧ (Solo (.st64 7 15 2) (shortMem 7 15 2) memState (cur [0]) memTeam grp0 ctx0 0 ∧ asLong (.st64 7 15 2) = some (0x91, shortMem 7 15 2)
      ∧ ∃ loc, checkGlobal memState ctx0 (srcV memEnv 2 + 8 * 7) 8 .store = .ok loc)
    ∧ (∀ f ∈ [fld 1 3 0 0], Solo (.stl f) f memState (cur [0]) memTeam grp0 ctx0 0
      ∧ ∃ s0, localStore memState 1000 (writerOf memTeam 0 0) (effAddr memEnv f) 8 8 (fullUnit (effAddr memEnv f) (leBytes 8 (srcD memEnv f))) = .ok s0)
    ∧ (∀ f ∈ [fld 1 2 0 0], Solo (.stnt f) f memState (cur [0]) memTeam grp0 ctx0 0
      ∧ ∃ loc, checkGlobal memState ctx0 (effAddr memEnv f) 8 .store = .ok loc)
    ∧ (∀ f ∈ [fld 1 2 0 0 0 5], Solo (.strel f) f memState (cur [0]) memTeam grp0 ctx0 0
      ∧ (∃ loc, checkGlobal memState ctx0 (effAddr memEnv f) 8 .store = .ok loc) ∧ ∃ s1, release memState memEnv 5 = .ok s1) := by
  refine ⟨room _ (by decide +kernel), ?_, ?_, ⟨memSolo _ _ (by decide +kernel) (by decide +kernel), rfl, okOf (by decide +kernel)⟩, ?_, ?_, ?_⟩ <;>
    · intro f m
      cases List.mem_singleton.1 m
      first
      | exact ⟨memSolo _ _ (by decide +kernel) (by decide +kernel), okOf (by decide +kernel)⟩
      | exact ⟨memSolo _ _ (by decide +kernel) (by decide +kernel), okOf (by decide +kernel), okStep (by decide +kernel)⟩
theorem witness_StoresIssue_packed :
    (Solo (.stp (fld 1 4 3 2 0 8)) (fld 1 4 3 2 0 8) memState (cur [0]) memTeam grp0 ctx0 0
      ∧ ∃ s0, localStore memState 1000 (writerOf memTeam 0 0) 0x60 8 1
        ((streamBytes 32 0 2 (srcD memEnv (fld 1 4 3 2 0 8)) 8).zipIdx.map (fun p => (0x60 + p.2, p.1.1, p.1.2))) = .ok s0)
    ∧ (Solo (.stp (fld 1 2 3 0)) (fld 1 2 3 0) memState (cur [0]) memTeam grp0 ctx0 0
      ∧ ∃ runs, storeLocs memState ctx0 (srcA memEnv (fld 1 2 3 0) + 8 * 32 / 8) 8 .store = .ok runs)
    ∧ (Solo (.stmx (fld 251 2 2 0 3)) (fld 251 2 2 0 3) memState (cur [0]) memTeam grp0 ctx0 0
      ∧ slotGood ctx0 3 mxFormat ∧ (∃ r1, storeLocs memState ctx0 (srcA memEnv (fld 251 2 2 0 3)) 32 .mxStore = .ok r1)
      ∧ ∃ r2, storeLocs memState ctx0 (srcBz memEnv (fld 251 2 2 0 3)) 1 .mxStore = .ok r2) :=
  ⟨⟨memSolo _ _ (by decide +kernel) (by decide +kernel), okOf (by decide +kernel)⟩,
   ⟨memSolo _ _ (by decide +kernel) (by decide +kernel), okOf (by decide +kernel)⟩,
   memSolo _ _ (by decide +kernel) (by decide +kernel), by unfold slotGood; decide +kernel, okOf (by decide +kernel), okOf (by decide +kernel)⟩

/-! ## Witnesses: data that returns, short forms, windows -/

def retGroup (form : RForm) (n : Nat) : Group := { grp0 with ops := [loadOp grp0 0 ((List.range n).map (fun i => BitVec.ofNat 8 (i + 1))) form], nextOp := 1 }
/-- A double word to v255, LDW to v254 and v255, a block and its scale to v251 to v255, an element, a g register. -/
theorem witness_DataReturns : ∀ p ∈ [(RForm.typed false 255 7, 1), (.typed true 63 0, 8), (.pair false 254, 16), (.packed false 255 32 2 0, 8),
      (.mx 251 8, 33), (.elem 1 32, 4), (.word 255, 8)],
    let G := retGroup p.1 p.2
    Stands (st [0] (tm [] G)) (cur [0]) (tm [] G) G ctx0 ∧ (tm [] G).lpoison = [] ∧ (tm [] G).lmem.wf = true
    ∧ ∃ o q, o ∈ G.ops ∧ (∀ r ∈ G.ops, r.id = o.id → r = o) ∧ o.done = false ∧ o.kind = .parts ∧ o.parts = [q] ∧ q.lane = 0
      ∧ q.o = G.o ∧ q.ready = true ∧ q.nf = 0 ∧ q.form = p.1 ∧ hostReqs (st [0] (tm [] G)) (cur [0]).w o.id = [] := fun p _ =>
  ⟨⟨rfl, rfl, rfl, rfl, by simp [cur, retGroup, grp0, groupStart], by simp [cur], rfl⟩, rfl, rfl,
   _, _, List.mem_singleton.2 rfl, fun _ m _ => List.mem_singleton.1 m, rfl, rfl, rfl, rfl, rfl, rfl, rfl, rfl, rfl⟩

theorem witness_ShortForms : ∀ i ∈ [Instr.mov16 0 15, .iadd16 15 1, .iadd16Imm 1 15, .isub16 1 2, .isub16Imm 1 15, .and16 1 2, .or16 1 2,
    .xor16 1 2, .shl16 1 2, .shr16 1 2, .shl16Imm 3 1 15, .shr16Imm 3 1 15, .fadd16 1 2, .fmul16 1 2, .fmax16 1 2, .bra16 0x400,
    .setp16 0 1 2, .setp16 5 1 2, .nop16], Ready i (st [0, 31] (tm [])) (cur [0, 31]) (tm []) grp0 ctx0 := pairReady _ (by decide +kernel)

/-- A group of two threads with 8 free ring rows, its backing store of one row, and `res` caller rows resident. -/
def winGroup (res bsp : Nat) : Group :=
  { groupStart 0 [thr, thr] 0x30000 0x30100 with started := true, argsRead := true, res := res, bsp := BitVec.ofNat 64 bsp }
def winKern : Kern := { flatKern 256 0 with w := 8 }
/-- v0 and v2 of both lanes hold a handle of code object 1. -/
def winTeam (G : Group) : Team := { tm ([(0, 0), (1, 0), (0, 2), (1, 2)].foldl (fun (m : Mem) p => Mem.writeN m (vAddr winKern (groupStart 0 [] 0 0) p.1 p.2) 8 (2 ^ 40 + 8)) []) G with kern := winKern }
def winState (G : Group) : State := withCore coded (st [0, 1] (winTeam G))
def winHold (G : Group) (op : Nat) (f : Fld) : State :=
  modThreads (winState G) (cur [0, 1]).w [0, 1] (fun th => { th with status := .heldWindow op f 0x100008 0 })
/-- All live threads of the group stand at the window operation. -/
theorem winWf (G : Group) : (winTeam G).lmem.wf = true :=
  (by decide +kernel : (winTeam (groupStart 0 [] 0 0)).lmem.wf = true)
structure AllStand (G : Group) (f : Fld) (i : Instr) : Prop where
  ready : Ready i (winState G) (cur [0, 1]) (winTeam G) G ctx0
  role : (winTeam G).role = .compute
  all : acting (cur [0, 1]) G f = [0, 1] ∧ liveLanes G = [0, 1]
  stands : ∀ l ∈ [0, 1], (laneEnv (cur [0, 1]) (winTeam G) G ctx0 l).th.pc.toNat = 0x100000
    ∧ (laneEnv (cur [0, 1]) (winTeam G) G ctx0 l).th.gen = (cur [0, 1]).gen
theorem allAt (res bsp : Nat) (f : Fld) (i : Instr) (h : fits i = true) (hg : acting (cur [0, 1]) (winGroup res bsp) f = [0, 1]) :
    AllStand (winGroup res bsp) f i :=
  ⟨ready ⟨rfl, rfl, rfl, rfl, by simp [cur, winGroup, groupStart], by simp [cur], rfl⟩ h rfl rfl (winWf _), rfl, ⟨hg, rfl⟩, fun l m => by
    simp only [List.mem_cons, List.not_mem_nil, or_false] at m
    rcases m with rfl | rfl <;> exact ⟨rfl, rfl⟩⟩
/-- How rows move for threads of lanes 0 and 1, through the environment of the first. -/
def winFirst (G : Group) (op : Nat) (f : Fld) : Option Env := env? (winHold G op f) (heldCur (cur [0, 1]).w [0] 0x100000 0x100008 0 0 f) 0
def winSpill (G : Group) (op : Nat) (f : Fld) (s : State) (r va : Nat) : Except FaultInfo State :=
  match winFirst G op f with | some e => spillRow s e r va | none => .ok s
def winFill (G : Group) (op : Nat) (f : Fld) (s : State) (r va : Nat) : Except FaultInfo State :=
  match winFirst G op f with | some e => fillRow s e r va | none => .ok s
/-- Nine rows more than the ring has room for spill one row, to the end of the backing store. -/
theorem witness_RegisterWindows_calls :
    (∀ p ∈ [(Instr.callW (fld 9 0 1 0), fld 9 0 1 0, 6), (.callxW (fld 9 2 0 0), fld 9 2 0 0, 7)], AllStand (winGroup 0 0x30000) p.2.1 p.1
      ∧ ∃ s1, moveRows (winSpill (winGroup 0 0x30000) p.2.2 p.2.1) (winHold (winGroup 0 0x30000) p.2.2 p.2.1) ((List.range 1).map (fun r => 0 + 264 - 0 + r)) 0x30000 = .ok s1)
    ∧ 0 + 9 + 256 - 264 = 1 ∧ (winGroup 0 0x30000).bsp.toNat + 256 ≤ (winGroup 0 0x30000).bsl.toNat
    ∧ Keeps (winState (winGroup 0 0x30000)) ctx0 (winTeam (winGroup 0 0x30000)) 1 0x100000 0x1000
    ∧ (∀ l ∈ [0, 1], srcA (laneEnv (cur [0, 1]) (winTeam (winGroup 0 0x30000)) (winGroup 0 0x30000) ctx0 l) (fld 9 2 0 0) = 2 ^ 40 + 8
      ∧ readV (winTeam (winGroup 0 0x30100)) (winGroup 0 0x30100) l 0 = 2 ^ 40 + 8) := by
  refine ⟨fun p m => ?_, rfl, by decide, by unfold Keeps; decide +kernel, by decide +kernel⟩
  simp only [List.mem_cons, List.not_mem_nil, or_false] at m
  rcases m with rfl | rfl <;> exact ⟨allAt _ _ _ _ (by decide +kernel) (by decide +kernel), okOf (by decide +kernel)⟩
/-- A return over one row that is in the backing store; SPILL to its end, FILL from its start; the frame limits. -/
theorem witness_RegisterWindows_moves :
    (AllStand (winGroup 0 0x30100) (fld 1 0 0 0) (.retW (fld 1 0 0 0)) ∧ (winGroup 0 0x30100).bsb.toNat + 256 * (1 - 0) ≤ (winGroup 0 0x30100).bsp.toNat
      ∧ ∃ s1, moveRows (winFill (winGroup 0 0x30100) 9 (fld 1 0 0 0)) (winHold (winGroup 0 0x30100) 9 (fld 1 0 0 0)) ((List.range 1).map (fun r => 0 + 1 * 264 - 1 + r)) 0x30000 = .ok s1)
    ∧ (AllStand (winGroup 1 0x30000) (fld 1 0 0 0) (.spill (fld 1 0 0 0)) ∧ 1 ≤ (winGroup 1 0x30000).res
      ∧ (winGroup 1 0x30000).bsp.toNat + 256 * 1 ≤ (winGroup 1 0x30000).bsl.toNat
      ∧ ∃ s1, moveRows (winSpill (winGroup 1 0x30000) 0x0B (fld 1 0 0 0)) (winHold (winGroup 1 0x30000) 0x0B (fld 1 0 0 0)) ((List.range 1).map (fun r => 0 + 264 - 1 + r)) 0x30000 = .ok s1)
    ∧ (AllStand (winGroup 7 0x30100) (fld 1 0 0 0) (.fill (fld 1 0 0 0)) ∧ 7 + 1 + 256 ≤ 264
      ∧ (winGroup 7 0x30100).bsb.toNat + 256 * 1 ≤ (winGroup 7 0x30100).bsp.toNat
      ∧ ∃ s1, moveRows (winFill (winGroup 7 0x30100) 0x0C (fld 1 0 0 0)) (winHold (winGroup 7 0x30100) 0x0C (fld 1 0 0 0)) ((List.range 1).map (fun r => 0 + 264 - 7 - 1 + r)) (0x30100 - 256 * 1) = .ok s1)
    ∧ (AllStand (winGroup 0 0x30000) (fld 1 0 0 0) (.spill (fld 1 0 0 0)) ∧ (winGroup 0 0x30000).res < 1)
    ∧ (AllStand (winGroup 1 0x30100) (fld 1 0 0 0) (.spill (fld 1 0 0 0)) ∧ (winGroup 1 0x30100).bsl.toNat < (winGroup 1 0x30100).bsp.toNat + 256 * 1)
    ∧ (AllStand (winGroup 8 0x30100) (fld 1 0 0 0) (.fill (fld 1 0 0 0)) ∧ 264 < 8 + 1 + 256)
    ∧ (AllStand (winGroup 0 0x30000) (fld 1 0 0 0) (.fill (fld 1 0 0 0)) ∧ (winGroup 0 0x30000).bsp.toNat < (winGroup 0 0x30000).bsb.toNat + 256 * 1) :=
  ⟨⟨allAt _ _ _ _ (by decide +kernel) (by decide +kernel), by decide, okOf (by decide +kernel)⟩,
   ⟨allAt _ _ _ _ (by decide +kernel) (by decide +kernel), by decide, by decide, okOf (by decide +kernel)⟩,
   ⟨allAt _ _ _ _ (by decide +kernel) (by decide +kernel), by decide, by decide, okOf (by decide +kernel)⟩,
   ⟨allAt _ _ _ _ (by decide +kernel) (by decide +kernel), by decide⟩, ⟨allAt _ _ _ _ (by decide +kernel) (by decide +kernel), by decide⟩,
   ⟨allAt _ _ _ _ (by decide +kernel) (by decide +kernel), by decide⟩, ⟨allAt _ _ _ _ (by decide +kernel) (by decide +kernel), by decide⟩⟩

/-- One row more than the backing store has room for, and a return below its start. -/
theorem witness_RegisterWindows_limits :
    (∀ p ∈ [(Instr.callW (fld 9 0 1 0), fld 9 0 1 0), (.callxW (fld 9 2 0 0), fld 9 2 0 0)], AllStand (winGroup 0 0x30100) p.2 p.1
      ∧ (winGroup 0 0x30100).bsl.toNat < (winGroup 0 0x30100).bsp.toNat + 256 * (0 + 9 + 256 - 264))
    ∧ AllStand (winGroup 0 0x30000) (fld 1 0 0 0) (.retW (fld 1 0 0 0))
    ∧ (winGroup 0 0x30000).bsp.toNat < (winGroup 0 0x30000).bsb.toNat + 256 * (1 - 0) := by
  refine ⟨fun p m => ?_, allAt _ _ _ _ (by decide +kernel) (by decide +kernel), by decide⟩
  simp only [List.mem_cons, List.not_mem_nil, or_false] at m
  rcases m with rfl | rfl <;> exact ⟨allAt _ _ _ _ (by decide +kernel) (by decide +kernel), by decide⟩

/-! ## Witnesses: threads, waits, maintenance, publication, barriers -/

theorem okMem {a : Except FaultInfo Loc} (h : (match a with | .ok (.mem _ _) => true | _ => false) = true) : ∃ pa ty, a = .ok (.mem pa ty) := by
  match a, h with
  | .ok (.mem pa ty), _ => exact ⟨pa, ty, rfl⟩
theorem okLow {a : Except FaultInfo Loc} {p : Nat → Nat → Bool} (h : (match a with | .ok (.mem pa ty) => p pa ty | _ => false) = true) :
    ∃ pa ty, a = .ok (.mem pa ty) ∧ p pa ty = true := by
  match a, h with
  | .ok (.mem pa ty), h => exact ⟨pa, ty, rfl, h⟩
theorem grp0Threads (l : Nat) (u : Thread) (h : grp0.threads[l]? = some u) : u = thr := by
  rw [threads0] at h; split at h <;> cases h; rfl

theorem witness_ExitEndsTheThread : Solo (.exit (fld 0 0 0 0)) (fld 0 0 0 0) memState (cur [0]) memTeam grp0 ctx0 0
    ∧ memTeam.role = .compute ∧ grp0.threads[0]? = some thr ∧ thr.late = [] ∧ thr.linkFails = 0 ∧ memState.outReqs = []
    ∧ ∀ (m : Nat) (u : Thread), grp0.threads[m]? = some u → ∀ a b d e, u.status ≠ .heldLane a b d e ∧ u.status ≠ .heldWindow a b d e :=
  ⟨memSolo _ _ (by decide +kernel) (by decide +kernel), rfl, rfl, rfl, rfl, rfl, fun m u h a b d e => by
    rw [grp0Threads m u h]; exact ⟨by simp [thr, threadStart], by simp [thr, threadStart]⟩⟩

/-- A group of one thread that waits. -/
def waitGroup (w : Wait) (k : Watch) : Group := { grp0 with threads := [{ thr with status := .waiting w, watch := some k }] }
def waitTeam (w : Wait) (k : Watch) : Team := tm [] (waitGroup w k)
def waitState (w : Wait) (k : Watch) : State := st [0] (waitTeam w k)
/-- The word at 0x20000 is 0, the comparand 8: `=` waits and `≠` passes. -/
theorem witness_WaitingOnMemory :
    (∀ p ∈ [(0, false), (1, true)], let f := fld 255 2 3 p.1 0 5
      Solo (.waitmem f) f memState (cur [0]) memTeam grp0 ctx0 0 ∧ memTeam.role = .compute
        ∧ (∃ pa ty, checkGlobal memState ctx0 (srcA memEnv f) (tyWidth 0 / 8) .monitor = .ok (.mem pa ty) ∧ poisoned memState pa (tyWidth 0 / 8) = false)
        ∧ decide (f.c.toNat % 8 = 0) ≠ p.2)
    ∧ (let k := Watch.word 0x20000 8 0 0 8 (some (false, 255)) 0x100008 (some 8)
      let s := waitState .monitor k
      team? s 1000 = some (waitTeam .monitor k) ∧ grp? (waitTeam .monitor k) 0 = some (waitGroup .monitor k)
        ∧ ctxOf s (waitTeam .monitor k) = some ctx0 ∧ ∃ th, (waitGroup .monitor k).threads[0]? = some th ∧ th.status = .waiting .monitor ∧ th.watch = some k)
    ∧ (Solo (.park (fld 0 0 0 0)) (fld 0 0 0 0) memState (cur [0]) memTeam grp0 ctx0 0 ∧ (∃ pas, placesOf memState ctx0 0x100000 8 .park = .ok pas)
      ∧ (Machine.core memState 0 0).icache = [])
    ∧ (let k := Watch.parked [0x100000] true
      let s := waitState .park k
      team? s 1000 = some (waitTeam .park k) ∧ grp? (waitTeam .park k) 0 = some (waitGroup .park k)
        ∧ ctxOf s (waitTeam .park k) = some ctx0 ∧ ∃ th, (waitGroup .park k).threads[0]? = some th ∧ th.status = .waiting .park ∧ th.watch = some k) := by
  refine ⟨fun p m => ?_, ⟨rfl, rfl, rfl, _, rfl, rfl, rfl⟩, ⟨memSolo _ _ (by decide +kernel) (by decide +kernel), okOf (by decide +kernel), rfl⟩,
    ⟨rfl, rfl, rfl, _, rfl, rfl, rfl⟩⟩
  simp only [List.mem_cons, List.not_mem_nil, or_false] at m
  rcases m with rfl | rfl <;>
    exact ⟨memSolo _ _ (by decide +kernel) (by decide +kernel), rfl,
      (okLow (p := fun pa _ => poisoned memState pa (tyWidth 0 / 8) == false) (by decide +kernel)).imp (fun _ h => h.imp (fun _ h => ⟨h.1, by simpa using h.2⟩)), by decide⟩

/-- v6 of lanes 0 and 31 is the definition in preset 0; v7 a definition that breaks R58. -/
def defTeam : Team := tm (vmem [(6, (fdPresets.getD 0 0).toNat), (7, 0xFFFFFFFFFFFFFFFF)])
/-- Lengths 0, 8 and 64; preset 0 and a word that breaks R58. -/
theorem witness_MaintenanceAndSlots :
    (∀ i ∈ [Instr.icinv, Instr.cwb], Solo (i (fld 0 2 9 0)) (fld 0 2 9 0) memState (cur [0]) memTeam grp0 ctx0 0 ∧ srcBz memEnv (fld 0 2 9 0) = 0)
    ∧ Solo (.icinv (fld 0 2 3 0 0 5)) (fld 0 2 3 0 0 5) memState (cur [0]) memTeam grp0 ctx0 0
    ∧ Solo (.cwb (fld 0 2 3 0)) (fld 0 2 3 0) memState (cur [0]) memTeam grp0 ctx0 0
    ∧ srcA memEnv (fld 0 2 3 0) = 0x20000 ∧ srcBz memEnv (fld 0 2 3 0) = 8 ∧ findWindow ctx0.wd 0x20000 = none
    ∧ (∃ pa ty, locate memState ctx0 0x20000 .cwb = .ok (.mem pa ty) ∧ decide (ty < 2) = true)
    ∧ Solo (.cdisc (fld 0 2 4 0)) (fld 0 2 4 0) memState (cur [0]) memTeam grp0 ctx0 0 ∧ srcBz memEnv (fld 0 2 4 0) = 64
    ∧ (∃ pa ty, locate memState ctx0 0x20000 .cdisc = .ok (.mem pa ty))
    ∧ ∀ p ∈ [(6, true), (7, false)], let f := fld 0 p.1 0 0 15
      Ready (.fdset f) (st [0, 31] defTeam) (cur [0, 31]) defTeam grp0 ctx0 ∧ acting (cur [0, 31]) grp0 f = [0, 31]
        ∧ fdrValid (srcA (laneEnv (cur [0, 31]) defTeam grp0 ctx0 0) f) = p.2 := by
  refine ⟨fun i m => ?_, memSolo _ _ (by decide +kernel) (by decide +kernel), memSolo _ _ (by decide +kernel) (by decide +kernel),
    by decide +kernel, by decide +kernel, by decide +kernel, okLow (by decide +kernel),
    memSolo _ _ (by decide +kernel) (by decide +kernel), by decide +kernel, okMem (by decide +kernel), fun p m => ?_⟩ <;>
    (simp only [List.mem_cons, List.not_mem_nil, or_false] at m; rcases m with rfl | rfl)
  · exact ⟨memSolo _ _ (by decide +kernel) (by decide +kernel), by decide +kernel⟩
  · exact ⟨memSolo _ _ (by decide +kernel) (by decide +kernel), by decide +kernel⟩
  · exact ⟨ready ⟨rfl, rfl, rfl, rfl, by decide, by decide, rfl⟩ (by decide +kernel) rfl rfl (by decide +kernel), by decide +kernel, by decide +kernel⟩
  · exact ⟨ready ⟨rfl, rfl, rfl, rfl, by decide, by decide, rfl⟩ (by decide +kernel) rfl rfl (by decide +kernel), by decide +kernel, by decide +kernel⟩

/-- Scopes 0, 2, 3 and 6 of a core that holds stores. -/
def dirtyState : State := withCore dirtyCore memState
theorem dirtyStand : Stands dirtyState (cur [0]) memTeam grp0 ctx0 := ⟨rfl, rfl, rfl, rfl, by decide, by decide, rfl⟩
theorem witness_PublicationInstructions : (∀ m ∈ [0, 2, 3, 6], ∀ i ∈ [Instr.pub, .acq, .phase, .fence],
      Solo (i (fld 0 0 0 0 0 m)) (fld 0 0 0 0 0 m) dirtyState (cur [0]) memTeam grp0 ctx0 0)
    ∧ (∀ m ∈ [0, 2, 3, 6], ∃ s1, release dirtyState memEnv m = .ok s1) ∧ dirtyState.outReqs = []
    ∧ Solo (.ntdrain (fld 0 0 0 0)) (fld 0 0 0 0) dirtyState (cur [0]) memTeam grp0 ctx0 0 ∧ memTeam.role = .compute ∧ thr.linkFails = 0 := by
  refine ⟨fun m hm i hi => ?_, fun m hm => ?_, rfl, soloAt dirtyStand (by decide +kernel) rfl rfl (by decide +kernel) (by decide +kernel), rfl, rfl⟩
  · have h : fits (i (fld 0 0 0 0 0 m)) = true := by
      simp only [List.mem_cons, List.not_mem_nil, or_false] at hm hi
      rcases hm with rfl | rfl | rfl | rfl <;> rcases hi with rfl | rfl | rfl | rfl <;> decide
    exact soloAt dirtyStand h rfl rfl (by decide +kernel) rfl
  · simp only [List.mem_cons, List.not_mem_nil, or_false] at hm
    rcases hm with rfl | rfl | rfl | rfl <;> exact okStep (by decide +kernel)
theorem witness_ReleaseAndAcquire : team? dirtyState memEnv.t.uid = some memEnv.t ∧ memEnv.t.stashDirty = [] ∧ dirtyState.home.wf = true
    ∧ dirtyState.poison = [] ∧ (Machine.core dirtyState memEnv.t.die memEnv.t.site).dirty.Pairwise (fun d k => d.sid ≤ k.sid)
    ∧ (∀ d ∈ (Machine.core dirtyState memEnv.t.die memEnv.t.site).dirty, ∀ y, ctx? dirtyState d.w.ctx = some y → y.det = false)
    ∧ ∃ s1, release dirtyState memEnv 3 = .ok s1 :=
  ⟨rfl, rfl, by decide +kernel, rfl, by decide +kernel, witness_StoresReachTheirHome.2.2.2.2, okStep (by decide +kernel)⟩

/-- A group of one thread, which has arrived on these barriers, in the current phase or not since a BWAIT. -/
def barGroup (arr anw : Nat) : Group := { grp0 with threads := [{ thr with arr := BitVec.ofNat 28 arr, anw := BitVec.ofNat 28 anw }] }
def barTeam (arr anw : Nat) : Team := tm [] (barGroup arr anw)
def barState (arr anw : Nat) : State := st [0] (barTeam arr anw)
theorem barSolo (arr anw : Nat) (i : Instr) (f : Fld) (h : fits i = true) (hg : f.guard = 0 ∧ f.sense = false) :
    Solo i f (barState arr anw) (cur [0]) (barTeam arr anw) (barGroup arr anw) ctx0 0 := by
  refine soloAt ⟨rfl, rfl, rfl, rfl, by simp [cur, barGroup, grp0, groupStart], by simp [cur], rfl⟩ h rfl rfl rfl ?_
  simp [acting, cur, barGroup, guardTrue, predOf, hg.1, hg.2, thr, threadStart]
theorem witness_BarrierInstructions :
    (Solo (.arrive (fld 15 0 3 0)) (fld 15 0 3 0) (barState 0 0) (cur [0]) (barTeam 0 0) (barGroup 0 0) ctx0 0
      ∧ barRef (barState 0 0) (barTeam 0 0) 15 = some (.team 15) ∧ ∃ s1, release (barState 0 0) (laneEnv (cur [0]) (barTeam 0 0) (barGroup 0 0) ctx0 0) 2 = .ok s1)
    ∧ (∀ arr ∈ [0, 1], Solo (.bwait (fld 255 0 0 0)) (fld 255 0 0 0) (barState arr 1) (cur [0]) (barTeam arr 1) (barGroup arr 1) ctx0 0
      ∧ barRef (barState arr 1) (barTeam arr 1) 0 = some (.team 0))
    ∧ (Solo (.bsync (fld 255 0 3 0)) (fld 255 0 3 0) (barState 0 0) (cur [0]) (barTeam 0 0) (barGroup 0 0) ctx0 0
      ∧ barRef (barState 0 0) (barTeam 0 0) 0 = some (.team 0)
      ∧ let s2 := barArrive (barState 0 0) (laneEnv (cur [0]) (barTeam 0 0) (barGroup 0 0) ctx0 0) (.team 0) 0 0
        ∃ t2 th2, team? s2 1000 = some t2 ∧ thread? s2 (cur [0]).w 0 = some th2 ∧ barRef s2 (barTeam 0 0) 0 = some (.team 0) ∧ bit th2.anw.toNat 0 = true)
    ∧ (∀ n ∈ [0, 14, 15], Solo (.wait (fld n n n n)) (fld n n n n) (barState 0 0) (cur [0]) (barTeam 0 0) (barGroup 0 0) ctx0 0)
    ∧ (NoPatch (barState 0 0) (cur [0]) (barTeam 0 0) ctx0
      ∧ Solo (.arrive (fld 16 0 3 0)) (fld 16 0 3 0) (barState 0 0) (cur [0]) (barTeam 0 0) (barGroup 0 0) ctx0 0 ∧ barRef (barState 0 0) (barTeam 0 0) 16 = none
      ∧ Solo (.bwait (fld 255 0 0 0)) (fld 255 0 0 0) (barState 0 0) (cur [0]) (barTeam 0 0) (barGroup 0 0) ctx0 0
      ∧ Solo (.arrive (fld 0 0 3 0)) (fld 0 0 3 0) (barState 1 1) (cur [0]) (barTeam 1 1) (barGroup 1 1) ctx0 0) := by
  refine ⟨⟨barSolo _ _ _ _ (by decide +kernel) ⟨rfl, rfl⟩, rfl, _, rfl⟩, fun arr _ => ⟨barSolo _ _ _ _ (by decide +kernel) ⟨rfl, rfl⟩, rfl⟩,
    ⟨barSolo _ _ _ _ (by decide +kernel) ⟨rfl, rfl⟩, rfl, _, _, rfl, rfl, rfl, by decide +kernel⟩, fun n m => ?_, ⟨rfl, .inr rfl⟩,
    barSolo _ _ _ _ (by decide +kernel) ⟨rfl, rfl⟩, rfl, barSolo _ _ _ _ (by decide +kernel) ⟨rfl, rfl⟩, barSolo _ _ _ _ (by decide +kernel) ⟨rfl, rfl⟩⟩
  simp only [List.mem_cons, List.not_mem_nil, or_false] at m
  rcases m with rfl | rfl | rfl <;> exact barSolo _ _ _ _ (by decide +kernel) ⟨rfl, rfl⟩
/-- The only thread of a team arrives, which completes the phase; the first of 32 arrives, which does not. -/
theorem witness_BarrierPhases :
    (team? (barState 0 0) 1000 = some (barTeam 0 0) ∧ grp? (barTeam 0 0) 0 = some (barGroup 0 0) ∧ (barTeam 0 0).tbs[15]? = some barrier0
      ∧ ((barTeam 0 0).groups.map (fun g => (g.threads.filter (fun th => th.status != .ended)).length)).sum = 1)
    ∧ (team? memState 1000 = some memTeam ∧ grp? memTeam 0 = some grp0 ∧ grp0.threads[0]? = some thr ∧ memTeam.tbs[0]? = some barrier0
      ∧ (memTeam.groups.map (fun g => (g.threads.filter (fun th => th.status != .ended)).length)).sum = 32) :=
  ⟨⟨rfl, rfl, rfl, rfl⟩, rfl, rfl, rfl, rfl, rfl⟩

/-! ## Witnesses: atomics, deques, deliveries -/

/-- The checks of an atomic, a reduction or a deque operation at HBM pass, and the claim and the release before it. -/
def HomeOk (s : State) (e : Env) (va n : Nat) (acc : Acc) (fmt : Bool) (ord scope : Nat) : Prop :=
  ∃ pa ty s2, checkGlobal s e.x va n acc = .ok (.mem pa ty) ∧ pa < 2 ^ 40 ∧ poisoned s pa n = false ∧ claimLine s e pa va fmt = .ok false
    ∧ (if 2 ≤ ord then release s e scope else .ok s) = .ok s2
def homeOkB (s : State) (e : Env) (va n : Nat) (acc : Acc) (fmt : Bool) (ord scope : Nat) : Bool :=
  match checkGlobal s e.x va n acc with
  | .ok (.mem pa _) => decide (pa < 2 ^ 40) && !poisoned s pa n && (match claimLine s e pa va fmt with
    | .ok false => (match (if 2 ≤ ord then release s e scope else .ok s) with | .ok _ => true | _ => false)
    | _ => false)
  | _ => false
theorem homeOk {s : State} {e : Env} {va n : Nat} {acc : Acc} {fmt : Bool} {ord scope : Nat} (h : homeOkB s e va n acc fmt ord scope = true) :
    HomeOk s e va n acc fmt ord scope := by
  unfold homeOkB at h
  split at h
  · rename_i pa ty h1
    simp only [Bool.and_eq_true, decide_eq_true_eq, Bool.not_eq_true'] at h
    obtain ⟨⟨h2, h3⟩, h4⟩ := h
    split at h4
    · rename_i h5
      exact ⟨pa, ty, (okStep h4).choose, h1, h2, h3, h5, (okStep h4).choose_spec⟩
    · cases h4
  · cases h
/-- The same at the unified store, with what is stored. -/
def LocalOk (s : State) (e : Env) (va n : Nat) (ord scope : Nat) (y : List Byte → Option (List Byte)) : Prop :=
  ∃ bs s1 s2 s3, localLoad s e.x e.t.uid va n n = .ok (bs, s1) ∧ (if 2 ≤ ord then release s1 e scope else .ok s1) = .ok s2
    ∧ (match y bs with | some b => localStore s2 e.t.uid (writerOf e.t e.g.idx e.lane) va n n (fullUnit va b) | none => .ok s2) = .ok s3
def localOkB (s : State) (e : Env) (va n : Nat) (ord scope : Nat) (y : List Byte → Option (List Byte)) : Bool :=
  match localLoad s e.x e.t.uid va n n with
  | .ok (bs, s1) => (match (if 2 ≤ ord then release s1 e scope else .ok s1) with
    | .ok s2 => (match y bs with | some b => localStore s2 e.t.uid (writerOf e.t e.g.idx e.lane) va n n (fullUnit va b) | none => .ok s2).isOk
    | _ => false)
  | _ => false
theorem localOk {s : State} {e : Env} {va n : Nat} {ord scope : Nat} {y : List Byte → Option (List Byte)}
    (h : localOkB s e va n ord scope y = true) : LocalOk s e va n ord scope y := by
  unfold localOkB at h
  split at h
  · rename_i bs s1 h1
    split at h
    · rename_i s2 h2; exact ⟨bs, s1, s2, (okOf h).choose, h1, h2, (okOf h).choose_spec⟩
    · cases h
  · cases h

/-- .ar at system scope; v2 is a global address, v4 a local one. -/
def atomFld (loc : Bool) (d c : Nat) (ty : Nat := 0) : Fld := fld d (if loc then 4 else 2) 3 c ty (6 + 8 * 3 + (if loc then 32 else 0))
def redFld (loc : Bool) (d c : Nat) (ty : Nat := 0) : Fld := fld d (if loc then 4 else 2) 3 c ty (5 + 8 * 2 + (if loc then 32 else 0))
theorem memOk {i : Instr} (f : Fld) (h : (fits i && decide (acting (cur [0]) grp0 f = [0])) = true) : Solo i f memState (cur [0]) memTeam grp0 ctx0 0 := by
  simp only [Bool.and_eq_true, decide_eq_true_eq] at h; exact memSolo _ _ h.1 h.2
theorem witness_AtomicsIssue : slotGood ctx0 0 atomFormat ∧ Room memState (cur [0]) grp0 .loads ∧ Room memState (cur [0]) grp0 .stores
    ∧ (∀ loc : Bool, (∀ row ∈ ([(Instr.atomAdd, .add, 0), (.atomMin, .min, 0), (.atomMax, .max, 0), (.atomAnd, .and, 0), (.atomOr, .or, 0), (.atomXor, .xor, 0),
          (.atomXchg, .xchg, 0), (.atomCas, .cas, 4)] : List ((Fld → Instr) × AtomKind × Nat)),
        Solo (row.1 (atomFld loc 255 row.2.2)) (atomFld loc 255 row.2.2) memState (cur [0]) memTeam grp0 ctx0 0)
      ∧ (∀ i ∈ [Instr.atomFadd, .atomFmin, .atomFmax], Solo (i (atomFld loc 1 0)) (atomFld loc 1 0) memState (cur [0]) memTeam grp0 ctx0 0)
      ∧ (∀ i ∈ [Instr.atomInc, .atomDec], Solo (i (atomFld loc 255 0 4)) (atomFld loc 255 0 4) memState (cur [0]) memTeam grp0 ctx0 0)
      ∧ Solo (.red (redFld loc 7 0 4)) (redFld loc 7 0 4) memState (cur [0]) memTeam grp0 ctx0 0
      ∧ Solo (.redF (redFld loc 2 0)) (redFld loc 2 0) memState (cur [0]) memTeam grp0 ctx0 0
      ∧ Solo (.atomrd (redFld loc 0 8)) (redFld loc 0 8) memState (cur [0]) memTeam grp0 ctx0 0)
    ∧ srcV memEnv 9 < 2 ^ 25 ∧ ctx0.det = false
    ∧ (∀ n ∈ [4, 8], HomeOk memState memEnv 0x20000 n (.atomic .add) false 3 6 ∧ HomeOk memState memEnv 0x20000 n (.atomic .fadd) true 3 6
      ∧ HomeOk memState memEnv 0x20000 n (.red .add) false 2 5 ∧ HomeOk memState memEnv 0x20000 n .atomrd false 2 5
      ∧ LocalOk memState memEnv 0x40 n 3 6 (fun bs => some bs) ∧ LocalOk memState memEnv 0x40 n 0 6 (fun _ => none)) := by
  refine ⟨by unfold slotGood; decide +kernel, room _ (by decide +kernel), room _ (by decide +kernel), fun loc => ⟨fun row h => ?_, fun i h => ?_, fun i h => ?_, ?_, ?_, ?_⟩,
    by decide +kernel, rfl, fun n h => ?_⟩
  · simp only [List.mem_cons, List.not_mem_nil, or_false] at h
    cases loc <;> rcases h with rfl | rfl | rfl | rfl | rfl | rfl | rfl | rfl <;> exact memOk _ (by decide +kernel)
  · simp only [List.mem_cons, List.not_mem_nil, or_false] at h
    cases loc <;> rcases h with rfl | rfl | rfl <;> exact memOk _ (by decide +kernel)
  · simp only [List.mem_cons, List.not_mem_nil, or_false] at h
    cases loc <;> rcases h with rfl | rfl <;> exact memOk _ (by decide +kernel)
  · cases loc <;> exact memOk _ (by decide +kernel)
  · cases loc <;> exact memOk _ (by decide +kernel)
  · cases loc <;> exact memOk _ (by decide +kernel)
  · simp only [List.mem_cons, List.not_mem_nil, or_false] at h
    rcases h with rfl | rfl <;>
      exact ⟨homeOk (by decide +kernel), homeOk (by decide +kernel), homeOk (by decide +kernel), homeOk (by decide +kernel),
        localOk (by decide +kernel), localOk (by decide +kernel)⟩
/-- The line at 0x20000 is marked as a deque. -/
def dequeState : State := { memState with deques := [(1024, 0)] }
theorem witness_AtomicsIssue_deques : Room dequeState (cur [0]) grp0 .loads
    ∧ (∀ p ∈ [(Instr.dqinit, fld 1 2 3 4), (.dqpush, fld 255 2 3 0), (.dqpop, fld 1 2 0 7), (.dqsteal, fld 1 2 0 0)],
      Solo (p.1 p.2) p.2 dequeState (cur [0]) memTeam grp0 ctx0 0)
    ∧ HomeOk dequeState memEnv 0x20000 128 .deque false 0 5
    ∧ ∃ s1, release dequeState memEnv 5 = .ok s1 ∧ (0x20000 / 128, 0) ∈ s1.deques := by
  refine ⟨room _ (by decide +kernel), fun p h => ?_, homeOk (by decide +kernel), _, rfl, List.mem_singleton.2 rfl⟩
  simp only [List.mem_cons, List.not_mem_nil, or_false] at h
  rcases h with rfl | rfl | rfl | rfl <;> exact soloAt ⟨rfl, rfl, rfl, rfl, by decide, by decide, rfl⟩ (by decide +kernel) rfl rfl (by decide +kernel) (by decide +kernel)

/-- A sync engine has one operation of lane 0: top, bottom, array and capacity of the deque stand at 0x20000. -/
def syncOp (op : SyncOp) (size instr : Nat) : SyncItem :=
  { id := 0, cur := cur [0], die := 0, w := { uid := 1000, group := 0 }, lane := 0, opId := 0, writer := writerOf memTeam 0 0, op := op, pa := 0x20000,
    va := 0x20000, size := size, ty := 0, fd := fdPresets.getD 0 0, fi := false, fo := false, acquire := false, scope := 6, redirect := none, instr := instr }
def header (top bot cap : Nat) : Mem := Mem.writeN (Mem.writeN (Mem.writeN (Mem.writeN pages 0x20000 8 top) 0x20008 8 bot) 0x20010 8 0x21000) 0x20018 4 cap
/-- A FENCE, PUB or PHASE whose thread has a reduction on its way waits. -/
theorem witness_PublicationInstructions_waits : let s := { memState with syncQ := [syncOp (.atomic .add 1 0) 8 0xAD] }
    ownPending s (cur [0]).w 0 = true ∧ ∀ m ∈ [2, 6], Solo (.fence (fld 0 0 0 0 0 m)) (fld 0 0 0 0 0 m) s (cur [0]) memTeam grp0 ctx0 0 := by
  refine ⟨by decide +kernel, fun m h => ?_⟩
  simp only [List.mem_cons, List.not_mem_nil, or_false] at h
  rcases h with rfl | rfl <;> exact soloAt ⟨rfl, rfl, rfl, rfl, by decide, by decide, rfl⟩ (by decide +kernel) rfl rfl (by decide +kernel) (by decide +kernel)
def pendOp : Op :=
  { id := 0, ctr := .loads, kind := .parts, done := false,
    parts := [{ lane := 0, bytes := [], links := [], form := .word 1, ready := false, nf := 0, acq := 0, o := 0 }] }
def pendGroup : Group := { grp0 with ops := [pendOp], nextOp := 1 }
def syncState (i : SyncItem) (h : Mem) : State := { st [0] (tm [] pendGroup) with syncQ := [i], home := h, deques := [(1024, 0)] }
theorem deckPlace {a : Except FaultInfo Loc} {lo hi : Nat} (h : (match a with | .ok (.mem pa _) => decide (pa < 2 ^ 40) && (decide (pa + 8 ≤ lo) || decide (hi ≤ pa)) | _ => false) = true) :
    ∃ pa ty, a = .ok (.mem pa ty) ∧ pa < 2 ^ 40 ∧ (pa + 8 ≤ lo ∨ hi ≤ pa) := by
  obtain ⟨pa, ty, h1, h2⟩ := okLow (p := fun pa _ => decide (pa < 2 ^ 40) && (decide (pa + 8 ≤ lo) || decide (hi ≤ pa))) h
  simp only [Bool.and_eq_true, Bool.or_eq_true, decide_eq_true_eq] at h2
  exact ⟨pa, ty, h1, h2⟩
/-- An atomic; DQINIT of the smallest and largest capacity; a full deque of 2, an empty one, one whose bottom is 0. -/
theorem witness_SyncEngines :
    (∀ p ∈ ([(syncOp (.atomic .add 1 0) 8 0xA0, header 0 0 0), (syncOp (.atomic .cas 1 2) 4 0xA7, header 0 0 0), (syncOp (.atomic .fadd 1 0) 4 0xAE, header 0 0 0),
        (syncOp (.dqinit 0x21000 2) 128 0xB0, header 0 0 0), (syncOp (.dqinit 0x21000 (2 ^ 20)) 128 0xB0, header 0 0 0), (syncOp (.dqinit 0x21004 1) 128 0xB0, header 0 0 0),
        (syncOp (.dqpush 7 0) 128 0xB1, header 1 3 2), (syncOp (.dqpush 7 0) 128 0xB1, header 1 2 2), (syncOp .dqpop 128 0xB2, header 2 2 2),
        (syncOp .dqpop 128 0xB2, header (2 ^ 64 - 1) 0 2), (syncOp .dqsteal 128 0xB3, header 1 3 2)] : List (SyncItem × Mem)),
      let s := syncState p.1 p.2
      s.syncQ.find? (fun j => j.die == 0) = some p.1 ∧ s.home.wf = true ∧ s.poison = [] ∧ p.1.pa + p.1.size ≤ 2 ^ 40
        ∧ team? s p.1.w.uid = some (tm [] pendGroup) ∧ ctxOf s (tm [] pendGroup) = some ctx0 ∧ grp? (tm [] pendGroup) p.1.w.group = some pendGroup
        ∧ p.1.redirect = none ∧ ∃ o ∈ pendGroup.ops, o.id = p.1.opId ∧ ∀ q ∈ pendGroup.ops, q.id = o.id → q = o)
    ∧ ∀ j ∈ [2, 2 ^ 64 - 1, 1], ∃ pa ty, checkGlobal (syncState (syncOp .dqpop 128 0xB2) (header 1 2 2)) ctx0 ((0x21000 + 8 * (j % max 1 2)) % 2 ^ 64) 8 .deque = .ok (.mem pa ty)
      ∧ pa < 2 ^ 40 ∧ (pa + 8 ≤ 0x20000 ∨ 0x20080 ≤ pa) := by
  refine ⟨fun p h => ?_, fun j h => ?_⟩ <;> simp only [List.mem_cons, List.not_mem_nil, or_false] at h
  · rcases h with rfl | rfl | rfl | rfl | rfl | rfl | rfl | rfl | rfl | rfl | rfl <;>
      exact ⟨rfl, by decide +kernel, rfl, by decide, rfl, rfl, rfl, rfl, pendOp, List.mem_singleton.2 rfl, rfl, fun q m _ => List.mem_singleton.1 m⟩
  · rcases h with rfl | rfl | rfl <;> exact deckPlace (by decide +kernel)

def grid0 (k : Kern) : Grid :=
  { acc := 0, order := 0, cls := 0, kind := 0, kern := k, desc := List.replicate 128 0, gdim := (1, 1, 1), gbs := List.replicate 4 barrier0, next := 1,
    waiting := [], live := [0], away := [], retired := [], nextRetire := 0 }
def gridCtx : Ctx := { ctx0 with grids := [grid0 (flatKern 256 0x10000)] }
def deposit (off : Nat) : Delivery := { id := 3, ctx := 0, acc := 0, bar := 15, off := off, size := 8, old := 1, rank := 0, word1 := 0, die := 0 }
def endedTeam : Team := tm [] { grp0 with threads := [{ thr with status := .ended }] }
/-- The last 8 bytes of the scratchpad, one byte beyond, and a team that has ended. -/
theorem witness_AtomrdDeliveries : ∀ p ∈ ([(0xFFF8, memTeam), (0xFFF9, memTeam), (0, endedTeam)] : List (Nat × Team)),
    let s := { st [0] p.2 gridCtx with deliveries := [deposit p.1] }
    s.deliveries.find? (fun y => y.id == 3) = some (deposit p.1) ∧ ctx? s 0 = some gridCtx ∧ grid? s 0 0 = some (grid0 (flatKern 256 0x10000))
      ∧ s.teams.find? (fun t => t.role == .compute && t.ctx == 0 && t.acc == 0 && t.rank == 0) = some p.2
      ∧ (teamEnded p.2 = false ∧ (p.1 + 8 ≤ p.2.kern.s ∨ p.2.kern.s < p.1 + 8) ∨ teamEnded p.2 = true) := fun p h => by
  simp only [List.mem_cons, List.not_mem_nil, or_false] at h
  rcases h with rfl | rfl | rfl
  · exact ⟨rfl, rfl, rfl, rfl, .inl ⟨by decide +kernel, .inl (by decide)⟩⟩
  · exact ⟨rfl, rfl, rfl, rfl, .inl ⟨by decide +kernel, .inr (by decide)⟩⟩
  · exact ⟨rfl, rfl, rfl, rfl, .inr (by decide +kernel)⟩

/-! ## Witnesses: small matrices, the operand buffer, the matrix engine -/

/-- Dimensions 1 and 6, all options of a product and of a norm; the other quadrants' units are at work. -/
def busyUnit (quadrant : Nat) : SmuOp :=
  { quadrant := quadrant, uid := 1000, group := 0, opId := 0, lanes := [(0, [(0, 5), (255, 6)], 4, some 7, some 8)] }
def smuState (quadrant : Nat) : State := withCore { emptyCore 0 0 with smu := [busyUnit quadrant] } memState
theorem smuSolo (n : Nat) (i : Instr) (f : Fld) (h : (fits i && decide (acting (cur [0]) grp0 f = [0])) = true) :
    Solo i f (smuState n) (cur [0]) memTeam grp0 ctx0 0 := by
  simp only [Bool.and_eq_true, decide_eq_true_eq] at h
  exact soloAt ⟨rfl, rfl, rfl, rfl, by decide, by decide, rfl⟩ h.1 rfl rfl (by decide +kernel) h.2
theorem witness_SmallMatrices : slotGood ctx0 0 smFormat ∧ (∀ u ∈ (Machine.core (smuState 3) 0 0).smu, u.quadrant ≠ (cur [0]).w.group % 4)
    ∧ (∀ p ∈ ([(Instr.smmul, fld 1 41 81 54 0 96), (.smmul, fld 1 41 81 (9 + 192) 0 16), (.smmad, fld 1 41 81 54 0 96), (.smmsb, fld 1 41 81 54 0 96),
        (.smadd, fld 1 41 81 54), (.smadd, fld 1 41 81 (54 + 64)), (.smscl, fld 1 41 81 54), (.smtrn, fld 1 41 0 54), (.smperm, fld 1 41 81 54),
        (.smnrm, fld 1 41 0 54), (.smnrm, fld 1 41 0 (54 + 192))] : List ((Fld → Instr) × Fld)),
      Solo (p.1 p.2) p.2 (smuState 3) (cur [0]) memTeam grp0 ctx0 0)
    ∧ (∀ p ∈ ([(.chol, fld 1 0 0 6), (.chol, fld 1 0 0 1), (.lup, fld 1 0 200 6), (.solv, fld 1 41 0 6 0 96), (.solv, fld 1 41 81 70 0 96), (.solvt, fld 1 41 0 6 0 96)] : List ((Fld → Instr) × Fld)),
      Solo (p.1 p.2) p.2 (smuState 3) (cur [0]) memTeam grp0 ctx0 0)
    ∧ (Machine.core (smuState 0) 0 0).smu.find? (fun u => u.quadrant == 0) = some (busyUnit 0) ∧ team? (smuState 0) 1000 = some memTeam
    ∧ grp? memTeam 0 = some grp0 ∧ memTeam.lmem.wf = true ∧ ([(0, 5), (255, 6)] : List (Nat × Word)).map (·.1) = [0, 255] := by
  refine ⟨by unfold slotGood; decide +kernel, by decide, fun p h => ?_, fun p h => ?_, rfl, rfl, rfl, by decide +kernel, rfl⟩ <;>
    simp only [List.mem_cons, List.not_mem_nil, or_false] at h
  · rcases h with rfl | rfl | rfl | rfl | rfl | rfl | rfl | rfl | rfl | rfl | rfl <;> exact smuSolo 3 _ _ (by decide +kernel)
  · rcases h with rfl | rfl | rfl | rfl | rfl | rfl <;> exact smuSolo 3 _ _ (by decide +kernel)

/-- A team whose request block at 0x40 has one word, and which holds these rows. -/
def mobTeam (w0 : Nat) (rs : List Resv) : Team := { tm (Mem.writeN (vmem [(4, 0x40)]) 0x40 8 w0) with resv := rs }
def range (slot rows base : Nat) : Resv := { valid := true, glen := 0, fslot := slot, eofs := 0x7FFF, sofs := 0x7FFF, nrows := rows, base := base }
def noRanges : List Resv := List.replicate 8 resv0
/-- Rows held; 30,721 rows; no rows; a reserved bit; all 30,720 rows. -/
theorem witness_OperandBuffer : mobPlace [15, 0, 30705] [] = some [0, 0, 15] ∧ mobPlace [15, 0, 30690] [(0, 15)] = some [15, 0, 30]
    ∧ (∀ p ∈ ([(30720, [range 0 1 0]), (30721, noRanges), (0, noRanges), (2 ^ 63 + 1, noRanges), (30720, noRanges)] : List (Nat × List Resv)),
      let T := mobTeam p.1 p.2
      let f := fld 255 4 0 0
      Ready (.resv f) (st [0, 31] T) (cur [0, 31]) T grp0 ctx0 ∧ acting (cur [0, 31]) grp0 f = [0, 31]
        ∧ ∃ r, localLoad (goto (st [0, 31] T) (cur [0, 31]).w [] 0x100008) ctx0 1000 0x40 64 64 = .ok r)
    ∧ mobPlace [30720] [] = some [0] ∧ mobPlace [30721] [] = none ∧ reqBad (2 ^ 63 + 1) = true ∧ reqBad (30720 + 0x7FFF * 2 ^ 16 + 0x7FFF * 2 ^ 32) = false
    ∧ (∀ rs ∈ [noRanges, [range 0 1 0]], Ready (.relv (fld 255 0 0 0)) (st [0, 31] (mobTeam 0 rs)) (cur [0, 31]) (mobTeam 0 rs) grp0 ctx0)
    ∧ ∀ f ∈ [fld 254 0 0 0, fld 254 0 0 7, fld 254 0 0 0 0 64],
      Ready (.resq f) (st [0, 31] (mobTeam 0 [range 0 1 0])) (cur [0, 31]) (mobTeam 0 [range 0 1 0]) grp0 ctx0 ∧ acting (cur [0, 31]) grp0 f = [0, 31] := by
  refine ⟨by decide +kernel, by decide +kernel, fun p h => ?_, by decide +kernel, by decide +kernel, by decide +kernel, by decide +kernel, fun rs h => ?_, fun f h => ?_⟩ <;>
    simp only [List.mem_cons, List.not_mem_nil, or_false] at h
  · rcases h with rfl | rfl | rfl | rfl | rfl <;>
      exact ⟨ready ⟨rfl, rfl, rfl, rfl, by decide, by decide, rfl⟩ (by decide +kernel) rfl rfl (by decide +kernel), by decide, okOf (by decide +kernel)⟩
  · rcases h with rfl | rfl <;> exact ready ⟨rfl, rfl, rfl, rfl, by decide, by decide, rfl⟩ (by decide +kernel) rfl rfl (by decide +kernel)
  · rcases h with rfl | rfl | rfl <;>
      exact ⟨ready ⟨rfl, rfl, rfl, rfl, by decide, by decide, rfl⟩ (by decide +kernel) rfl rfl (by decide +kernel), by decide⟩

/-- A product of 64 by 64 by 33 in 16-bit operands into tile 15: dense at 0x40, sparse at 0x80. -/
def mmaBlock (sparse : Nat) : Nat :=
  15 + sparse * 2 ^ 9 + 64 * 2 ^ 24 + 64 * 2 ^ 32 + 33 * 2 ^ 40 + 64 * 2 ^ 88 + 1 * 2 ^ 128 + 64 * 2 ^ 152 + (2 * sparse) * 2 ^ 192
def matLocal : Mem := Mem.writeN (Mem.writeN (vmem [(2, 0x20000), (4, 0x40), (5, 256), (6, 56), (7, 0x80)]) 0x40 64 (mmaBlock 0)) 0x80 64 (mmaBlock 1)
def boundTiles : List Tile := (List.replicate 16 tile0).set 15 { tile0 with bound := true }
def matTeam : Team := { tm matLocal with resv := [range 1 256 0, range 1 256 256, range 0 16 512] ++ List.replicate 5 resv0, tiles := boundTiles }
def matState : State := withCore coded (st [0] matTeam)
theorem matStand : Stands matState (cur [0]) matTeam grp0 ctx0 := ⟨rfl, rfl, rfl, rfl, by decide, by decide, rfl⟩
theorem matSolo (i : Instr) (f : Fld) (h : (fits i && decide (acting (cur [0]) grp0 f = [0])) = true) : Solo i f matState (cur [0]) matTeam grp0 ctx0 0 := by
  simp only [Bool.and_eq_true, decide_eq_true_eq] at h
  exact soloAt matStand h.1 rfl rfl (by decide +kernel) h.2
def matEnv : Env := laneEnv (cur [0]) matTeam grp0 ctx0 0
theorem witness_EngineIssue : slotGood ctx0 0 accFormat ∧ slotGood ctx0 0 cellFormat ∧ slotGood ctx0 1 cellFormat
    ∧ ctrFull matState (cur [0]).w .tiles = false ∧ (takeTokens matState (cur [0]).w 1).isSome = true
    ∧ (∀ s1, takeTokens matState (cur [0]).w 1 = some s1 → Keeps s1 ctx0 matTeam matEnv.th.cid.toNat 0x100000 0x1000 ∧ ∃ g1, group? s1 (cur [0]).w = some g1)
    ∧ (∀ p ∈ ([(Instr.acz, fld 15 0 0 0), (.acmov, fld 15 14 0 0), (.acadd, fld 15 14 13 0), (.acscl, fld 15 14 255 0), (.accvt, fld 15 14 0 1), (.tlmov, fld 0 15 9 0),
        (.mma, fld 0 4 0 0), (.mmas, fld 0 7 0 0), (.acld, fld 15 2 5 0 7), (.acst, fld 15 2 5 0 7), (.acwr, fld 248 15 6 7), (.acrd, fld 248 15 6 7),
        (.acrd, fld 255 15 0 0 0 64)] : List ((Fld → Instr) × Fld)), Solo (p.1 p.2) p.2 matState (cur [0]) matTeam grp0 ctx0 0) := by
  refine ⟨by unfold slotGood; decide +kernel, by unfold slotGood; decide +kernel, by unfold slotGood; decide +kernel, by decide +kernel, by decide +kernel,
    fun s1 h => ?_, fun p h => ?_⟩
  · cases h; exact ⟨⟨by decide, rfl⟩, _, rfl⟩
  · simp only [List.mem_cons, List.not_mem_nil, or_false] at h
    rcases h with rfl | rfl | rfl | rfl | rfl | rfl | rfl | rfl | rfl | rfl | rfl | rfl | rfl <;> exact matSolo _ _ (by decide +kernel)
theorem okPair {α β : Type} {a : Except FaultInfo (α × β)} {p : α → Bool} (h : (match a with | .ok (x, _) => p x | _ => false) = true) :
    ∃ x y, a = .ok (x, y) ∧ p x = true := by
  match a, h with
  | .ok (x, y), h => exact ⟨x, y, rfl, h⟩
theorem okTwo {α β : Type} {a : Except FaultInfo (α × β)} (h : a.isOk = true) : ∃ x y, a = .ok (x, y) := by
  match a, h with
  | .ok (x, y), _ => exact ⟨x, y, rfl⟩
theorem tilePrep (op : Nat) (h : op = 0xDA ∨ op = 0xDB) : (tileTransferPrep op (fld 15 2 5 0 7) matState matEnv).isOk = true := by
  rcases h with rfl | rfl <;> decide +kernel
/-- Range 0 holds exactly the 128 blocks of a tile, or the operand's blocks. -/
theorem witness_EngineIssue_ranges :
    (matTeam.resv.getD 0 resv0 = range 1 256 0
      ∧ (blockPlace (slotDef ctx0 1).w (srcBz matEnv (fld 0 15 9 0) + 127)).1 + (blockShape (slotDef ctx0 1).w).1 = 256)
    ∧ (∀ p ∈ [(4, 0xD0, 0), (7, 0xD1, 1)], ∃ bs s0, localLoad matState ctx0 1000 (srcA matEnv (fld 0 p.1 0 0)) 64 64 = .ok (bs, s0)
      ∧ (let b := ofBytes bs
        let ra := matTeam.resv.getD (b / 2 ^ 64 % 8) resv0
        let rb := matTeam.resv.getD (b / 2 ^ 128 % 8) resv0
        let oa := pbOperandA b (slotDef ctx0 ra.fslot) matTeam.resv
        let ob := pbOperandB b (slotDef ctx0 rb.fslot) matTeam.resv
        decide (b = mmaBlock p.2.2) && mmaBlockOk matEnv p.2.1 b && decide (pbAcc b = 0) && decide (ra.fslot = 1) && decide (rb.fslot = 1)
        && elemFormat (slotDef ctx0 1) && !(slotDef ctx0 1).esc
        && decide (operandRows oa (pbM b) (mmaSteps b) < ra.nrows) && decide (operandRows ob (pbN b) ((pbK b + 31) / 32) < rb.nrows)
        && (p.2.2 == 0 || decide (pbMrow b + (oa.blk + (mmaSteps b - 1) * oa.str + pbM b - 1) / 4 < 16))) = true)
    ∧ (∀ op ∈ [0xDA, 0xDB], ∃ m s0, tileTransferPrep op (fld 15 2 5 0 7) matState matEnv = .ok (m, s0))
    ∧ srcBz matEnv (fld 248 15 6 7) + 8 = 64 ∧ matTeam.mq = [] ∧ (tileAt matTeam 15).bound = true ∧ (tileAt matTeam 15).cells.wf = true
    ∧ (tileAt matTeam 15).poison = [] := by
  refine ⟨by decide +kernel, fun p h => ?_, fun op h => ?_, by decide +kernel, rfl, rfl, rfl, rfl⟩ <;>
    simp only [List.mem_cons, List.not_mem_nil, or_false] at h
  · rcases h with rfl | rfl
    · obtain ⟨bs, s0, h1, h2⟩ := okPair (a := localLoad matState ctx0 1000 (srcA matEnv (fld 0 4 0 0)) 64 64) (p := fun bs => decide (ofBytes bs = mmaBlock 0)) (by decide +kernel)
      refine ⟨bs, s0, h1, ?_⟩
      rw [of_decide_eq_true h2]; decide +kernel
    · obtain ⟨bs, s0, h1, h2⟩ := okPair (a := localLoad matState ctx0 1000 (srcA matEnv (fld 0 7 0 0)) 64 64) (p := fun bs => decide (ofBytes bs = mmaBlock 1)) (by decide +kernel)
      refine ⟨bs, s0, h1, ?_⟩
      rw [of_decide_eq_true h2]; decide +kernel
  · exact okTwo (tilePrep op h)

/-- One instruction stands alone in a core's engine, at its last step. -/
def engOne (op d a b block : Nat) : MInstr :=
  { engineInstr matEnv op (fld d a 0 0) with seq := 1, b := b, block := block, fds := [fdPresets.getD 0 0, fdPresets.getD 1 0, fdPresets.getD 1 0] }
def engTeam (m : MInstr) : Team := { matTeam with mq := [m] }
def engState (m : MInstr) : State := st [0] (engTeam m)
/-- ACZ, ACMOV, ACADD, ACSCL and ACCVT into tile 15 from tile 14; an MMA of 2 by 2 by 32. -/
theorem witness_EngineSteps :
    (∀ m ∈ [engOne 0xD3 15 0 0 0, engOne 0xD4 15 14 0 0, engOne 0xD5 15 14 13 0, engOne 0xD6 15 14 5 0, engOne 0xD7 15 14 0 1,
        engOne 0xD0 0 0 0 (15 + 2 * 2 ^ 24 + 2 * 2 ^ 32 + 32 * 2 ^ 40 + 2 * 2 ^ 88 + 2 ^ 128 + 2 * 2 ^ 152)],
      (engState m).teams.filter (fun t => t.role == .compute && t.die == 0 / 168 && t.site == 0 % 168) = [engTeam m]
      ∧ team? (engState m) 1000 = some (engTeam m) ∧ (Machine.core (engState m) 0 0).running = none ∧ (engTeam m).mq = [m]
      ∧ canStep (engState m) (engTeam m) m = true ∧ m.poisoned = false ∧ m.mobGen = 0 ∧ m.paused = none ∧ m.started = false ∧ m.step = 0
      ∧ (∀ k < 16, ((engTeam m).tiles.getD k tile0).poison = []) ∧ m.d < (engTeam m).tiles.length)
    ∧ (let m := engOne 0xD0 0 0 0 (15 + 2 * 2 ^ 24 + 2 * 2 ^ 32 + 32 * 2 ^ 40 + 2 * 2 ^ 88 + 2 ^ 128 + 2 * 2 ^ 152)
       let m1 := mmaStart (engTeam m) m
       let S := fdrOf (m.fds.getD 1 0).toNat
       pbTile m.block = 15 ∧ pbK m.block = 32 ∧ pbSparse m.block = 0
       ∧ (∀ i < 2, ∀ y ∈ denseElems m1 (pbOperandA m.block S m.resv) i 0 32, y.2.2 = false)
       ∧ ∀ j < 2, ∀ y ∈ denseElems m1 (pbOperandB m.block S m.resv) j 0 32, y.2.2 = false) := by
  refine ⟨fun m h => ?_, by decide +kernel⟩
  simp only [List.mem_cons, List.not_mem_nil, or_false] at h
  rcases h with rfl | rfl | rfl | rfl | rfl | rfl <;>
    exact ⟨rfl, rfl, rfl, rfl, by decide +kernel, rfl, rfl, rfl, rfl, rfl, by decide +kernel, by decide⟩
/-- A group waits for its one token. -/
theorem witness_EngineSteps_tokens : let G := { grp0 with tokenWait := some (3, 1) }
    tokenWaiters (st [0] (tm [] G)) = [({ uid := 1000, group := 0 }, 3, 1, 0)] ∧ poolSize State.reset = 1280 := ⟨rfl, rfl⟩

/-! ## Witnesses: copies, core queues, windows, launches, Harrow -/

/-- Descriptors at 0x40 (COPYS), 0x80 (COPYX) and 0xC0 (COPYQ): one row of 16 bytes from 0x20000 to 0x21000, two rows of 2 elements. -/
def copyBlock (x : Nat) : Nat :=
  0x20000 + 0x21000 * 2 ^ 64 + 16 * 2 ^ 128 + 1 * 2 ^ 160 + 16 * 2 ^ 192 + 16 * 2 ^ 256 + x * 0x22000 * 2 ^ 320 + x * 5 * 2 ^ 384
def qBlock : Nat := 0x20000 + 0x21000 * 2 ^ 64 + 0x22000 * 2 ^ 256 + 8 * 2 ^ 320 + 8 * 2 ^ 352 + 2 * 2 ^ 384 + 2 * 2 ^ 408 + 1 * 2 ^ 432
def copyLocal : Mem :=
  Mem.writeN (Mem.writeN (Mem.writeN (vmem [(2, 0x20000), (3, 0x21000), (4, 0x40), (5, 0x80), (6, 0xC0), (7, 16), (8, 2 ^ 40)]) 0x40 64 (copyBlock 0)) 0x80 64 (copyBlock 1)) 0xC0 64 qBlock
def copyTeam : Team := tm copyLocal
def copyState : State := st [0] copyTeam
theorem copySolo (i : Instr) (f : Fld) (h : (fits i && decide (acting (cur [0]) grp0 f = [0])) = true) : Solo i f copyState (cur [0]) copyTeam grp0 ctx0 0 := by
  simp only [Bool.and_eq_true, decide_eq_true_eq] at h
  exact soloAt ⟨rfl, rfl, rfl, rfl, by decide, by decide, rfl⟩ h.1 rfl rfl (by decide +kernel) h.2
def copyEnv : Env := laneEnv (cur [0]) copyTeam grp0 ctx0 0
/-- A copy of 2^40 bytes; each descriptor; the second of two tiles, of 8 zero bytes, whose CRC-32C is 8C28B28A. -/
theorem witness_CopiesIssue : Room copyState (cur [0]) grp0 .copies ∧ Room copyState (cur [0]) grp0 .loads ∧ (∃ s1, release copyState copyEnv 5 = .ok s1)
    ∧ (∀ p ∈ ([(Instr.copy, fld 7 3 2 8), (.copys, fld 0 4 0 0), (.copyx, fld 4 5 0 0), (.copyq, fld 7 6 0 0), (.ldchk, fld 255 6 9 0), (.wpld, fld 255 3 0 0),
        (.wpset, fld 3 2 0 0)] : List ((Fld → Instr) × Fld)), Solo (p.1 p.2) p.2 copyState (cur [0]) copyTeam grp0 ctx0 0)
    ∧ srcC copyEnv (fld 7 3 2 8) = 2 ^ 40 ∧ 0x20000 + 2 ^ 40 ≤ 2 ^ 56
    ∧ (∀ p ∈ [(0x40, copyBlock 0), (0x80, copyBlock 1), (0xC0, qBlock)], ∃ bs s0, localLoad copyState ctx0 1000 p.1 64 64 = .ok (bs, s0) ∧ decide (ofBytes bs = p.2) = true)
    ∧ (∀ x ∈ [0, 1], let D := copyBlock x
        D / 2 ^ 448 = 0 ∧ D / 2 ^ 128 % 2 ^ 32 = 16 ∧ D / 2 ^ 160 % 2 ^ 32 = 1 ∧ D / 2 ^ 256 % 2 ^ 64 = 16 ∧ D / 2 ^ 320 % 2 ^ 64 = x * 0x22000 ∧ D / 2 ^ 384 % 2 ^ 64 = x * 5)
    ∧ (qBlock / 2 ^ 466 % 2 ^ 14 = 0 ∧ bit qBlock 448 = false ∧ qGlen qBlock = 0 ∧ qRnd qBlock = 0 ∧ qRows qBlock = 2 ∧ qNe qBlock = 2 ∧ qTadr qBlock = 0x22000
      ∧ qXadr qBlock = 0 ∧ qD qBlock = 0 ∧ qS qBlock = 0 ∧ qDpitch qBlock = 8 ∧ qSpitch qBlock = 8 ∧ qTr qBlock = 1 ∧ (slotDef ctx0 0).w = 32) := by
  refine ⟨room _ (by decide +kernel), room _ (by decide +kernel), okStep (by decide +kernel), fun p h => ?_, by decide +kernel, by decide, fun p h => ?_, by decide +kernel, by decide +kernel⟩ <;>
    simp only [List.mem_cons, List.not_mem_nil, or_false] at h
  · rcases h with rfl | rfl | rfl | rfl | rfl | rfl | rfl <;> exact copySolo _ _ (by decide +kernel)
  · rcases h with rfl | rfl | rfl <;> exact okPair (by decide +kernel)
def checkState : State := { st [0] (tm (vmem [(6, 0xC0), (9, 1)])) with home := Mem.writeN pages 0x22010 16 (0x8C28B28A * 2 ^ 96) }
theorem witness_CopiesIssue_check : ∃ tile s1 trailer s2, loadRows checkState copyEnv 0x21000 8 8 [1] = .ok (tile, s1)
    ∧ loadNow s1 ctx0 0 0 0x22010 16 .load = .ok (trailer, s2) ∧ crc32c tile = ofBytes trailer / 2 ^ 96 % 2 ^ 32 := by
  obtain ⟨tile, s1, h1, h2⟩ := okPair (a := loadRows checkState copyEnv 0x21000 8 8 [1]) (p := fun t => decide (t = List.replicate 8 0)) (by decide +kernel)
  obtain ⟨q, h3⟩ := okOf (a := match loadRows checkState copyEnv 0x21000 8 8 [1] with
    | .ok (_, s1) => (match loadNow s1 ctx0 0 0 0x22010 16 .load with
      | .ok (t, s2) => if ofBytes t / 2 ^ 96 % 2 ^ 32 = 0x8C28B28A then .ok (t, s2) else .error { code := .alignment }
      | .error i => .error i)
    | .error i => .error i) (by decide +kernel)
  rw [h1] at h3
  simp only at h3
  split at h3
  · rename_i t s2 h4
    split at h3
    · rename_i h5
      refine ⟨tile, s1, t, s2, h1, h4, ?_⟩
      rw [h5, of_decide_eq_true h2]; decide +kernel
    · cases h3
  · cases h3

/-- A copy of one row of 16 bytes at its first byte, or past its row. -/
def oneCopy (op src dst row : Nat) : Copy :=
  { newCopy copyState copyEnv op 0x40 src dst 1 16 16 0 16 0x22000 5 0 with row := row }
/-- The second GiB is mapped to addresses that nothing answers. -/
def holePages : Mem := Mem.writeN pages 0x12008 8 (2 ^ 41 + 0x73)
def moveState (k : Copy) : State := { copyState with copies := [k], home := holePages }
theorem okBad {α : Type} {a : Except FaultInfo α} (h : (match a with | .error i => decide (i.code ≠ .translation) | _ => false) = true) :
    ∃ i, a = .error i ∧ i.code ≠ .translation := by
  match a, h with
  | .error i, h => exact ⟨i, rfl, of_decide_eq_true h⟩
/-- Sixteen bytes, one byte up to the end of a sector, a source that nothing answers, a copy that is through, its signal. -/
theorem witness_CopiesMove :
    (∀ k ∈ [oneCopy 0xE0 0x20000 0x21000 0, oneCopy 0xE2 0x20001 0x2100F 0, oneCopy 0xE0 0x40000000 0x21000 0, oneCopy 0xE0 0x20000 0x21000 1, oneCopy 0xE3 0x20000 0x21000 1],
      let s := moveState k
      s.copies.find? (fun c => c.id == k.id) = some k ∧ ctx? s k.writer.ctx = some ctx0 ∧ ctx0.det = false ∧ s.home.wf = true ∧ s.poison = []
        ∧ k.state = .running ∧ k.wait = none ∧ k.got = none ∧ k.extras = [] ∧ k.held = false ∧ k.opcode ≠ 0xE1 ∧ s.outReqs = [] ∧ s.deques = [])
    ∧ (∃ p t, locate (moveState (oneCopy 0xE0 0x20000 0x21000 0)) { ctx0 with wd := (oneCopy 0xE0 0x20000 0x21000 0).wd } 0x20000 .load = .ok (.mem p t) ∧ decide (p < 2 ^ 40) = true)
    ∧ (∃ p t, locate (moveState (oneCopy 0xE0 0x20000 0x21000 0)) ctx0 0x21000 .store = .ok (.mem p t) ∧ decide (p < 2 ^ 40) = true)
    ∧ (∃ i, locate (moveState (oneCopy 0xE0 0x40000000 0x21000 0)) { ctx0 with wd := (oneCopy 0xE0 0x40000000 0x21000 0).wd } 0x40000000 .load = .error i ∧ i.code ≠ .translation)
    ∧ (∃ p t, checkGlobal (moveState (oneCopy 0xE3 0x20000 0x21000 1)) ctx0 0x22000 8 (.red .add) = .ok (.mem p t) ∧ decide (p < 2 ^ 40) = true) := by
  refine ⟨fun k h => ?_, okLow (by decide +kernel), okLow (by decide +kernel), okBad (by decide +kernel), okLow (by decide +kernel)⟩
  simp only [List.mem_cons, List.not_mem_nil, or_false] at h
  rcases h with rfl | rfl | rfl | rfl | rfl <;> exact ⟨rfl, rfl, rfl, by decide +kernel, rfl, rfl, rfl, rfl, rfl, rfl, by decide, rfl, rfl⟩

/-- Core queue 7 holds n entries. -/
def entry : List Byte := List.replicate 64 7
def queueState (n : Nat) : State := withCore { emptyCore 0 0 with queues := (List.replicate 8 []).set 7 (List.replicate n entry) } copyState
theorem queueSolo (n : Nat) (i : Instr) (f : Fld) (h : (fits i && decide (acting (cur [0]) grp0 f = [0])) = true) :
    Solo i f (queueState n) (cur [0]) copyTeam grp0 ctx0 0 := by
  simp only [Bool.and_eq_true, decide_eq_true_eq] at h
  exact soloAt ⟨rfl, rfl, rfl, rfl, by decide, by decide, rfl⟩ h.1 rfl rfl (by decide +kernel) h.2
def windowState (d : Nat) : State := { copyState with home := Mem.writeN pages 0x20000 64 d }
/-- A queue of 0, 63 and 64 entries; a window descriptor of kind 0 and one of kind 5. -/
theorem witness_QueuesAndWindows :
    (∀ n ∈ [0, 63, 64], Room (queueState n) (cur [0]) grp0 .loads ∧ ((Machine.core (queueState n) 0 0).queues.getD 7 []).length = n
      ∧ (∀ i ∈ [Instr.qpush, .qpop, .qpeek], Solo (i (fld 255 7 4 0)) (fld 255 7 4 0) (queueState n) (cur [0]) copyTeam grp0 ctx0 0)
      ∧ Solo (.qstat (fld 255 7 0 0)) (fld 255 7 0 0) (queueState n) (cur [0]) copyTeam grp0 ctx0 0
      ∧ (∃ bs s1, localLoad (queueState n) ctx0 1000 0x40 64 64 = .ok (bs, s1))
      ∧ ∃ s1, localStore (queueState n) 1000 (writerOf copyTeam 0 0) 0x40 64 64 (if n = 0 then [] else fullUnit 0x40 entry) = .ok s1)
    ∧ (∀ p ∈ [(0, true), (5 * 2 ^ 124, false)], Solo (.winset (fld 15 2 0 0)) (fld 15 2 0 0) (windowState p.1) (cur [0]) copyTeam grp0 ctx0 0
      ∧ ∃ bs s1, loadBlock (goto (windowState p.1) (cur [0]).w [] 0x100008) copyEnv 0x20000 64 = .ok (bs, s1)
        ∧ decide (windowOk (ofBytes bs) ((ctx0.wd.zipIdx.filter (fun q => q.2 != 15)).map (·.1)) = p.2) = true)
    ∧ Solo (.winget (fld 15 2 0 0)) (fld 15 2 0 0) copyState (cur [0]) copyTeam grp0 ctx0 0 ∧ ∃ loc, checkGlobal copyState ctx0 0x20000 64 .store = .ok loc := by
  refine ⟨fun n h => ⟨room _ ?_, ?_, fun i m => ?_, ?_, okTwo ?_, okOf ?_⟩, fun p h => ⟨?_, okPair ?_⟩, copySolo _ _ (by decide +kernel), okOf (by decide +kernel)⟩ <;>
    simp only [List.mem_cons, List.not_mem_nil, or_false] at h
  · rcases h with rfl | rfl | rfl <;> decide +kernel
  · rcases h with rfl | rfl | rfl <;> decide +kernel
  · have e : (fits (i (fld 255 7 4 0)) && decide (acting (cur [0]) grp0 (fld 255 7 4 0) = [0])) = true := by
      simp only [List.mem_cons, List.not_mem_nil, or_false] at m
      rcases m with rfl | rfl | rfl <;> decide +kernel
    exact queueSolo n _ _ e
  · exact queueSolo n _ _ (by decide +kernel)
  · rcases h with rfl | rfl | rfl <;> decide +kernel
  · rcases h with rfl | rfl | rfl <;> decide +kernel
  · rcases h with rfl | rfl <;> exact soloAt ⟨rfl, rfl, rfl, rfl, by decide, by decide, rfl⟩ (by decide +kernel) rfl rfl (by decide +kernel) (by decide +kernel)
  · rcases h with rfl | rfl <;> decide +kernel

/-- A launch descriptor of one team at 0x20000; with a predecessor, or counts at 0x30000. -/
def launchState (d : Nat) : State := { copyState with home := Mem.writeN pages 0x20000 128 d }
theorem witness_LaunchesIssue : ∀ p ∈ [(2 ^ 128 + 2 ^ 144 + 2 ^ 160, false), (2 ^ 512 * 0x30008 + 2 ^ 704 * 0x30000, false), (2 ^ 704 * 0x30000, true)],
    Room (launchState p.1) (cur [0]) grp0 .loads
      ∧ (∀ i ∈ [Instr.launch, .launchi], Solo (i (fld 255 2 0 0)) (fld 255 2 0 0) (launchState p.1) (cur [0]) copyTeam grp0 ctx0 0)
      ∧ (∃ bs s0, loadBlock (launchState p.1) copyEnv 0x20000 128 = .ok (bs, s0) ∧ decide (ofBytes bs = p.1) = true)
      ∧ (∃ s1, release (launchState p.1) copyEnv 5 = .ok s1)
      ∧ (ldPred p.1 0 == 0 && ldPred p.1 1 == 0 && launchOk p.1 true) = p.2
      ∧ ∃ cs s2, loadNow (acquire (launchState p.1) copyTeam 5) ctx0 0 0 0x30000 12 .load = .ok (cs, s2) := by
  intro p h
  refine ⟨room _ ?_, fun i m => ?_, okPair ?_, okStep ?_, ?_, okTwo ?_⟩
  · simp only [List.mem_cons, List.not_mem_nil, or_false] at h
    rcases h with rfl | rfl | rfl <;> decide +kernel
  · have e : fits (i (fld 255 2 0 0)) = true := by
      simp only [List.mem_cons, List.not_mem_nil, or_false] at m
      rcases m with rfl | rfl <;> decide +kernel
    exact soloAt ⟨rfl, rfl, rfl, rfl, by decide, by decide, rfl⟩ e rfl rfl (by decide +kernel) (by decide +kernel)
  all_goals
    simp only [List.mem_cons, List.not_mem_nil, or_false] at h
    rcases h with rfl | rfl | rfl <;> decide +kernel

/-- A continuation at 0x10 of code object 1; the round's own, another, and none yet. -/
def harrowTeam (c : Option Word) : Team := { tm (vmem [(2, 65535), (3, 7), (4, 2 ^ 40 + 0x10)]) with harrowCont := c }
def harrowState (c : Option Word) : State := withCore coded (st [0] (harrowTeam c))
def closedTeam : Team := { harrowTeam (some (2 ^ 40 + 0x10)) with
  harrowClosed := true, harrow := [{ payload := 1, key := 2, nf := 3, cont := 2 ^ 40 + 0x10, index := 31 }, { payload := 4, key := 2, nf := 0, cont := 2 ^ 40 + 0x10, index := 5 }] }
def closedState : State := withCore coded (st [0] closedTeam)
theorem witness_HarrowRounds :
    (∀ c ∈ [none, some (2 ^ 40 + 0x10), some 0x20], Solo (.regrp (fld 0 2 3 4)) (fld 0 2 3 4) (harrowState c) (cur [0]) (harrowTeam c) grp0 ctx0 0
      ∧ (harrowTeam c).role = .compute ∧ srcC (laneEnv (cur [0]) (harrowTeam c) grp0 ctx0 0) (fld 0 2 3 4) = 2 ^ 40 + 0x10
      ∧ Keeps (harrowState c) ctx0 (harrowTeam c) ((2 ^ 40 + 0x10) / 2 ^ 40) 0x100000 0x1000 ∧ NoPatch (harrowState c) (cur [0]) (harrowTeam c) ctx0
      ∧ ownPending (harrowState c) (cur [0]).w 0 = false)
    ∧ (team? closedState 1000 = some closedTeam ∧ closedTeam.harrowClosed = true ∧ closedTeam.harrowCont = some (2 ^ 40 + 0x10) ∧ ctx? closedState closedTeam.ctx = some ctx0
      ∧ Keeps closedState ctx0 closedTeam ((2 ^ 40 + 0x10 : Word).toNat / 2 ^ 40) 0x100000 0x1000 ∧ 2 ≤ closedTeam.kern.f ∧ closedTeam.lmem.wf = true) :=
  ⟨fun c h => by
    simp only [List.mem_cons, List.not_mem_nil, or_false] at h
    rcases h with rfl | rfl | rfl <;>
      exact ⟨soloAt ⟨rfl, rfl, rfl, rfl, by decide, by decide, rfl⟩ (by decide +kernel) rfl rfl (by decide +kernel) (by decide +kernel), rfl,
        by decide +kernel, by unfold Keeps; decide +kernel, ⟨rfl, .inr rfl⟩, by decide +kernel⟩,
   rfl, rfl, rfl, rfl, by unfold Keeps; decide +kernel, by decide, by decide +kernel⟩

/-! ## Witnesses: links, faults, encodings, steps -/

/-- A request of lane 0 that the loads of its group wait for, or a posted store, on a port. -/
def linkReq (port : Nat) (posted : Bool) : OutReq :=
  { id := 4, cur := if posted then none else some (cur [0]), w := { uid := 1000, group := 0 }, lane := 0, opId := 0, writer := writerOf memTeam 0 0, va := 0x20000,
    pa := 2 ^ 51, len := 1, ty := 0, data := if posted then [(2 ^ 51, 7, 0xFF)] else [], posted := posted, atomic := none, copy := none, port := port }
theorem witness_LinksAndWalks :
    (∀ p ∈ [(15, true), (15, false), (16, true), (17, false)], let s := { memState with outReqs := [linkReq p.1 p.2] }
      s.outReqs.find? (fun q => q.id == 4) = some (linkReq p.1 p.2) ∧ (linkReq p.1 p.2).copy = none ∧ (linkReq p.1 p.2).atomic = none
        ∧ (p.2 = false → (linkReq p.1 p.2).cur = some (cur [0])) ∧ heldBack s (linkReq p.1 p.2) = false ∧ loopPa s (linkReq p.1 p.2).pa = none)
    ∧ ctx? memState 0 = some ctx0 ∧ ∃ lf, walkLevels memState 0x3FFFFFFF [4, 3, 2, 1, 0] ctx0.ptroot = .ok lf := by
  refine ⟨fun p h => ?_, rfl, ?_⟩
  · simp only [List.mem_cons, List.not_mem_nil, or_false] at h
    rcases h with rfl | rfl | rfl | rfl <;> exact ⟨rfl, rfl, rfl, fun _ => by first | rfl | contradiction, by decide +kernel, by decide +kernel⟩
  · have h : (match walkLevels memState 0x3FFFFFFF [4, 3, 2, 1, 0] ctx0.ptroot with | .ok _ => true | _ => false) = true := by decide +kernel
    split at h
    · rename_i lf e; exact ⟨lf, e⟩
    · cases h

/-- v0 to v7; v1 of lane 0 poisoned; a slot that breaks R58; a mask of no lane, and one that names an ended thread. -/
def smallTeam : Team := { tm [] with kern := flatKern 8 0x10000 }
def badTeam : Team := { tm [] with lpoison := [vAddr (flatKern 256 0) grp0 0 1 / 8] }
def badCtx : Ctx := { ctx0 with fd := fdPresets.set 15 0xFFFFFFFFFFFFFFFF }
def maskGroup : Group := { grp0 with threads := [thr, { thr with status := .ended }] }
def maskTeam : Team := tm (vmem [] [(1, 3), (2, 0)]) maskGroup
/-- Lane 1 is held at the instruction under this mask. -/
def heldGroup (mask : Nat) : Group := { grp0 with threads := [thr, { thr with status := .heldLane mask (fld 1 2 3 2) 0x100008 0 }] }
def heldTeam (mask : Nat) : Team := tm (vmem [] [(2, 2)]) (heldGroup mask)
/-- Lane 0 arrives under a mask that names lane 1 alone, which is held under the same mask, or under another. -/
theorem witness_FaultsBeforeExecution_held : ∀ mask ∈ [2, 3],
    Ready (.lget (fld 1 2 3 2)) (st [0] (heldTeam mask)) (cur [0]) (heldTeam mask) (heldGroup mask) ctx0
    ∧ NoPatch (st [0] (heldTeam mask)) (cur [0]) (heldTeam mask) ctx0
    ∧ readG (heldTeam mask) (heldGroup mask) 2 = 2 ∧ heldAt (heldGroup mask) 0x100000 = [(1, mask)]
    ∧ ((heldGroup mask).threads.all (fun th => th.status != .ended)) = true := fun mask h => by
  simp only [List.mem_cons, List.not_mem_nil, or_false] at h
  rcases h with rfl | rfl <;>
    exact ⟨ready ⟨rfl, rfl, rfl, rfl, by decide, by decide, rfl⟩ (by decide +kernel) rfl rfl (by decide +kernel), ⟨rfl, .inr rfl⟩,
      by decide +kernel, by decide +kernel, by decide +kernel⟩
theorem witness_FaultsBeforeExecution :
    (Stands (st [0, 31] smallTeam) (cur [0, 31]) smallTeam grp0 ctx0 ∧ NoPatch (st [0, 31] smallTeam) (cur [0, 31]) smallTeam ctx0
      ∧ acting (cur [0, 31]) grp0 (fld 8 7 0 0) = [0, 31] ∧ ∃ op g, asLong (.iadd (fld 8 7 0 0)) = some (op, g) ∧ smallTeam.kern.f < vNeed op g)
    ∧ (Stands (st [0] badTeam) (cur [0]) badTeam grp0 ctx0 ∧ NoPatch (st [0] badTeam) (cur [0]) badTeam ctx0 ∧ acting (cur [0]) grp0 (fld 255 1 2 0) = [0]
      ∧ (∀ i ∈ ([Instr.iadd, .isub, .imul, .imin, .imax, .fadd, .fsub, .fmul, .fdiv] : List (Fld → Instr)), fits (i (fld 255 1 2 0)) = true)
      ∧ vAddr badTeam.kern grp0 0 (fld 255 1 2 0).a.toNat / 8 ∈ badTeam.lpoison)
    ∧ (∀ i ∈ [Instr.fadd (fld 1 2 3 0 15), .fexp2 (fld 1 0 3 0 15)], Ready i (st [0, 31] (tm []) badCtx) (cur [0, 31]) (tm []) grp0 badCtx)
    ∧ NoPatch (st [0, 31] (tm []) badCtx) (cur [0, 31]) (tm []) badCtx ∧ ¬ slotGood badCtx 15 anyFormat
    ∧ (Ready (.cvt (fld 1 2 1 0)) (st [0, 31] (tm [])) (cur [0, 31]) (tm []) grp0 ctx0 ∧ slotGood ctx0 0 anyFormat
      ∧ max (elems (slotDef ctx0 0)) (elems (slotDef ctx0 0)) ≤ (fld 1 2 1 0).b.toNat % 64 * min (elems (slotDef ctx0 0)) (elems (slotDef ctx0 0)))
    ∧ (∀ n ∈ [1, 2], Ready (.lget (fld 1 2 3 n)) (st [0] maskTeam) (cur [0]) maskTeam maskGroup ctx0 ∧ bit (readG maskTeam maskGroup n) 0 = decide (n = 1))
    ∧ bit (readG maskTeam maskGroup 1) 1 = true ∧ maskGroup.threads[1]? = some { thr with status := .ended } := by
  refine ⟨⟨⟨rfl, rfl, rfl, rfl, by decide, by decide, rfl⟩, ⟨rfl, .inr rfl⟩, by decide, _, _, rfl, by decide⟩,
    ⟨⟨rfl, rfl, rfl, rfl, by decide, by decide, rfl⟩, ⟨rfl, .inr rfl⟩, by decide, by decide +kernel, by decide +kernel⟩,
    readyAll ⟨rfl, rfl, rfl, rfl, by decide, by decide, rfl⟩ (by decide +kernel) rfl rfl rfl, ⟨rfl, .inr rfl⟩, by unfold slotGood; decide +kernel,
    ⟨pairReady [_] (by decide +kernel) _ (List.mem_singleton.2 rfl), by unfold slotGood; decide +kernel, by decide +kernel⟩, fun n h => ?_, by decide +kernel, rfl⟩
  simp only [List.mem_cons, List.not_mem_nil, or_false] at h
  rcases h with rfl | rfl <;>
    exact ⟨ready ⟨rfl, rfl, rfl, rfl, by decide, by decide, rfl⟩ (by decide +kernel) rfl rfl (by decide +kernel), by decide +kernel⟩

theorem witness_DecodeAndEncodeAgree : (Instr.iadd (fld 255 1 2 0 7)).wf = true ∧ (encodeBits (.iadd (fld 255 1 2 0 7))).1 ≠ 0
    ∧ decode (encode (.iadd (fld 255 1 2 0 7)) ++ [1]) = .ok (.iadd (fld 255 1 2 0 7), 8) := ⟨by decide +kernel, by decide +kernel, by rfl⟩

/-- The group has IADD16 r3, r5, or the unlisted halfword 0, at its pc; the outside lets it issue. -/
def issueState (half : Nat) (inputs : List Input) : State :=
  { State.reset with teams := [tm []], ctxs := [ctx0], home := Mem.writeN pages 0x100000 2 half, inputs := inputs }
def w0 : Where := { uid := 1000, group := 0 }
def issueCur (bs : List Byte) : Cur :=
  { w := w0, lanes := List.range 32, pc := 0x100000, next := 0x100000 + bs.length, dword := (decodeWord bs).1, lit := (decodeWord bs).2.1,
    form := (decodeWord bs).2.2, noPatch := false, noG := false }
def issued (s : State) (bs : List Byte) : State :=
  { modThreads { (fetch (startGroup s w0).1 (tm []) ctx0 0x100000).2 with tick := 1 } w0 (List.range 32) (fun th => { th with last := 1, idle := 0, slot := none, gen := 0 }) with
    cur := some (issueCur bs), lastFault := none }
theorem okNext {o : Host.Outcome State Fault Refusal} {p : State → Bool} (h : (match o with | .next s => p s | _ => false) = true) :
    ∃ s, o = .next s ∧ p s = true := by
  match o, h with
  | .next s, h => exact ⟨s, rfl, h⟩
theorem okFetch {a : Fetched × State} {bs : List Byte} (h : (match a.1 with | .bytes b => decide (b = bs) | _ => false) = true) : a = (.bytes bs, a.2) := by
  obtain ⟨f, s⟩ := a
  cases f with
  | bytes b => rw [of_decide_eq_true h]
  | fault i => cases h
  | badLength => cases h
/-- All that the first clause asks of a group that issues. -/
structure Runs (half : Nat) (i : Instr) : Prop where
  inputs : (issueState half [.issue w0]).inputs = .issue w0 :: []
  chosen : chosenFor (issueState half []) w0 = [w0]
  quiet : nextInternal (issueState half []) = none
  ready : readyGroups (issueState half []) = [w0]
  start : (startGroup (issueState half []) w0).2 = true
  team : team? (startGroup (issueState half []) w0).1 1000 = some (tm [])
  group : group? (startGroup (issueState half []) w0).1 w0 = some grp0
  ctx : ctxOf (startGroup (issueState half []) w0).1 (tm []) = some ctx0
  lanes : subsets false grp0 (readyLanes (startGroup (issueState half []) w0).1 (tm []) grp0) = [(0x100000, none, List.range 32)]
  gen : (Machine.core (startGroup (issueState half []) w0).1 0 0).patchGen = 0
  fetched : ∃ s2, fetch (startGroup (issueState half []) w0).1 (tm []) ctx0 0x100000 = (.bytes (leBytes 2 half), s2)
    ∧ matchSlot s2 (tm []) ctx0 (issueCur (leBytes 2 half)) none = none
  decoded : (∃ n, decode (leBytes 2 half) = .ok (i, n)) ∨ ((∃ r, decode (leBytes 2 half) = .error r) ∧ i = .illegalInstruction)
  free : subsetFault (tm []) i = none ∧ ∀ op f, asLong i = some (op, f) → ∀ l ∈ List.range 32,
    (env? (issued (issueState half []) (leBytes 2 half)) (issueCur (leBytes 2 half)) l).any (fun e => laneBlocked (issued (issueState half []) (leBytes 2 half)) e op f) = false
  runs : ∃ s', (match asLong i with
      | some (op, f) => runPaced (exec i) (issueCur (leBytes 2 half)) op f (issued (issueState half []) (leBytes 2 half))
      | none => exec i (issued (issueState half []) (leBytes 2 half))) = .next s'
    ∧ ((List.range 32).all (fun l => laneWaits s' w0 l) == false && s'.rewrite.isEmpty) = true
/-- IADD16 r3, r5 and the unlisted halfword. -/
theorem witness_StepRunsTheInstruction : Runs 0xA62 (.iadd16 3 5) where
  inputs := rfl
  chosen := by decide +kernel
  quiet := by decide +kernel
  ready := by decide +kernel
  start := by decide +kernel
  team := by decide +kernel
  group := by decide +kernel
  ctx := by decide +kernel
  lanes := by decide +kernel
  gen := by decide +kernel
  fetched := ⟨_, okFetch (by decide +kernel), by decide +kernel⟩
  decoded := .inl ⟨2, by rfl⟩
  free := ⟨by decide +kernel, fun op f e => by cases e; decide +kernel⟩
  runs := okNext (by decide +kernel)
theorem witness_StepRunsTheInstruction_illegal : Runs 0 .illegalInstruction where
  inputs := rfl
  chosen := by decide +kernel
  quiet := by decide +kernel
  ready := by decide +kernel
  start := by decide +kernel
  team := by decide +kernel
  group := by decide +kernel
  ctx := by decide +kernel
  lanes := by decide +kernel
  gen := by decide +kernel
  fetched := ⟨_, okFetch (by decide +kernel), by decide +kernel⟩
  decoded := .inr ⟨⟨_, by rfl⟩, rfl⟩
  free := ⟨by decide +kernel, fun op f e => by cases e⟩
  runs := okNext (by decide +kernel)
/-- An event as input; four bytes fetched at the end of a page. -/
theorem witness_StepRunsTheInstruction_events : let s := { State.reset with inputs := [.event .packageReset] }
    s.inputs = .event .packageReset :: [] ∧ isCode .packageReset = false ∧ ∃ s', exec .packageReset { s with inputs := [] } = .next s' ∧ s'.rewrite.isEmpty = true :=
  ⟨rfl, rfl, okNext (by decide +kernel)⟩
/-- A command of the host, behind a write of its port that is still on its way. -/
theorem witness_StepRunsTheInstruction_commands : hostWritten (.poolWrite 0) = true
    ∧ ∃ s', exec (.poolWrite 0) (drainWrites State.reset 0) = .next s' ∧ s'.rewrite.isEmpty = true := ⟨rfl, okNext (by decide +kernel)⟩
theorem witness_StepRunsTheInstruction_paced : ∀ l ∈ (cur [0, 31]).lanes, ∀ e, env? (st [0, 31] (tm [])) (cur [0, 31]) l = some e → paced e = false ∧ e.th.recent = [] := by
  intro l h e he
  simp only [cur, List.mem_cons, List.not_mem_nil, or_false] at h
  rcases h with rfl | rfl <;> · cases he; exact ⟨rfl, rfl⟩
theorem witness_StepRunsTheInstruction_fetch : let s := issueState 1 []
    (tm []).role = .compute ∧ (Machine.core s 0 0).icache = [] ∧ s.poison = [] ∧ lengthOf (s.home.readN 0x100000 2) = some 4
      ∧ ∀ k, k < 4 → locate s ctx0 (0x100000 + k) .fetch = .ok (.mem (0x100000 + k) 0) := by
  refine ⟨rfl, rfl, rfl, by decide +kernel, fun k h => ?_⟩
  obtain ⟨pa, ty, e, h2⟩ := okLow (a := locate (issueState 1 []) ctx0 (0x100000 + k) .fetch) (p := fun pa ty => decide (pa = 0x100000 + k ∧ ty = 0)) (by
    match k, h with
    | 0, _ => decide +kernel
    | 1, _ => decide +kernel
    | 2, _ => decide +kernel
    | 3, _ => decide +kernel)
  obtain ⟨rfl, rfl⟩ := of_decide_eq_true h2
  exact e
theorem witness_StepsKeepTheMachineSound : Sound State.reset ∧ step State.reset = .next State.reset := ⟨⟨rfl, rfl, rfl, rfl⟩, by rfl⟩

/-! ## Witnesses: launches and clusters -/

/-- A kernel record of f registers whose clusters are cw by 1, with these barriers (R318). -/
def record (f cw bars : Nat) : List Byte := leBytes 256 (2 ^ 72 + cw * 2 ^ 80 + 2 ^ 88 + f * 2 ^ 96 + bars * 2 ^ 256)
def request (d : Nat) : LaunchReq :=
  { w := w0, lane := 0, opId := 0, ctx := 0, cls := 3, desc := leBytes 128 d, indirect := false, die := 0, cur := some (cur [0]) }
/-- An accepted launch of this descriptor. -/
def accepted (d : Nat) (pass0 pass1 : Bool) (g : Option (Nat × Nat × Nat)) : Launch :=
  { acc := 5, order := 0, cls := 0, desc := leBytes 128 d, indirect := false, kern := flatKern 16 0, pass0 := pass0, pass1 := pass1, counts := g, watch0 := none, watch1 := none, parked := none,
    heldForGood := false }
def launchCtx (r : List Byte) (n : Nat) : Ctx := { ctx0 with kernels := [(2 ^ 40, r)], launches := List.replicate n (accepted 0 true true none) }
def arbiter (d : Nat) (r : List Byte) (n : Nat) : State :=
  { State.reset with launchQ := [request d], ctxs := [launchCtx r n], home := pages, cores := [{ emptyCore 8 17 with codes := coded.codes }] }
/-- The counts of a descriptor, and kinds 0 and 1. -/
def desc (x y z kind : Nat) : Nat := 2 ^ 40 + x * 2 ^ 128 + y * 2 ^ 144 + z * 2 ^ 160 + kind * 2 ^ 192
/-- Status 2 for a reserved bit, a record out of range and counts of 0; 4 for a cluster barrier of clusters of one core; 1 for a
cooperative grid that does not fit; 3 with 4,096 launches pending; and an accepted one, of the largest counts. -/
theorem witness_LaunchesAndClusters_arrivals :
    (∀ p ∈ ([(2 ^ 40 + 2 ^ 196, record 16 1 0, 0), (desc 1 1 1 0, record 0 1 0, 0), (desc 0 1 1 0, record 16 1 0, 0), (desc 1 1 1 0, record 16 1 (2 ^ 16), 0),
        (desc 65535 1 1 1, record 16 1 0, 0), (desc 1 1 1 0, record 16 1 0, 4096), (desc 65535 65535 65535 0, record 256 12 0, 4095)] : List (Nat × List Byte × Nat)),
      let s := arbiter p.1 p.2.1 p.2.2
      ctx? s 0 = some (launchCtx p.2.1 p.2.2) ∧ s.launchQ = request p.1 :: [] ∧ kernelFor { s with launchQ := [] } (launchCtx p.2.1 p.2.2) (ldKern p.1) = some (kernOf p.2.1))
    ∧ launchOk (2 ^ 40 + 2 ^ 196) false = false ∧ kernOk (kernOf (record 0 1 0)) = false ∧ dimsOk (0, 1, 1) = false ∧ barsBad (kernOf (record 16 1 (2 ^ 16))) 0 = true
    ∧ coResident (arbiter 0 [] 0) ctx0 (kernOf (record 16 1 0)) 65535 = false
    ∧ (∀ q ∈ [desc 1 1 1 0, desc 65535 65535 65535 0], launchOk q false = true ∧ dimsOk (ldGdim q) = true ∧ ldKind q = 0)
    ∧ (∀ r ∈ [record 16 1 0, record 256 12 0], kernOk (kernOf r) = true ∧ barsBad (kernOf r) 0 = false) := by
  refine ⟨fun p h => ?_, by decide +kernel, by decide +kernel, by decide +kernel, by decide +kernel, by decide +kernel, by decide +kernel, by decide +kernel⟩
  simp only [List.mem_cons, List.not_mem_nil, or_false] at h
  rcases h with rfl | rfl | rfl | rfl | rfl | rfl | rfl <;> exact ⟨rfl, rfl, by decide +kernel⟩
/-- Gates at 0x20000 and 0x20008, which hold 0: for 0 both open, for 1 the second does not. -/
theorem witness_LaunchesAndClusters_gates :
    (∀ p ∈ ([(0, false, false, none), (2 ^ 640, false, false, none), (0, true, false, none), (2 ^ 672, true, false, none), (0, true, true, some (1, 1, 65535)), (0, true, true, some (1, 0, 1))] :
        List (Nat × Bool × Bool × Option (Nat × Nat × Nat))),
      let l := accepted (0x20000 * 2 ^ 512 + 0x20008 * 2 ^ 576 + p.1) p.2.1 p.2.2.1 p.2.2.2
      let x := { ctx0 with launches := [l] }
      ctx? { memState with ctxs := [x] } 0 = some x ∧ x.launches.find? (fun m => m.acc == l.acc) = some l ∧ l.heldForGood = false ∧ l.parked = none ∧ l.watch0 = none ∧ l.indirect = false)
    ∧ (∀ a ∈ [0x20000, 0x20008], ∃ pa ty, checkGlobal memState ctx0 a 8 .monitor = .ok (.mem pa ty) ∧ decide (poisoned memState pa 8 = false ∧ memState.home.readN pa 4 = 0) = true)
    ∧ ldPval (2 ^ 672) 1 = 1 ∧ ldPval (2 ^ 640) 0 = 1 := by
  refine ⟨fun p h => ?_, fun a h => ?_, by decide +kernel, by decide +kernel⟩ <;> simp only [List.mem_cons, List.not_mem_nil, or_false] at h
  · rcases h with rfl | rfl | rfl | rfl | rfl | rfl <;> exact ⟨rfl, rfl, rfl, rfl, rfl, rfl⟩
  · rcases h with rfl | rfl <;> exact okLow (by decide +kernel)
/-- A grid of one cluster of 12 by 1 cores that waits in line for die 0. -/
def placeGrid : Grid := { grid0 { flatKern 256 0 with cw := 12, bars := 0 } with next := 0, live := [], gdim := (12, 1, 1) }
def placeCtx : Ctx := { ctx0 with grids := [placeGrid] }
def placeState : State := { State.reset with ctxs := [placeCtx], home := pages }
theorem witness_LaunchesAndClusters_placement : (∃ i more, placerLine placeState = i :: more ∧ i.atGate = false ∧ i.kind = 0 ∧ i.ctx = 0 ∧ i.acc = 0)
    ∧ ctx? placeState 0 = some placeCtx ∧ grid? placeState 0 0 = some placeGrid ∧ placeGrid.waiting = [] ∧ placeGrid.next < gridClusters placeGrid
    ∧ diesFor placeCtx placeGrid (.fresh 0) = 0 :: [] ∧ fitsOn placeState placeCtx placeGrid (.fresh 0) 0 = some (List.range 12)
    ∧ firstStanding placeState 0 = some (0, 0, 0) ∧ (0, 0, 0, 0) ∉ placeState.placerHold :=
  ⟨⟨_, _, rfl, rfl, rfl, rfl, rfl⟩, rfl, rfl, rfl, by decide +kernel, by decide +kernel, by decide +kernel, by decide +kernel, List.not_mem_nil⟩
/-- The last cluster retires; a grid with nothing left completes, with a completion word and without. -/
def doneGrid (d : Nat) : Grid := { grid0 (flatKern 256 0) with live := [], nextRetire := 1, desc := leBytes 128 d }
theorem witness_LaunchesAndClusters_ends :
    (let s := st [0] endedTeam gridCtx
     grid? s 0 0 = some (grid0 (flatKern 256 0x10000)) ∧ endedTeam ∈ s.teams ∧ endedTeam.role = .compute ∧ endedTeam.k = 0 ∧ teamEnded endedTeam = true ∧ endedTeam.mq = []
      ∧ (∀ t ∈ s.teams, t = endedTeam) ∧ s.cores = [])
    ∧ (∀ d ∈ [0, 0x20000 * (2 ^ 192 * 2 ^ 192)], let x := { ctx0 with grids := [doneGrid d], wdog := 1 }
      let s := { State.reset with ctxs := [x], home := pages }
      ctx? s 0 = some x ∧ grid? s 0 0 = some (doneGrid d) ∧ (doneGrid d).next = gridClusters (doneGrid d) ∧ (doneGrid d).waiting = [] ∧ (doneGrid d).live = []
        ∧ (doneGrid d).away = [] ∧ (doneGrid d).retired = [] ∧ gridBusy s 0 0 = false ∧ s.cores = [] ∧ x.wdog ≠ 0)
    ∧ ldCadr2 (0x20000 * (2 ^ 192 * 2 ^ 192)) = 0x20000 ∧ ∃ pa ty, checkGlobal memState ctx0 0x20000 8 .store = .ok (.mem pa ty) := by
  refine ⟨⟨rfl, List.mem_singleton.2 rfl, rfl, rfl, by decide +kernel, rfl, fun t h => List.mem_singleton.1 h, rfl⟩, fun d h => ?_, by decide +kernel, okMem (by decide +kernel)⟩
  simp only [List.mem_cons, List.not_mem_nil, or_false] at h
  rcases h with rfl | rfl <;> exact ⟨rfl, rfl, rfl, rfl, rfl, rfl, rfl, by decide +kernel, rfl, by decide⟩
/-- Registers of the control aperture. -/
def withCtl (cs : List (Nat × Word)) (s : State) : State := { s with regs := { s.regs with ctl := cs } }
def event : Ev := { die := 15, kind := 255, ctx := 65535, cyc := 1, acc := 2, cix := 3, info := 2 ^ 36 - 1, dseq := 4 }
/-- No ring, a ring of 16 with 16 events unread, one with 15; a fault queue of 16 with 16 and with 15 entries unread. -/
theorem witness_LaunchesAndClusters_rings :
    (∀ p ∈ ([([], 0, 0), ([(0x300020, 0x30000), (0x300028, 16)], 16, 16), ([(0x300020, 0x30000), (0x300028, 16)], 15, 16)] : List (List (Nat × Word) × BitVec 32 × Nat)),
      let s0 := withCtl p.1 { memState with evQ := [event] }
      let s := { s0 with regs := { s0.regs with evwr := p.2.1 } }
      s.evQ = event :: [] ∧ s.home.wf = true ∧ bits (ctlGet s 0x300028) 31 0 = (if p.1 = [] then 0 else p.2.2)
        ∧ (s.regs.evwr - BitVec.ofNat 32 (bits (ctlGet s 0x300030) 63 32)).toNat = p.2.1.toNat
        ∧ bits (ctlGet s 0x300020) 55 0 + 64 * (s.pseq % 16) < 2 ^ 40)
    ∧ event.die < 16 ∧ event.kind < 2 ^ 8 ∧ event.ctx < 2 ^ 16 ∧ event.info < 2 ^ 36
    ∧ ∀ n ∈ ([16, 15] : List (BitVec 32)), let x := { ctx0 with fqPend := [List.replicate 8 0], fqwr := n }
      ctx? { memState with ctxs := [x] } 0 = some x ∧ (x.fqwr - BitVec.ofNat 32 (memState.home.readN (ctxDesc memState 0 + 44) 4)).toNat = n.toNat ∧ x.fqlen = 16 := by
  refine ⟨fun p h => ?_, by decide, by decide, by decide, by decide, fun n h => ?_⟩ <;> simp only [List.mem_cons, List.not_mem_nil, or_false] at h
  · rcases h with rfl | rfl | rfl <;> exact ⟨rfl, by decide +kernel, by decide +kernel, by decide +kernel, by decide +kernel⟩
  · rcases h with rfl | rfl <;> exact ⟨rfl, by decide +kernel, rfl⟩

/-! ## Witnesses: the driver's commands -/

/-- Context 65,535 of 65,536, whose descriptor has the smallest and largest powers of two as lengths. -/
def created : State :=
  withCtl [(0x400000, 0x1000000), (0x400008, 65536)]
    { State.reset with home := Mem.writeN [] (0x1000000 + 256 * 65535) 256 (2 ^ 63 + 1 + 16 * 2 ^ 256 + 2 ^ 20 * (2 ^ 224 * 2 ^ 224)) }
/-- A group whose lane 0 took a fault, parked on an address of a range of 2^12 bytes that is shot down. -/
def faultGroup : Group := { grp0 with threads := [{ thr with status := .faulted }, thr], stopped := true, parked := some 0x20FFF }
def faultState : State :=
  { withCtl [(0x400808, 2 ^ 61 + 12), (0x400800, 0x20000)] (st [0] (tm [] faultGroup)) with shootdown := some (0, 0x20000, 0x1000) }
/-- A context with a watchdog and one grid, no group of which is stopped. -/
def dogState : State := { State.reset with ctxs := [{ gridCtx with wdog := 1 }] }
theorem witness_ContextCommands_create :
    (let s := created
     let D := s.home.readN (ctxDesc s 65535) 256
     ctx? s 65535 = none ∧ 65535 < bits (ctlGet s 0x400008) 16 0 ∧ ctxDesc s 65535 + 256 ≤ 2 ^ 40 ∧ poisoned s (ctxDesc s 65535) 256 = false
      ∧ bit D 63 = true ∧ bits D 7 0 ≠ 0 ∧ bits D 61 56 = 0 ∧ bits D 11 8 = 0 ∧ bits D 127 120 = 0 ∧ bits D 255 248 = 0 ∧ bits D 319 288 = 0 ∧ bits D 447 440 = 0
      ∧ bits D 511 480 = 0 ∧ bits D 2047 576 = 0 ∧ bits D 287 256 = 2 ^ 4 ∧ bits D 479 448 = 2 ^ 20 ∧ bits D 255 192 % 64 = 0 ∧ bits D 447 384 % 32 = 0)
    ∧ bit (State.reset.home.readN (ctxDesc State.reset 0) 256) 63 = false ∧ (ctx? faultState 0).isSome = true ∧ ctx? faultState 1 = none := by
  refine ⟨by decide +kernel, by decide +kernel, rfl, rfl⟩
theorem witness_ContextCommands_actions :
    (actionGroups faultState (actionId faultState 0) = [w0] ∧ team? faultState 1000 = some (tm [] faultGroup) ∧ grp? (tm [] faultGroup) 0 = some faultGroup
      ∧ ctxOf faultState (tm [] faultGroup) = some ctx0 ∧ 256 ≤ w0.uid ∧ faultGroup.threads[0]? = some { thr with status := .faulted }
      ∧ (∀ m u, faultGroup.threads[m]? = some u → u.status = .faulted → m = 0)
      ∧ ∀ (m : Nat) (u : Thread), faultGroup.threads[m]? = some u → ∀ a b d e, u.status ≠ .heldLane a b d e ∧ u.status ≠ .heldWindow a b d e)
    ∧ actionGroups faultState (actionId faultState 1) = [] ∧ watchdogNamed faultState (actionId faultState 1) = false
    ∧ (waitingTeams dogState = [] ∧ actionGroups dogState (actionId dogState 0) = [] ∧ watchdogNamed dogState (actionId dogState 0) = true)
    ∧ (shootStatus State.reset ≠ 1 ∧ shootStatus faultState = 1 ∧ faultState.shootdown = some (0, 0x20000, 0x1000) ∧ waitingTeams faultState = [] ∧ faultGroup.parked = some 0x20FFF ∧ (tm [] faultGroup).lost = false)
    ∧ (faultState.ctxs ≠ [] ∧ State.reset.ctxs = [] ∧ State.reset.cores = [] ∧ (List.range 1024).all (fun r => regionByte State.reset r % 4 != 2) = true) := by
  have two : ∀ (m : Nat) (u : Thread), faultGroup.threads[m]? = some u → (m = 0 ∧ u.status = .faulted) ∨ u.status = .running := by
    intro m u h
    rcases m with - | - | m
    · cases h; exact .inl ⟨rfl, rfl⟩
    · cases h; exact .inr rfl
    · cases h
  refine ⟨⟨by decide +kernel, rfl, rfl, rfl, by decide, rfl, fun m u h e => ?_, fun m u h a b d e => ?_⟩, by decide +kernel, by decide +kernel, by decide +kernel⟩
  · rcases two m u h with h | h
    · exact h.1
    · rw [h] at e; cases e
  · rcases two m u h with h | h
    · rw [h.2]; exact ⟨nofun, nofun⟩
    · rw [h]; exact ⟨nofun, nofun⟩

/-- Queue 255 at a state, of this context. -/
def queueIn (state : Nat) (flt : Bool) (x : Nat) : State :=
  { State.reset with ctxs := [ctx0], home := pages, queues := [{ queue0 255 with state := state, flt := flt, ctx := BitVec.ofNat 16 x }] }
theorem witness_QueueAndSiteCommands :
    (∀ n ∈ [0, 5], (queueRec (queueIn n false 0) 255).state = n ∧ (queueRec (queueIn n false 0) 255).flt = false ∧ ctx? (queueIn n false 0) 0 = some ctx0
      ∧ (queueIn n false 0).teams = [] ∧ ctx? (queueIn n false 7) 7 = none)
    ∧ (queueRec (queueIn 4 true 0) 255).flt = true ∧ (∀ n ∈ [1, 2, 3], (queueRec (queueIn n false 0) 255).state = n)
    ∧ residents placeState 0 0 = [] ∧ residents placeState 0 167 = [] ∧ residents memState 0 0 ≠ []
    ∧ bits (0xA8A8 : Word).toNat 7 0 = 168 ∧ bits (0xA700 : Word).toNat 7 0 = 0 ∧ bits (0xA700 : Word).toNat 15 8 = 167 := by
  refine ⟨fun n h => ?_, rfl, fun n h => ?_, by decide +kernel, by decide +kernel, by decide +kernel, by decide, by decide, by decide⟩ <;>
    simp only [List.mem_cons, List.not_mem_nil, or_false] at h
  · rcases h with rfl | rfl <;> exact ⟨rfl, rfl, rfl, rfl, rfl⟩
  · rcases h with rfl | rfl | rfl <;> rfl

/-- A loaded image, emulation requests of lane 0 that wait and that run, and threads on the patch core that have ended or not. -/
def emuReq (running : Bool) : EmuReq :=
  { w := w0, lanes := [0], iod := 1, d := 0, lit := 0, pc := 0x100000, next := 0x100008, ctx := 0, pid := 1, entry := 0x10, gen := 0, die := 0, site := 0, f := 256, running := running }
def emuTeam (status : Status) (how : Nat) : Team :=
  { soloTeam 257 (.patch 1) 0 9 16 256 0x1000 with groups := [{ grp0 with threads := [{ thr with status := status }] }], lmem := Mem.writeN [] 0x600 1 how }
def emuState (running : Bool) (status : Status) (how : Nat) : State := { memState with emuQ := [emuReq running], teams := [emuTeam status how, memTeam] }
def anImage : Patch := { id := 1, ver := 0, rp := false, lvl := 1, slots := [], code := [], data := [], bytes := [] }
/-- The status 0 of an image depends on the vendor's key, which the model leaves open; the checks before it fail here. -/
theorem witness_SecureControllerCommands :
    patchStatus State.reset ≠ 1 ∧ patchStatus (withCtl [(0x500000, 2 ^ 27)] State.reset) = 1 ∧ imageStatus State.reset (mailboxImage State.reset) 1 = 2
    ∧ State.reset.patch = none ∧ ({ State.reset with patch := some anImage } : State).patch = some anImage
    ∧ unitCount 6 ≤ 0 ∧ 255 < unitCount 0 ∧ imageStatus State.reset (mailboxImage State.reset) 2 = 2
    ∧ ({ State.reset with staged := some { target := 1, unit := 255, image := [] } } : State).staged = some { target := 1, unit := 255, image := [] } ∧ unitBusy State.reset 1 255 = false
    ∧ State.reset.staged = none ∧ unitBusy State.reset 3 0 = true
    ∧ (∀ u < 2, ({ State.reset with staged := some { target := 4, unit := u, image := [] } } : State).staged = some { target := 4, unit := u, image := [] }
      ∧ u < unitCount 4 ∧ unitBusy State.reset 4 u = false)
    ∧ (∀ p ∈ [(Status.ended, 0), (.ended, 1), (.running, 0)],
      (emuState true p.1 p.2).emuQ.find? (fun q => q.iod == 1 && q.running) = some (emuReq true) ∧ team? (emuState true p.1 p.2) (emuUid 1) = some (emuTeam p.1 p.2)
        ∧ teamEnded (emuTeam p.1 p.2) = decide (p.1 = .ended) ∧ (emuTeam p.1 p.2).lmem.readN 0x600 1 = p.2
        ∧ team? (emuState true p.1 p.2) w0.uid = some memTeam ∧ grp? memTeam 0 = some grp0 ∧ memTeam.kern.f = 256)
    ∧ (emuState false .ended 0).emuQ.find? (fun q => q.iod == 1) = some (emuReq false) := by
  refine ⟨by decide, by decide, by decide +kernel, rfl, rfl, by decide, by decide, by decide +kernel, rfl, rfl, rfl, by decide, by decide, fun p h => ?_, rfl⟩
  simp only [List.mem_cons, List.not_mem_nil, or_false] at h
  rcases h with rfl | rfl | rfl <;> exact ⟨rfl, rfl, by decide +kernel, by decide +kernel, rfl, rfl, rfl⟩

theorem witness_PackageRegisters :
    ({ State.reset with regs := { State.reset.regs with io1pending := some 2 } } : State).regs.io1pending = some 2 ∧ State.reset.regs.io1pending = none
    ∧ ({ State.reset with portFirmware := [{ target := 4, unit := 1, image := [] }] } : State).portFirmware.find? (fun f => f.unit == 1)
      = some { target := 4, unit := 1, image := [] }
    ∧ (∀ f ∈ ({ State.reset with portFirmware := [{ target := 4, unit := 1, image := [] }] } : State).portFirmware, f.unit ≠ 0)
    ∧ (bits (ctlGet State.reset 0x400C00) 62 61 ≠ 1 ∧ bits (ctlGet (withCtl [(0x400C00, 2 ^ 61)] State.reset) 0x400C00) 62 61 = 1)
    ∧ (∀ g ∈ ([(0x400010, 31), (0x400808, 63), (0x400840, 33), (0x400880, 47), (0x4008C0, 63), (0x500000, 31), (0x500100, 31), (0x500240, 31)] : List (Nat × Nat)),
      bit (BitVec.ofNat 64 (2 ^ g.2)).toNat g.2 = true ∧ bit (ctlGet State.reset g.1) g.2 = false) := by decide +kernel

def inReq (port : Nat) (kind : InKind) (addr len : Nat) : InReq :=
  { port := port, kind := kind, addr := addr, len := len, data := List.replicate len 7, relaxed := false, idOrdered := false, requester := 1, poisoned := false, peer := 1 }
def piece (id wr : Nat) (kind : InKind) : Piece :=
  { id := id, port := 0, wr := wr, kind := kind, home := 0, pa := 0x20000, len := 8, data := List.replicate 8 1, relaxed := false, idOrdered := false, requester := 1 }
/-- The last byte of HBM and one beyond; a request to a port in mode 0 and in mode 2, where no window admits it; a piece that is ready and one behind a write. -/
theorem witness_InboundRequests :
    (inReq 0 .read (2 ^ 40 - 1) 1).addr + 1 = 2 ^ 40 ∧ State.reset.regs.io1mode = 0 ∧ admitted State.reset 1 0 8 (inClass .read) = false
    ∧ (∀ k ∈ [InKind.read, .write, .fetchAdd], let s := { State.reset with pieces := [piece 3 1 k] }
      s.pieces.find? (fun q => q.id == 3) = some (piece 3 1 k) ∧ ∀ q ∈ s.pieces, q.port = 0 → q.kind = .write → ¬ (q.wr < 1))
    ∧ (let s := { State.reset with pieces := [piece 2 0 .write, piece 3 1 .read] }
       s.pieces.find? (fun q => q.id == 3) = some (piece 3 1 .read) ∧ ∃ q ∈ s.pieces, q.port = 0 ∧ q.kind = .write ∧ q.wr < 1)
    ∧ (inReq 0 .write 0 512).data.length = 512 ∧ (inReq 0 .write 0 513).data.length = 513 ∧ 0 + (inReq 0 .read 0 4096).len ≤ 2 ^ 40
    ∧ (State.reset.regs.ports[15]? = some portReset ∧ portReset.up = false ∧ bit (ctlGet State.reset 0x700000) 16 = false
      ∧ { portReset with up := true }.up = true)
    -- one window of 16 bytes for reads, writes and atomics of peer 1
    ∧ (let s := withCtl [(0x700000, 2 ^ 16), (0x702000, 0x7001), (0x702008, 0x20000), (0x702010, 16)] State.reset
       bit (ctlGet s 0x700000) 16 = true ∧ admitted s 1 0x20008 8 (inClass .read) = true ∧ admitted s 1 0x20009 8 (inClass .write) = false) := by
  refine ⟨by decide, rfl, by decide +kernel, fun k h => ⟨by simp [piece], fun q m _ _ => ?_⟩, ⟨rfl, piece 2 0 .write, by simp, rfl, rfl, by decide⟩, by decide +kernel, by decide +kernel, by decide, ⟨rfl, rfl, by decide +kernel, rfl⟩, by decide +kernel⟩
  cases List.mem_singleton.1 m; simp [piece]

/-- A team of the context at site 0 of die 0; room for its image, for none of it, and an address at the end of HBM; a context image at 0x20000. -/
def saveState (addr size : Nat) : State := withCtl [(0x400850, BitVec.ofNat 64 addr), (0x400848, BitVec.ofNat 64 size)] memState
def restoreState (magic : Nat) : State :=
  withCtl [(0x400888, 0x20000)] { memState with home := Mem.writeN pages 0x20000 16 (magic + 2 ^ 32 + 2048 * 2 ^ 64) }
theorem witness_SavesAndRestores :
    ctx? (saveState 0x40000 0) 7 = none ∧ ctx? (saveState 0x40000 0) 0 = some ctx0 ∧ 0x40001 % 64 ≠ 0 ∧ 0x40000 % 64 = 0
    ∧ (∃ t ∈ memState.teams, (t.role == .compute && t.ctx == 0 && t.die == 0 && t.site == 0 && !t.lost) = true)
    ∧ (∀ scope ∈ [0, 1], ∃ x1, ctx? (quiesce (storeSaveCmd (saveState 0x40000 0) 0 scope) [1000]) 0 = some x1)
    ∧ (let h := (restoreState 0x45564153).home.readN 0x20000 64
       bits h 31 0 = 0x45564153 ∧ bits h 47 33 = 0 ∧ bits h 511 256 = 0 ∧ bits h 63 48 = 0 ∧ bit h 32 = true ∧ 0x20000 + bits h 127 64 < 2 ^ 40)
    ∧ (ctx? (restoreState 0x45564153) 0).isSome = true ∧ poisoned (restoreState 0x45564153) 0x20000 64 = false
    ∧ bits ((restoreState 0).home.readN 0x20000 64) 31 0 ≠ 0x45564153 :=
  ⟨rfl, rfl, by decide, by decide, ⟨memTeam, List.mem_singleton.2 rfl, rfl⟩, fun scope h => by
    simp only [List.mem_cons, List.not_mem_nil, or_false] at h
    rcases h with rfl | rfl
    · exact Option.isSome_iff_exists.1 (by decide +kernel)
    · exact Option.isSome_iff_exists.1 (by decide +kernel), by decide +kernel, rfl, rfl, by decide +kernel⟩

/-! ## Witnesses of single clauses: handles, elections, windows, homes, the stash -/

/-- v2 of lane 0 is a handle; entry 3 of the code-object table, of four entries, is this word. -/
def handleTeam (h : Nat) : Team := tm (vmem [(2, h)])
def tableCtx : Ctx := { ctx0 with cotbase := 0x30000, cotn := 4 }
def tableState (h y : Nat) : State := withCore coded { st [0] (handleTeam h) tableCtx with home := Mem.writeN pages 0x30030 16 y }
def tableEntry (base : Nat) : Nat := 2 ^ 127 + 0x800 * 2 ^ 64 + base
/-- Handles of id 0, of the last id and one beyond, and at the end of object 1; of object 3 at its last halfword, at its end,
and with an entry whose base is no multiple of 16. -/
theorem witness_Transfers_handles :
    (∀ p ∈ ([(0x10, 0), (4 * 2 ^ 40, 0), (2 ^ 40 + 0x1000, 0), (3 * 2 ^ 40 + 0x7FE, tableEntry 0x200000), (3 * 2 ^ 40 + 0x800, tableEntry 0x200000),
        (3 * 2 ^ 40, tableEntry 0x200008)] : List (Nat × Nat)),
      (∀ i ∈ [Instr.brx, Instr.ret], Solo (i (fld 0 2 0 0)) (fld 0 2 0 0) (tableState p.1 p.2) (cur [0]) (handleTeam p.1) grp0 tableCtx 0)
      ∧ NoPatch (tableState p.1 p.2) (cur [0]) (handleTeam p.1) tableCtx
      ∧ srcA (laneEnv (cur [0]) (handleTeam p.1) grp0 tableCtx 0) (fld 0 2 0 0) = p.1)
    ∧ (∀ id ∈ [0, 4, 3], coded.codes.find? (fun e => e.ctx == 0 && e.id == id) = none)
    ∧ (∃ e, coded.codes.find? (fun e => e.ctx == 0 && e.id == 1) = some e ∧ e.len ≤ 0x1000)
    ∧ (∀ b ∈ [0x200000, 0x200008], ∃ pa ty, locate (tableState 0 (tableEntry b)) tableCtx (tableCtx.cotbase + 16 * 3) .load = .ok (.mem pa ty)
      ∧ (decide (pa + 16 ≤ 2 ^ 40) && !poisoned (tableState 0 (tableEntry b)) pa 16 && (tableState 0 (tableEntry b)).home.readN pa 16 == tableEntry b) = true)
    ∧ (let y := tableEntry 0x200000; bit y 127 = true ∧ bits y 126 104 = 0 ∧ bits y 63 56 = 0 ∧ bits y 3 0 = 0 ∧ bits y 103 64 = 0x800)
    ∧ bits (tableEntry 0x200008) 3 0 ≠ 0 := by
  refine ⟨fun p m => ?_, by decide +kernel, ⟨_, rfl, by decide⟩, fun b m => ?_, by decide +kernel, by decide +kernel⟩ <;>
    simp only [List.mem_cons, List.not_mem_nil, or_false] at m
  · refine ⟨fun i h => ?_, ⟨rfl, .inr rfl⟩, ?_⟩
    · simp only [List.mem_cons, List.not_mem_nil, or_false] at h
      rcases h with rfl | rfl <;> rcases m with rfl | rfl | rfl | rfl | rfl | rfl <;>
        exact soloAt ⟨rfl, rfl, rfl, rfl, by decide, by decide, rfl⟩ (by decide +kernel) rfl rfl (by decide +kernel) (by decide +kernel)
    · rcases m with rfl | rfl | rfl | rfl | rfl | rfl <;> decide +kernel
  · rcases m with rfl | rfl <;> exact okLow (by decide +kernel)

/-- A deterministic context, and one that has these tags and claims. -/
def detCtx : Ctx := { ctx0 with det := true }
/-- Lane 0 issues an ELECT at which lanes 1 to 31 are still to come. -/
theorem witness_ReadsAndHints_late : Ready (.elect (fld 1 7 0 0)) (st [0] (tm []) detCtx) (cur [0]) (tm []) grp0 detCtx
    ∧ detCtx.det = true ∧ acting (cur [0]) grp0 (fld 1 7 0 0) ≠ []
    ∧ ∃ l th, grp0.threads[l]? = some th ∧ l ∉ (cur [0]).lanes ∧ th.pc.toNat = (cur [0]).pc ∧ th.status ≠ .ended ∧ th.status ≠ .deposited
      ∧ guardTrue (fld 1 7 0 0) th = true :=
  ⟨ready ⟨rfl, rfl, rfl, rfl, by decide, by decide, rfl⟩ (by decide +kernel) rfl rfl rfl, rfl, by decide, 31, thr, rfl, by decide, by decide, by decide, by decide, by decide⟩

/-- A window of this kind from 0x8000_0000 over a page, with these parameters, its elements in format 3. -/
def windowWord (kind p0 p1 p2 : Nat) : Nat :=
  0x80000000 + 4096 * 2 ^ 64 + kind * 2 ^ 124 + p0 * 2 ^ 128 + p1 * 2 ^ 192 + p2 * 2 ^ 256 + (fdPresets.getD 3 0).toNat * 2 ^ 448
theorem witness_LoadsSeeTheirCore_windows : (∀ k ∈ [1, 2, 3, 4], let d := windowWord k 1 2 3
      wdKind d = k ∧ (if wdKind d = 4 then 128 else (fdrOf (wdFmt d)).w) ∈ [8, 128]
      ∧ findWindow ({ ctx0 with wd := ctx0.wd.set 15 (BitVec.ofNat 512 d) } : Ctx).wd 0x80000FFF = some d)
    ∧ findWindow ctx0.wd 0x80000000 = none := by decide +kernel

def tagged (t : List (Nat × Writer)) : Ctx := { detCtx with tags := t }
/-- A store of lane 1: no tag, one of lane 0, one of lane 2. -/
theorem witness_StoresReachTheirHome_tags : ∀ p ∈ ([([], false), ([(0x20000, writerOf memTeam 0 0)], false), ([(0x20000, writerOf memTeam 0 2)], true)] : List (List (Nat × Writer) × Bool)),
    let s := { memState with ctxs := [tagged p.1] }
    ctx? s (writerOf memTeam 0 1).ctx = some (tagged p.1) ∧ (tagged p.1).det = true ∧ (writerOf memTeam 0 1).graded = true ∧ s.home.wf = true ∧ s.poison = []
    ∧ (match (ctx? s (writerOf memTeam 0 1).ctx).bind (fun y => (y.tags.find? (fun t => t.1 == 0x20000)).map (·.2)) with
      | some v => listLt (writerKey (writerOf memTeam 0 1)) (writerKey v) | none => false) = p.2 := fun p m => by
  simp only [List.mem_cons, List.not_mem_nil, or_false] at m
  rcases m with rfl | rfl | rfl <;> exact ⟨rfl, rfl, rfl, by decide +kernel, rfl, by decide +kernel⟩

/-- The stash maps its first sector to 0x20000; two of its bytes are dirty; it is valid or not. -/
def stashTeam (valid : List Nat) : Team :=
  { tm [(0x400003, 5), (0x40000F, 6)] with stash := [{ valid := true, gva := 0x20000, nsec := 1, loff := 0 }], stashValid := valid,
                                           stashDirty := [(0x400003, writerOf memTeam 0 0), (0x40000F, writerOf memTeam 0 31)] }
def stashState (valid : List Nat) : State := st [0] (stashTeam valid)
theorem witness_LocalStoresWrite_stash :
    (∀ v ∈ [[], [0x40000]], team? (stashState v) 1000 = some (stashTeam v) ∧ (stashTeam v).lmem.wf = true
      ∧ stashMap (stashTeam v) (0x40000F / 16 * 16) = some 0x20000 ∧ stashMap (stashTeam v) (0x400010 / 16 * 16) = none)
    ∧ (∃ bs s1, loadNow (stashState []) ctx0 0 0 0x20000 16 .stashLoad = .ok (bs, s1))
    ∧ (∀ d ∈ (stashTeam []).stashDirty, stashMap (stashTeam []) d.1 = some (0x20000 + d.1 % 16) ∧ findWindow ctx0.wd (0x20000 + d.1 % 16) = none
      ∧ checkGlobal (stashState []) ctx0 (0x20000 + d.1 % 16) 1 .stashStore = .ok (.mem (0x20000 + d.1 % 16) 0))
    ∧ ((stashTeam []).stashDirty.map (fun d => 0x20000 + d.1 % 16)).Nodup := by
  refine ⟨fun v m => ?_, okTwo (by decide +kernel), ?_, by decide⟩
  · simp only [List.mem_cons, List.not_mem_nil, or_false] at m
    rcases m with rfl | rfl <;> exact ⟨rfl, by decide +kernel, by decide, by decide⟩
  · intro d h
    have h' : d = (0x400003, writerOf memTeam 0 0) ∨ d = (0x40000F, writerOf memTeam 0 31) := by
      simpa only [stashTeam, List.mem_cons, List.not_mem_nil, or_false] using h
    have c : ∀ a ∈ [0x20003, 0x2000F], checkGlobal (stashState []) ctx0 a 1 .stashStore = .ok (.mem a 0) := by
      intro a m
      obtain ⟨pa, ty, e, q⟩ := okLow (a := checkGlobal (stashState []) ctx0 a 1 .stashStore) (p := fun pa ty => decide (pa = a ∧ ty = 0)) (by
        simp only [List.mem_cons, List.not_mem_nil, or_false] at m
        rcases m with rfl | rfl <;> decide +kernel)
      obtain ⟨rfl, rfl⟩ := of_decide_eq_true q
      exact e
    rcases h' with rfl | rfl
    · exact ⟨by decide, by decide +kernel, c _ (by decide)⟩
    · exact ⟨by decide, by decide +kernel, c _ (by decide)⟩

/-- A window, an HBM byte of a STRONG page, a host window's byte, a UALink peer. -/
theorem witness_StoresIssue_places : memState.home.wf = true ∧ memState.poison = [] ∧ (∀ y, ctx? memState memTeam.ctx = some y → y.det = false)
    ∧ (∀ d ∈ (Machine.core memState 0 0).dirty, d.pa < 0x20000 ∨ 0x20000 + 8 ≤ d.pa)
    ∧ (∃ io, targetOf memState (8 * 2 ^ 48) = .host io) ∧ targetOf memState (12 * 2 ^ 48 + 7 * 2 ^ 40) = .ualink 7 :=
  ⟨by decide +kernel, rfl, fun y e => by cases e; rfl, by decide, ⟨0, rfl⟩, by decide⟩


/-! ## Witnesses of single clauses: claims, factors, places, steps of the engine -/

/-- The line of 0x20000 is claimed for another team, or for this one. -/
def claimed (c : Nat × Nat × Nat) : Ctx := { detCtx with claims := [(1024, c)] }
/-- Another context, deterministic, in which a line is claimed. -/
def otherCtx : Ctx := { claimed (1, 2, 3) with id := 1 }
/-- The core next door is team 1 of the cluster; v4 of lane 0 is the first byte of its scratchpad; v8 the rank 5. -/
def nextTeam : Team := { soloTeam 1001 .compute 0 0 1 256 0x10000 with k := 1, groups := [grp0] }
def clusterTeam : Team := { tm (vmem [(2, 0x20000), (4, 0x2200000), (8, 5)]) with kern := { flatKern 256 0x10000 with cw := 2 } }
def clusterState : State := { st [0] clusterTeam detCtx with teams := [clusterTeam, nextTeam] }
theorem refusedAt {a : Except FaultInfo Loc} {s : State} {x : Ctx} {n : Nat} {o : Nat × Nat × Nat}
    (h : (match a with | .ok (.mem pa _) => !poisoned s pa n && decide (x.claims.find? (fun q => q.1 == pa / 128) = some (pa / 128, o)) | _ => false) = true) :
    ∃ pa ty, a = .ok (.mem pa ty) ∧ poisoned s pa n = false ∧ x.claims.find? (fun q => q.1 == pa / 128) = some (pa / 128, o) := by
  match a, h with
  | .ok (.mem pa ty), h =>
    simp only [Bool.and_eq_true, Bool.not_eq_true', decide_eq_true_eq] at h
    exact ⟨pa, ty, rfl, h.1, h.2⟩
/-- Atomics on a line of another team and on one's own, a format atomic on a deterministic context's line, one at another
team's scratchpad, and an ATOMRD to another team. -/
theorem witness_AtomicsIssue_refused :
    (∀ c ∈ [((1, 2, 3) : Nat × Nat × Nat), (0, 0, 0)], let x := claimed c
      let s := st [0] memTeam x
      Solo (.atomAdd (atomFld false 255 0)) (atomFld false 255 0) s (cur [0]) memTeam grp0 x 0
      ∧ NoPatch s (cur [0]) memTeam x ∧ ctx? s x.id = some x ∧ x.det = true
      ∧ (∃ pa ty, checkGlobal s x 0x20000 8 (.atomic .add) = .ok (.mem pa ty) ∧ poisoned s pa 8 = false
        ∧ x.claims.find? (fun q => q.1 == pa / 128) = some (pa / 128, c)))
    ∧ ((1, 2, 3) : Nat × Nat × Nat) ≠ (memTeam.acc, memTeam.cix, memTeam.k) ∧ ((0, 0, 0) : Nat × Nat × Nat) = (memTeam.acc, memTeam.cix, memTeam.k)
    ∧ (let s := { memState with ctxs := [ctx0, otherCtx] }
      Solo (.atomFadd (atomFld false 1 0)) (atomFld false 1 0) s (cur [0]) memTeam grp0 ctx0 0 ∧ NoPatch s (cur [0]) memTeam ctx0
      ∧ ctx? s 0 = some ctx0 ∧ ctx0.det = false ∧ AtomKind.fadd.isFmt = true
      ∧ (∃ pa ty, checkGlobal s ctx0 0x20000 4 (.atomic .fadd) = .ok (.mem pa ty) ∧ poisoned s pa 4 = false
        ∧ otherCtx.claims.find? (fun q => q.1 == pa / 128) = some (pa / 128, (1, 2, 3))) ∧ otherCtx ∈ s.ctxs ∧ otherCtx.det = true)
    ∧ (Solo (.atomAdd (atomFld true 255 0)) (atomFld true 255 0) clusterState (cur [0]) clusterTeam grp0 detCtx 0
      ∧ Solo (.atomrd (redFld false 0 8)) (redFld false 0 8) clusterState (cur [0]) clusterTeam grp0 detCtx 0
      ∧ NoPatch clusterState (cur [0]) clusterTeam detCtx ∧ ctx? clusterState 0 = some detCtx
      ∧ (∃ u off, clusterOwner clusterState clusterTeam 0x2200000 = some (u, off) ∧ u.uid ≠ clusterTeam.uid)
      ∧ srcV (laneEnv (cur [0]) clusterTeam grp0 detCtx 0) 8 ≠ clusterTeam.rank ∧ srcV (laneEnv (cur [0]) clusterTeam grp0 detCtx 0) 9 < 2 ^ 25
      ∧ Room clusterState (cur [0]) grp0 .stores) := by
  refine ⟨fun c m => ?_, by decide, by decide, ⟨soloAt ⟨rfl, rfl, rfl, rfl, by decide, by decide, rfl⟩ (by decide +kernel) rfl rfl (by decide +kernel) (by decide +kernel),
      ⟨rfl, .inr rfl⟩, rfl, rfl, rfl, refusedAt (by decide +kernel), by simp, rfl⟩,
    soloAt ⟨rfl, rfl, rfl, rfl, by decide, by decide, rfl⟩ (by decide +kernel) rfl rfl (by decide +kernel) (by decide +kernel),
    soloAt ⟨rfl, rfl, rfl, rfl, by decide, by decide, rfl⟩ (by decide +kernel) rfl rfl (by decide +kernel) (by decide +kernel),
    ⟨rfl, .inr rfl⟩, rfl, ⟨nextTeam, 0, by decide +kernel, by decide⟩, by decide +kernel, by decide +kernel, room _ (by decide +kernel)⟩
  simp only [List.mem_cons, List.not_mem_nil, or_false] at m
  rcases m with rfl | rfl <;>
    exact ⟨soloAt ⟨rfl, rfl, rfl, rfl, by decide, by decide, rfl⟩ (by decide +kernel) rfl rfl (by decide +kernel) (by decide +kernel), ⟨rfl, .inr rfl⟩, rfl, rfl,
      refusedAt (by decide +kernel)⟩
/-- An atomic of a deterministic grid whose line nobody has claimed. -/
theorem witness_SyncEngines_claim : let i := syncOp (.atomic .add 1 0) 8 0xA0
    let s := { syncState i (header 0 0 0) with ctxs := [detCtx] }
    i.writer.graded = true ∧ ctx? s i.writer.ctx = some detCtx ∧ detCtx.det = true ∧ (∀ q ∈ detCtx.claims, q.1 ≠ i.pa / 128)
      ∧ s.syncQ.find? (fun j => j.die == 0) = some i ∧ ctxOf s (tm [] pendGroup) = some detCtx :=
  ⟨rfl, rfl, rfl, nofun, rfl, rfl⟩

/-- A factor of one row meets the equations: of v1, which is 0 and ends it at once, and of v2, which passes. -/
theorem witness_SmallMatrices_chol : ∀ p ∈ [(1, false), (2, true)], let e := memEnv
    let K := slotDef ctx0 0
    let A (_ _ : Nat) : Val := (readCode K false (srcV e p.1 % 2 ^ K.w)).1
    ∃ (v : Nat → Val × Nat) (L : Nat → Nat → Cell), CholFactor e (fld p.1 0 0 1) K 0 1 A v L
      ∧ ((v 0).1.isNan = false ∧ valLt (.fin false (qOf 0)) (v 0).1 = p.2) := by
  intro p m e K A
  refine ⟨fun _ => lessProducts 0 (A 0 0) [], fun _ _ => cellAt e (fld p.1 0 0 1) K 0 0 (sqrtVal (lessProducts 0 (A 0 0) []).1), fun j i hj hi => ?_, ?_⟩
  · obtain rfl : i = 0 := by omega
    obtain rfl : j = 0 := by omega
    exact ⟨rfl, rfl⟩
  · simp only [List.mem_cons, List.not_mem_nil, or_false] at m
    rcases m with rfl | rfl <;> decide +kernel
/-- So does a decomposition of one row, whose pivot 0 is replaced. -/
theorem witness_SmallMatrices_lup : let e := memEnv
    let K := slotDef ctx0 0
    let tau : Val := .fin false (qOf 0)
    let A (_ _ : Nat) : Val × Nat := ((readCode K false (srcV e 1 % 2 ^ K.w)).1, srcV e 1 % 2 ^ K.w)
    ∃ R : LupRun e (fld 1 0 200 1) K 0 1 tau A, R.Holds ∧ R.small 0 = true := by
  intro e K tau A
  let s0 : Cell := cellAt e (fld 1 0 200 1) K 0 0 (.val (lessProducts 0 (A 0 0).1 []).1, (lessProducts 0 (A 0 0).1 []).2)
  let c0 : Cell := cellAt e (fld 1 0 200 1) K 0 0 (.val (if s0.1.neg then tau.negate else tau), 0)
  let R : LupRun e (fld 1 0 200 1) K 0 1 tau A :=
    { a := fun j i n => if j = 0 then A i n else (c0.1, c0.2.1), s := fun _ _ => s0, p := fun _ => 0, c := fun _ => c0, l := fun _ _ => s0, u := fun _ _ => s0, pi := fun _ i => i }
  have hs : R.small 0 = true := by decide +kernel
  have hl : ((!s0.1.isNan) && (s0.1.isNan || valLt s0.1.abs s0.1.abs)) = false := by decide +kernel
  refine ⟨R, ⟨fun i n _ _ => rfl, fun i _ => rfl, fun j hj => ?_⟩, hs⟩
  obtain rfl : j = 0 := by omega
  refine ⟨fun i _ h => ?_, ⟨le_rfl, by decide, fun i _ h => ⟨hl, fun h => absurd h (Nat.not_lt_zero _)⟩⟩, ?_, fun i h1 h2 => by omega, fun i h1 h2 => by omega,
    fun i n h1 h2 => ?_, fun i _ => ?_⟩
  · obtain rfl : i = 0 := by omega
    rfl
  · rw [if_pos hs]
  · obtain rfl : i = 0 := by omega
    obtain rfl : n = 0 := by omega
    rfl
  · show i = if i = 0 then 0 else if i = 0 then 0 else i
    split <;> simp_all
/-- And a pass of one unknown, with and without division. -/
theorem witness_SmallMatrices_solv : ∀ unit : Bool, ∃ x : Nat → Cell,
    SolvePass memEnv (fld 1 41 0 1 0 16) (slotDef ctx0 0) 0 1 1 0 true unit (fun _ _ => .fin false (qOf 2)) (fun _ => .fin false (qOf 6)) x := by
  intro unit
  let t := lessProducts 0 (.fin false (qOf 6)) []
  let q := quotient t.1 (.fin false (qOf 2))
  refine ⟨fun _ => cellAt memEnv (fld 1 41 0 1 0 16) (slotDef ctx0 0) 0 0 (if unit then (.val t.1, t.2) else (.val q.1, q.2 ||| t.2)), fun i h => ?_⟩
  obtain rfl : i = 0 := by omega
  rfl

/-- The second of two ranges could stand at row 30 as well; the third of these has no room. -/
theorem witness_OperandBuffer_lowest : mobPlace [15, 15] [(0, 15)] = some [15, 30] ∧ (∀ q ∈ [(0, 15)], q.2 ≠ 0 ∧ q.1 + q.2 ≤ 30720)
    ∧ (45 + 15 ≤ 30720 ∧ ∀ q ∈ [(0, 15)] ++ ((([15, 30].zip [15, 15]).take 1).filter (fun p => p.2 != 0)), 45 + 15 ≤ q.1 ∨ q.1 + q.2 ≤ 45)
    ∧ mobPlace [15, 0, 30691] [(0, 15)] = none := by decide +kernel

/-- MMA over 33 positions and MMAS over 129 in 2:4 and 1:4 form, at this step. -/
def mmaAt (sparse k step : Nat) : MInstr :=
  { engOne (if sparse = 0 then 0xD0 else 0xD1) 0 0 0 (15 + sparse * 2 ^ 9 + 2 * 2 ^ 24 + 2 * 2 ^ 32 + k * 2 ^ 40 + 2 * 2 ^ 88 + 2 ^ 128 + 2 * 2 ^ 152 + 2 * 2 ^ 192) with
    step := step, started := step != 0 }
theorem witness_EngineSteps_products : ∀ p ∈ [(0, 33, 0), (0, 33, 1), (1, 129, 0), (1, 129, 2), (2, 129, 0), (2, 129, 1)],
    let m := mmaAt p.1 p.2.1 p.2.2
    let b := m.block
    let S := fdrOf (m.fds.getD 1 0).toNat
    let m1 := if m.started then m else mmaStart (engTeam m) m
    let oa := pbOperandA b S m.resv
    let ob := pbOperandB b (fdrOf (m.fds.getD 2 0).toNat) m.resv
    (m.opcode = 0xD0 ∧ pbSparse b = 0 ∨ m.opcode = 0xD1 ∧ (pbSparse b = 1 ∨ pbSparse b = 2)) ∧ pbTile b < (engTeam m).tiles.length
      ∧ m.step * stepSpan b < pbK b ∧ (p.2.2 = 0 ↔ (m.step + 1) * stepSpan b < pbK b)
      ∧ canStep (engState m) (engTeam m) m = true ∧ m.poisoned = false ∧ m.mobGen = 0 ∧ m.paused = none
      ∧ (∀ k < 16, ((engTeam m).tiles.getD k tile0).poison = [])
      ∧ (∀ i < pbM b, ∀ y ∈ (if p.1 = 0 then (denseElems m1 oa i (32 * m.step) (min (pbK b) (32 * m.step + 32))).zipIdx.map (fun y => (32 * m.step + y.2, y.1))
          else sparseElems m1 oa p.1 (pbMrng b) (pbMrow b) i m.step), y.2.2.2 = false)
      ∧ (∀ jj < 5, ∀ n < pbN b, ∀ y ∈ denseElems m1 ob n (32 * jj) (min (pbK b) (32 * jj + 32)), y.2.2 = false) := by
  intro p m
  simp only [List.mem_cons, List.not_mem_nil, or_false] at m
  rcases m with rfl | rfl | rfl | rfl | rfl | rfl <;> decide +kernel
/-- ACWR of three rows of lanes 0 and 2, TLMOV, ACLD and ACST in the scratchpad. -/
theorem witness_EngineSteps_transfers :
    (∀ m ∈ [{ engOne 0xD9 0 15 61 3 with lanes := 5, fds := [1, 2, 3, 4, 5, 6] }, engOne 0xD2 0 15 9 0, engOne 0xD2 0 15 9 1,
        { engOne 0xDA 15 0 256 0 with a := 0x100, m := 8 }, { engOne 0xDB 15 0 256 0 with a := 0x100, m := 8 }],
      let T := engTeam m
      canStep (engState m) T m = true ∧ m.poisoned = false ∧ m.mobGen = 0 ∧ m.paused = none ∧ (∀ k < 16, (T.tiles.getD k tile0).poison = [])
      ∧ (m.opcode = 0xD9 → m.a < 16 ∧ m.a < T.tiles.length ∧ (T.tiles.getD m.a tile0).cells.wf = true)
      ∧ (m.opcode ≠ 0xD9 → let w := (fdrOf (m.fds.getD 0 0).toNat).w
        1 ≤ w ∧ w ≤ 32 ∧ T.lmem.wf = true ∧ T.lpoison = [] ∧ (m.opcode = 0xD2 → m.a < 16)
        ∧ (m.opcode ≠ 0xD2 → bit m.m 3 = true ∧ m.step = 0 ∧ m.work = [] ∧ T.kern.s ≤ 0x400000 ∧ m.a + 63 * m.b + 8 * w ≤ T.kern.s ∧ m.d < 16
          ∧ m.d < T.tiles.length ∧ 8 * w ≤ m.b)))
    ∧ (let m := engOne 0xDA 15 0 256 0
      grp? (engTeam m) m.group = some grp0 ∧ grp0.threads[m.lane]? = some thr ∧ ctxOf (engState m) (engTeam m) = some ctx0) := by
  refine ⟨fun m h => ?_, rfl, rfl, rfl⟩
  simp only [List.mem_cons, List.not_mem_nil, or_false] at h
  rcases h with rfl | rfl | rfl | rfl | rfl <;> decide +kernel


/-! ## Witnesses of single clauses: copies -/

theorem okBoth {α β : Type} {a : Except FaultInfo (α × β)} {p : α → β → Bool} (h : (match a with | .ok (x, y) => p x y | _ => false) = true) :
    ∃ x y, a = .ok (x, y) ∧ p x y = true := by
  match a, h with
  | .ok (x, y), h => exact ⟨x, y, rfl, h⟩
/-- A descriptor at 0x40; v9 is no multiple of 64, v10 is 2^40 + 1, v11 is 2. -/
def descTeam (D : Nat) : Team := tm (Mem.writeN (vmem [(4, 0x40), (9, 0x41), (10, 2 ^ 40 + 1), (11, 2)]) 0x40 64 D)
def descState (x : Ctx) (D : Nat) : State := st [0] (descTeam D) x
/-- What a fault of a copy instruction asks of the state in which it is taken. -/
def standsAt (D : Nat) (x : Ctx) (s : State) : Bool :=
  decide (team? s 1000 = some (descTeam D)) && decide (ctxOf s (descTeam D) = some x) && s.patch.isNone
/-- 2^40 + 1 bytes; a descriptor address off by one; reserved bits, a pitch below the row, a slot that breaks R58; tile 2 of two, no tiles. -/
theorem witness_CopiesIssue_faults :
    (∀ p ∈ ([(.copy, fld 7 9 9 10, 0), (.copys, fld 0 9 0 0, 0), (.copyx, fld 0 9 0 0, 0), (.copyq, fld 0 9 0 0, 0), (.ldchk, fld 255 9 11 0, 0),
        (.copys, fld 0 4 0 0, copyBlock 0 + 2 ^ 448), (.copyx, fld 0 4 0 0, copyBlock 1 + 2 ^ 448), (.copyq, fld 0 4 0 0, qBlock + 2 ^ 448),
        (.copyq, fld 0 4 0 0, qBlock - 4 * 2 ^ 352), (.copyq, fld 0 4 0 0, qBlock + 15 * 2 ^ 453), (.ldchk, fld 255 4 11 0, qBlock),
        (.ldchk, fld 255 4 11 0, qBlock - 2 ^ 432)] : List ((Fld → Instr) × Fld × Nat)),
      (∀ x ∈ [ctx0, badCtx], Solo (p.1 p.2.1) p.2.1 (descState x p.2.2) (cur [0]) (descTeam p.2.2) grp0 x 0
        ∧ Room (descState x p.2.2) (cur [0]) grp0 .copies ∧ Room (descState x p.2.2) (cur [0]) grp0 .loads ∧ standsAt p.2.2 x (descState x p.2.2) = true
        ∧ grp? (descTeam p.2.2) 0 = some grp0
        ∧ ∃ bs s0, localLoad (descState x p.2.2) x 1000 0x40 64 64 = .ok (bs, s0) ∧ (ofBytes bs == p.2.2 && standsAt p.2.2 x s0) = true))
    ∧ (∀ D ∈ [copyBlock 0 + 2 ^ 448, copyBlock 1 + 2 ^ 448], D / 2 ^ 448 ≠ 0) ∧ bit (qBlock + 2 ^ 448) 448 = true
    ∧ (let D := qBlock - 4 * 2 ^ 352; qDpitch D = 4 ∧ (qNe D * (slotDef ctx0 (qD D)).w + 7) / 8 = 8 ∧ D / 2 ^ 466 % 2 ^ 14 = 0 ∧ bit D 448 = false)
    ∧ (let D := qBlock + 15 * 2 ^ 453; qD D = 15 ∧ bit D 448 = false) ∧ ¬ slotGood badCtx 15 (fun _ => true)
    ∧ (qRows qBlock + qTr qBlock - 1) / qTr qBlock ≤ 2 ∧ qTr (qBlock - 2 ^ 432) = 0 := by
  refine ⟨fun p m x hx => ?_, by decide +kernel, by decide +kernel, by decide +kernel, by decide +kernel, by unfold slotGood; decide +kernel, by decide +kernel, by decide +kernel⟩
  simp only [List.mem_cons, List.not_mem_nil, or_false] at m hx
  rcases m with rfl | rfl | rfl | rfl | rfl | rfl | rfl | rfl | rfl | rfl | rfl | rfl <;> rcases hx with rfl | rfl <;>
    exact ⟨soloAt ⟨rfl, rfl, rfl, rfl, by decide, by decide, rfl⟩ (by decide +kernel) rfl rfl (by decide +kernel) (by decide +kernel), room _ (by decide +kernel),
      room _ (by decide +kernel), by decide +kernel, rfl, okBoth (by decide +kernel)⟩
/-- The trailer of tile 1 holds another CRC. -/
theorem witness_CopiesIssue_tile : ∃ tile s1 trailer s2, loadRows copyState copyEnv 0x21000 8 8 [1] = .ok (tile, s1)
    ∧ loadNow s1 ctx0 0 0 0x22010 16 .load = .ok (trailer, s2) ∧ (decide (crc32c tile ≠ ofBytes trailer / 2 ^ 96 % 2 ^ 32)
      && decide (team? s2 1000 = some copyTeam) && decide (ctxOf s2 copyTeam = some ctx0) && s2.patch.isNone) = true := by
  have h : (match loadRows copyState copyEnv 0x21000 8 8 [1] with
    | .ok (tile, s1) => (match loadNow s1 ctx0 0 0 0x22010 16 .load with
      | .ok (trailer, s2) => decide (crc32c tile ≠ ofBytes trailer / 2 ^ 96 % 2 ^ 32)
          && decide (team? s2 1000 = some copyTeam) && decide (ctxOf s2 copyTeam = some ctx0) && s2.patch.isNone
      | .error _ => false)
    | .error _ => false) = true := by decide +kernel
  split at h
  · rename_i tile s1 h1
    split at h
    · rename_i trailer s2 h2; exact ⟨tile, s1, trailer, s2, h1, h2, h⟩
    · cases h
  · cases h

/-- A copy in a state of these homes and this context. -/
def moving (k : Copy) (x : Ctx := ctx0) (home : Mem := holePages) : State := { copyState with copies := [k], home := home, ctxs := [x] }
/-- What every clause about a copy asks. -/
def moves (s : State) (k : Copy) (x : Ctx) : Bool :=
  decide (s.copies.find? (fun c => c.id == k.id) = some k) && decide (ctx? s k.writer.ctx = some x) && !k.held && s.outReqs.isEmpty
    && s.home.wf && s.poison.isEmpty && decide (k.wait = none) && decide (k.got = none)
/-- One window over the third GiB. -/
def winCtx : Ctx := { ctx0 with wd := ctx0.wd.set 0 (BitVec.ofNat 512 (windowWord 1 0 0 0)) }
theorem okWin {a : Except FaultInfo Loc} (h : (match a with | .ok (.win _ _) => true | _ => false) = true) : ∃ w off, a = .ok (.win w off) := by
  match a, h with
  | .ok (.win w off), _ => exact ⟨w, off, rfl⟩
theorem okError {α : Type} {a : Except FaultInfo α} {p : FaultInfo → Bool} (h : (match a with | .error i => p i | _ => false) = true) :
    ∃ i, a = .error i ∧ p i = true := by
  match a, h with
  | .error i, h => exact ⟨i, rfl, h⟩
/-- A COPYX whose signal is sent; sources and destinations in memory, in a window, in a hole, on a page that is not mapped, at
the end of the address space; a line of a deque; bytes that a later store of a deterministic grid has tagged. -/
theorem witness_CopiesMove_places :
    (∀ p ∈ ([({ oneCopy 0xE3 0x20000 0x21000 1 with state := .signalled }, ctx0), (oneCopy 0xE0 0x20000 0x21000 0, ctx0), (oneCopy 0xE2 0x20001 0x2100F 0, ctx0),
        ({ oneCopy 0xE0 0x80000000 0x21000 0 with wd := winCtx.wd }, winCtx), (oneCopy 0xE0 0x20000 0x80000000 0, winCtx), (oneCopy 0xE0 0x20000 0x40000000 0, ctx0),
        (oneCopy 0xE0 0x80000000 0x21000 0, ctx0), (oneCopy 0xE0 0x20000 0x80000000 0, ctx0), (oneCopy 0xE0 (2 ^ 56) 0x21000 0, ctx0), (oneCopy 0xE0 0x20000 (2 ^ 56) 0, ctx0),
        (oneCopy 0xE0 0x20000 0x21000 0, tagged [(0x21000, writerOf memTeam 0 2)]), ({ oneCopy 0xE0 0x20000 0x21000 1 with extras := [(0x2200F, [7, 8])] }, ctx0),
        (oneCopy 0xE0 0x20000 0x21000 1, ctx0), (oneCopy 0xE3 0x20000 0x21000 1, ctx0)] : List (Copy × Ctx)),
      moves (moving p.1 p.2) p.1 p.2 = true)
    ∧ (∀ k ∈ [oneCopy 0xE0 0x20000 0x21000 0, oneCopy 0xE2 0x20001 0x2100F 0], k.extras = [] ∧ (k.row < k.rows ∧ k.rbytes ≠ 0) ∧ k.opcode ≠ 0xE1 ∧ k.pos < k.rbytes)
    ∧ (oneCopy 0xE0 0x20000 0x21000 1).rows ≤ (oneCopy 0xE0 0x20000 0x21000 1).row
    ∧ (∃ w off, locate (moving (oneCopy 0xE0 0x20000 0x80000000 0) winCtx) winCtx 0x80000000 .store = .ok (.win w off))
    ∧ (∃ w off, locate (moving (oneCopy 0xE0 0x80000000 0x21000 0) winCtx) { winCtx with wd := winCtx.wd } 0x80000000 .load = .ok (.win w off))
    ∧ (∃ i, locate (moving (oneCopy 0xE0 0x20000 0x40000000 0)) ctx0 0x40000000 .store = .error i ∧ decide (i.code ≠ .translation) = true)
    ∧ (∃ i, locate (moving (oneCopy 0xE0 0x80000000 0x21000 0)) ctx0 0x80000000 .load = .error i ∧ decide (i.code = .translation) = true)
    ∧ (∃ i, locate (moving (oneCopy 0xE0 0x20000 0x80000000 0)) ctx0 0x80000000 .store = .error i ∧ decide (i.code = .translation) = true)
    ∧ (∃ q ∈ ({ moving (oneCopy 0xE0 0x20000 0x21000 0) with deques := [(0x420, 0)] } : State).deques, q.1 = 0x21000 / 128)
    ∧ (let x := tagged [(0x21000, writerOf memTeam 0 2)]
      x.det = true ∧ (oneCopy 0xE0 0x20000 0x21000 0).writer.graded = true ∧ ∃ t, x.tags.find? (fun t => t.1 == 0x21000) = some t
        ∧ listLt (writerKey (oneCopy 0xE0 0x20000 0x21000 0).writer) (writerKey t.2) = true)
    ∧ (∃ p t, checkGlobal (moving (oneCopy 0xE3 0x20000 0x21000 1)) ctx0 0x22000 8 (.red .add) = .ok (.mem p t) ∧ decide (p < 2 ^ 40) = true) := by
  refine ⟨fun p m => ?_, by decide +kernel, by decide, okWin (by decide +kernel), okWin (by decide +kernel), okError (by decide +kernel), okError (by decide +kernel),
    okError (by decide +kernel), ⟨_, List.mem_singleton.2 rfl, by decide⟩, ⟨rfl, rfl, _, rfl, by decide +kernel⟩, okLow (by decide +kernel)⟩
  simp only [List.mem_cons, List.not_mem_nil, or_false] at m
  rcases m with rfl | rfl | rfl | rfl | rfl | rfl | rfl | rfl | rfl | rfl | rfl | rfl | rfl | rfl <;> decide +kernel

/-- A COPYQ of two rows of two elements, from binary32 to itself, and to and from a grouped MX format with scales. -/
def quantCopy (d : Nat) : Copy := newCopy copyState copyEnv 0xE1 0xC0 0x20000 0x21000 2 8 8 8 8 0 0 d
/-- Grouped by 32: dir, glen 1, group bytes at 0x23000, side lists at 0x24000. -/
def groupBlock (dir : Nat) : Nat := qBlock + 0x23000 * 2 ^ 128 + 0x24000 * 2 ^ 192 + dir * 2 ^ 462 + 2 ^ 463
def rowIn (k : Copy) : Copy := { k with fetched := (rowReads k).length, srcRow := leBytes 8 0x3F80000040000000, aux := [127] }
def rowOut (k : Copy) : Copy := { rowIn k with rowReady := true, dstRow := leBytes 8 0x3F80000040000000 }
/-- The element reads of its first row, its conversion, the write of its row, the row's end. -/
theorem witness_CopiesMove_rows :
    (∀ d ∈ [qBlock, groupBlock 0, groupBlock 1], let k := quantCopy d
      (∀ c ∈ [k, rowIn k, rowOut k, { rowOut k with pos := 8 }], moves (moving c) c ctx0 = true ∧ c.extras = [] ∧ (c.row < c.rows ∧ c.rbytes ≠ 0) ∧ c.opcode = 0xE1
        ∧ fdrValid c.fdS.toNat = true ∧ fdrValid c.fdD.toNat = true ∧ (0 : Int) ≤ c.src + c.row * c.spitch)
      ∧ (rowReads k)[k.fetched]? ≠ none ∧ (rowReads (rowIn k))[(rowIn k).fetched]? = none ∧ (rowIn k).srcRow.length = (qNe d * (slotS k).w + 7) / 8
      ∧ (rowOut k).pos < (rowOut k).rbytes ∧ (rowOut k).dstRow.length = (rowOut k).rbytes ∧ (rowOut k).crc = crcStep 0xFFFFFFFF []
      ∧ ((rowReads k)[0]?).any (fun r => decide (r.2.1 + r.2.2 ≤ 2 ^ 56)
        && match locate (moving k) { ctx0 with wd := k.wd } r.2.1 .load with | .ok (.mem p _) => decide (p < 2 ^ 40) | _ => false) = true)
    ∧ (copyGrouped (quantCopy (groupBlock 0)) ∧ ¬ copyGrouped (quantCopy qBlock)) := by
  refine ⟨fun d m => ?_, by unfold copyGrouped; decide +kernel, by unfold copyGrouped; decide +kernel⟩
  simp only [List.mem_cons, List.not_mem_nil, or_false] at m
  rcases m with rfl | rfl | rfl <;> decide +kernel
/-- The scale of a group of 2.0 and 1.0 in binary32. -/
theorem witness_CopiesMove_scales : ∃ X esc, RowScales (rowIn (quantCopy (groupBlock 0))) X esc := by
  have e0 : magOf (copySource (rowIn (quantCopy (groupBlock 0))) 0) = some (qOf 2) := by decide +kernel
  have e1 : magOf (copySource (rowIn (quantCopy (groupBlock 0))) 1) = some (qOf 1) := by decide +kernel
  have eg : qGlen (rowIn (quantCopy (groupBlock 0))).desc = 1 := by decide +kernel
  have en : qNe (rowIn (quantCopy (groupBlock 0))).desc = 2 := by decide +kernel
  have ee : (slotD (rowIn (quantCopy (groupBlock 0)))).esc = false := by decide +kernel
  refine ⟨fun _ => (groupScale (slotD (rowIn (quantCopy (groupBlock 0)))) [copySource (rowIn (quantCopy (groupBlock 0))) 0, copySource (rowIn (quantCopy (groupBlock 0))) 1]).1,
    fun _ => false, fun _ g hg => ?_, fun _ _ => rfl⟩
  rw [eg, en] at hg
  obtain rfl : g = 0 := by omega
  simp only [GroupScale, eg, en, ee, Nat.zero_mul, Nat.zero_add, Bool.false_and, Bool.not_false, Bool.and_true]
  refine ⟨fun h => ?_, fun i hi q hq hmax => ?_, fun _ _ => trivial⟩
  · exact absurd h (by decide +kernel)
  · have hi' : i = 0 ∨ i = 1 := by
      have := List.mem_range.1 (List.mem_filter.1 hi).1
      omega
    have h0 := hmax 0 (by decide +kernel) _ e0
    rcases hi' with rfl | rfl
    · rw [e0] at hq
      cases hq
      decide +kernel
    · rw [e1] at hq
      cases hq
      exact absurd h0 (by decide +kernel)


/-! ## Witnesses of single clauses: launches, links, commands, requests -/

/-- A LAUNCHI of lane 0 that is accepted now, with its counts at this address, or with a predecessor. -/
def indirectReq (counts pred : Nat) : LaunchReq := { request (desc 0 0 0 0 + counts * 2 ^ 352 * 2 ^ 352 + pred * 2 ^ 256 * 2 ^ 256) with indirect := true }
def indirectState (r : LaunchReq) : State :=
  { withCore { emptyCore 8 17 with codes := coded.codes } (st [0] memTeam (launchCtx (record 16 1 0) 0)) with cur := none, launchQ := [r], home := Mem.writeN pages 0x30000 12 (1 + 2 ^ 32 + 65535 * 2 ^ 64) }
theorem witness_LaunchesAndClusters_indirect :
    (∀ p ∈ [(0x30000, 0), (0x80000000, 0), (0x30000, 0x20000)], let r := indirectReq p.1 p.2
      let s := indirectState r
      let d := ofBytes r.desc
      s.launchQ = [r] ∧ r.indirect = true ∧ r.cur = some (cur [0]) ∧ (env? { s with launchQ := [] } (cur [0]) 0).isSome = true ∧ ctx? s 0 = some (launchCtx (record 16 1 0) 0)
      ∧ launchOk d true = true ∧ (ldPred d 0 = 0 ∧ ldPred d 1 = 0 ↔ p.2 = 0) ∧ ldCadr d = p.1 ∧ ldCadr d + 12 ≤ 2 ^ 56
      ∧ kernelFor { s with launchQ := [] } (launchCtx (record 16 1 0) 0) (ldKern d) = some (kernOf (record 16 1 0)))
    ∧ (∃ cs s1, loadNow (acquire { indirectState (indirectReq 0x30000 0) with launchQ := [] } memTeam 5) (launchCtx (record 16 1 0) 0) 0 0 0x30000 12 .load = .ok (cs, s1)
      ∧ (cs == leBytes 12 (1 + 2 ^ 32 + 65535 * 2 ^ 64)) = true)
    ∧ (∃ i, loadNow (acquire { indirectState (indirectReq 0x80000000 0) with launchQ := [] } memTeam 5) (launchCtx (record 16 1 0) 0) 0 0 0x80000000 12 .load = .error i ∧ decide (i.code = .translation) = true) := by
  refine ⟨fun p m => ?_, okBoth (p := fun cs _ => cs == leBytes 12 (1 + 2 ^ 32 + 65535 * 2 ^ 64)) (by decide +kernel), okError (by decide +kernel)⟩
  simp only [List.mem_cons, List.not_mem_nil, or_false] at m
  rcases m with rfl | rfl | rfl <;> exact ⟨rfl, rfl, rfl, by decide +kernel, rfl, by decide +kernel, by decide +kernel, by decide +kernel, by decide +kernel, by decide +kernel⟩
/-- A LAUNCHI at its gate, both of whose words have matched: counts that can be read, counts of 0, a page that is not mapped, a hole. -/
def indirectGate (counts kind : Nat) : Launch :=
  { accepted (0x20000 * 2 ^ 512 + counts * 2 ^ 352 * 2 ^ 352 + kind * 2 ^ 192) true true none with indirect := true }
theorem witness_LaunchesAndClusters_counts :
    (∀ p ∈ [(0x30000, 0), (0x30000, 1), (0x31000, 0), (0x80000000, 0), (0x40000000, 0)], let l := indirectGate p.1 p.2
      let x := { ctx0 with launches := [l] }
      let d := ofBytes l.desc
      x.launches.find? (fun m => m.acc == l.acc) = some l ∧ l.heldForGood = false ∧ l.parked = none ∧ l.pass0 = true ∧ l.pass1 = true ∧ l.counts = none
      ∧ l.indirect = true ∧ ¬ (ldPred d 0 = 0 ∧ ldPred d 1 = 0) ∧ ldCadr d = p.1 ∧ ldKind d = p.2)
    ∧ (let s (k : Nat) : State := { memState with ctxs := [{ ctx0 with launches := [indirectGate k 0] }], home := Mem.writeN holePages 0x30000 12 (1 + 2 ^ 32 + 65535 * 2 ^ 64) }
      (∀ p ∈ [(0x30000, true), (0x31000, false)], ∃ cs s1, loadNow (dropClean (s p.1) 8 17) ctx0 8 17 p.1 12 .load = .ok (cs, s1)
        ∧ (dimsOk (ofBytes (cs.take 4), ofBytes ((cs.drop 4).take 4), ofBytes ((cs.drop 8).take 4)) == p.2) = true)
      ∧ (∃ i, loadNow (dropClean (s 0x80000000) 8 17) ctx0 8 17 0x80000000 12 .load = .error i ∧ decide (i.code = .translation) = true)
      ∧ (∃ i, loadNow (dropClean (s 0x40000000) 8 17) ctx0 8 17 0x40000000 12 .load = .error i ∧ decide (i.code ≠ .translation) = true)) := by
  refine ⟨fun p m => ?_, fun p m => okBoth ?_, okError (by decide +kernel), okError (by decide +kernel)⟩ <;>
    simp only [List.mem_cons, List.not_mem_nil, or_false] at m
  · rcases m with rfl | rfl | rfl | rfl | rfl <;> exact ⟨rfl, rfl, rfl, rfl, rfl, rfl, rfl, by decide +kernel, by decide +kernel, by decide +kernel⟩
  · rcases m with rfl | rfl <;> decide +kernel
/-- In a deterministic context clusters 0 and 1 end; cluster 0 is the one whose event is next. -/
def detGrid : Grid := { grid0 (flatKern 256 0x10000) with gdim := (2, 1, 1), next := 2, live := [0, 1] }
theorem witness_LaunchesAndClusters_order : ∀ cix ∈ [0, 1], let T := { endedTeam with cix := cix }
    let x := { detCtx with grids := [detGrid] }
    let s := st [0] T x
    grid? s 0 0 = some detGrid ∧ detGrid.retired = [] ∧ detGrid.live.contains cix = true ∧ T ∈ s.teams ∧ T.role = .compute ∧ T.k = 0 ∧ teamEnded T = true ∧ T.mq = []
      ∧ s.cores = [] ∧ x.det = true ∧ (cix = detGrid.nextRetire ↔ cix = 0) := by
  intro cix m
  simp only [List.mem_cons, List.not_mem_nil, or_false] at m
  rcases m with rfl | rfl <;> exact ⟨rfl, rfl, rfl, List.mem_singleton.2 rfl, rfl, rfl, by decide +kernel, rfl, rfl, rfl, by decide⟩
/-- Completion words in memory, on a UALink peer, in a window, and on a page that is not mapped. -/
def peerPages : Mem := Mem.writeN pages 0x12008 8 (0xC0700 * 2 ^ 32 + 0x73)
theorem witness_LaunchesAndClusters_words : (∃ pa ty, checkGlobal memState ctx0 0x20000 8 .store = .ok (.mem pa ty) ∧ decide (pa < 2 ^ 40 ∧ ty ≤ 1) = true)
    ∧ (let s0 := withCtl [(0x700000, 2 ^ 16), (0x701018, 2 ^ 32)] { memState with home := peerPages }
       let s := { s0 with regs := { s0.regs with ports := s0.regs.ports.set 0 { portReset with up := true } } }
       ∃ pa ty, checkGlobal s ctx0 0x40000000 8 .store = .ok (.mem pa ty) ∧ (match targetOf s pa with | .ualink _ => true | _ => false) = true)
    ∧ (∃ i, checkGlobal memState ctx0 0x80000000 8 .store = .error i ∧ decide (i.code = .translation) = true) :=
  ⟨okLow (p := fun pa ty => decide (pa < 2 ^ 40 ∧ ty ≤ 1)) (by decide +kernel), okLow (by decide +kernel), okError (by decide +kernel)⟩

/-- 1,024 requests at a port are before this one: it waits for room. -/
theorem witness_LinksAndWalks_room : (∀ n ∈ [0, 1023, 1024],
      let s := { memState with outReqs := List.replicate n { linkReq 15 true with id := 3 } ++ [linkReq 15 false] }
      waitsRoom s (linkReq 15 false) = decide (n = 1024) ∧ s.outReqs.find? (fun q => q.id == 4) = some (linkReq 15 false))
    ∧ ({ linkReq 15 true with w := completionWhere } : OutReq).w = completionWhere ∧ (linkReq 15 true).w ≠ completionWhere := by
  refine ⟨fun n m => ?_, rfl, by decide⟩
  simp only [List.mem_cons, List.not_mem_nil, or_false] at m
  rcases m with rfl | rfl | rfl <;> decide +kernel

/-- A package that needs a reset; a group two of whose threads are parked and one of whose is not. -/
def parkGroup (whole : Bool) : Group := { grp0 with
  threads := [{ thr with status := .faulted, parked := true }, { thr with status := if whole then .running else .faulted }], stopped := true, parked := some 0x30000, also := [0x20FFF] }
theorem witness_ContextCommands_shut : ({ created with shut := true } : State).shut = true ∧ created.shut = false
    ∧ ∀ whole : Bool, let G := parkGroup whole
      let s := { faultState with teams := [tm [] G] }
      s.shootdown = some (0, 0x20000, 0x1000) ∧ waitingTeams s = [] ∧ team? s 1000 = some (tm [] G) ∧ grp? (tm [] G) 0 = some G ∧ ctxOf s (tm [] G) = some ctx0
      ∧ (tm [] G).lost = false ∧ G.parked = some 0x30000 ∧ (∃ q ∈ G.also, 0x20000 ≤ q ∧ q < 0x20000 + 0x1000)
      ∧ (G.threads.any (fun th => th.status == .faulted && !th.parked) = !whole) :=
  ⟨rfl, rfl, fun whole => ⟨rfl, by cases whole <;> decide +kernel, rfl, rfl, rfl, rfl, rfl, ⟨_, List.mem_singleton.2 rfl, by decide, by decide⟩, by cases whole <;> decide⟩⟩

/-- Queue 9, whose program has arrived on barrier 15 of its core's, in this status. -/
def arrivedTeam (status : Status) (arr : Nat) : Team :=
  { soloTeam 9 (.queue 9) 0 8 1 16 0x1000 with groups := [{ grp0 with threads := [{ thr with status := status, arr := BitVec.ofNat 28 arr, anw := BitVec.ofNat 28 arr }] }] }
theorem witness_QueueAndSiteCommands_members : ∀ p ∈ ([(.running, 2 ^ 15, false), (.running, 0, true), (.waiting (.barrier 15), 2 ^ 15, true)] : List (Status × Nat × Bool)),
    let T := arrivedTeam p.1 p.2.1
    let s := { State.reset with teams := [T], ctxs := [ctx0] }
    9 / 8 = 1 ∧ team? s 9 = some T ∧ T.role = .queue 9 ∧ ∃ G th, grp? T 0 = some G ∧ G.threads[0]? = some th
      ∧ (decide (th.status = .waiting (.barrier 15)) || !bit th.arr.toNat 15) = p.2.2 := fun p m => by
  simp only [List.mem_cons, List.not_mem_nil, or_false] at m
  rcases m with rfl | rfl | rfl <;> exact ⟨rfl, rfl, rfl, _, _, rfl, rfl, by decide +kernel⟩

/-- A read of 105 °C and one of 115 °C in sixteenths of a degree. -/
def hotness (n : Nat) : Telemetry := { temp := BitVec.ofNat 16 n, power := 0, energy := 5, csram := 1, package := BitVec.ofNat 64 (400 + 800 * 2 ^ 32) }
theorem witness_PackageRegisters_hot : ∀ p ∈ [(1839, false), (1840, true)], (match exec (.telemetryRefresh 9 (hotness p.1)) memState with
    | .next s' => s'.telemetry.any (fun q => decide (1840 ≤ q.2.temp.toNat)) | _ => false) = p.2 := by decide +kernel

/-- A poisoned write; atomics of 4 and 8 bytes, of 2, and one that the port does not know. -/
theorem witness_InboundRequests_atomics :
    ({ inReq 0 .write 0 8 with poisoned := true } : InReq).poisoned = true
    ∧ (∀ r ∈ [inReq 0 .fetchAdd 4 4, inReq 0 .swap 8 8, inReq 0 .cas (2 ^ 40 - 8) 8], (r.kind = .fetchAdd ∨ r.kind = .swap ∨ r.kind = .cas)
      ∧ (r.len = 4 ∨ r.len = 8) ∧ r.addr % r.len = 0 ∧ r.addr + r.len ≤ 2 ^ 40 ∧ r.kind ≠ .read ∧ r.kind ≠ .write ∧ r.poisoned = false)
    ∧ (inReq 0 (.min true) 8 8).kind ≠ .fetchAdd ∧ (inReq 0 .swap 2 2).len = 2
    ∧ (∀ k ∈ [InKind.fetchAdd, .swap, .cas, .min true, .max false, .and, .or, .xor, .inc, .dec], (inboundNew k 8 255 7 5).isSome = true)
    ∧ inboundNew (.min true) 4 (2 ^ 32 - 1) 0 0 = some (2 ^ 32 - 1) ∧ inboundNew (.min false) 4 (2 ^ 32 - 1) 0 0 = some 0 := by decide +kernel

/-! ## Single steps, with the values that the spec works out -/

/-- What v1 of lane 0 holds after an instruction, with these v registers before it. -/
def after (i : Instr) (vs : List (Nat × Nat)) (n : Nat := 1) : Option Nat :=
  match exec i (st [0] (tm (vmem vs))) with
  | .next s => (match team? s 1000, group? s w0 with
    | some t, some g => some (readV t g 0 n)
    | _, _ => none)
  | _ => none
/-- The nf bits of lane 0 after it. -/
def flagsAfter (i : Instr) (vs : List (Nat × Nat)) : Option Nat :=
  match exec i (st [0] (tm (vmem vs))) with
  | .next s => (thread? s w0 0).map (fun th => th.nf.toNat)
  | _ => none
def neg (w n : Nat) : Nat := 2 ^ w - n

/-- The table under R176: i32 is type 1, i8 type 3, n64 4, n32 5, n16 6, n8 7. -/
theorem test_integer_division : after (.idiv (fld 1 2 3 0 1)) [(2, neg 32 7), (3, 2)] = some (neg 64 3)
    ∧ after (.irem (fld 1 2 3 0 1)) [(2, neg 32 7), (3, 2)] = some (neg 64 1)
    ∧ after (.idiv (fld 1 2 3 0 3)) [(2, neg 8 128), (3, neg 8 1)] = some (neg 64 128)
    ∧ after (.idiv (fld 1 2 3 0 6)) [(2, 5), (3, 0)] = some 0xFFFF ∧ after (.irem (fld 1 2 3 0 6)) [(2, 5), (3, 0)] = some 5 := by decide +kernel
theorem test_high_products : after (.imulh (fld 1 2 3 0 4)) [(2, neg 64 1), (3, 2)] = some 1
    ∧ after (.imulh (fld 1 2 3 0 0)) [(2, neg 64 1), (3, 2)] = some (neg 64 1) := by decide +kernel
theorem test_saturation : after (.iadds (fld 1 2 3 0 3)) [(2, 100), (3, 100)] = some 0x7F := by decide +kernel
theorem test_shifts : after (.shr (fld 1 2 3 0 5)) [(2, 0x80000000), (3, 35)] = some 0 ∧ after (.sar (fld 1 2 3 0 1)) [(2, 0x80000000), (3, 40)] = some (neg 64 1)
    ∧ after (.rol (fld 1 2 3 0 7)) [(2, 0x81), (3, 9)] = some 3 ∧ after (.clz (fld 1 0 3 0 5)) [(3, 0)] = some 0x20 := by decide +kernel
/-- The truth table of majority, with the destination as the third operand. -/
theorem test_logic3 : after (.logic3 (fld 1 2 3 0xE8)) [(1, 0xF0), (2, 0xCC), (3, 0xAA)] = some 0xE8 := by decide +kernel
/-- "Worked conversions": 3.3 in binary32 is 0x48 in DT8 (slot 5), and sets IX; −268.75 is 0xF2 to nearest even. -/
theorem test_to_dt8 : (after (.cvt (fld 1 2 0 0 5)) [(2, 0x40533333)]).map (· % 256) = some 0x48
    ∧ (after (.cvt (fld 1 2 0 0 5)) [(2, 0xC3866000)]).map (· % 256) = some 0xF2
    ∧ flagsAfter (.cvt (fld 1 2 0 0 5)) [(2, 0x40533333)] = some 16 := by decide +kernel
/-- The top of the DT8 range: 540,000 rounds to 0x7E, 550,000 to infinity. -/
theorem test_dt8_overflow : (after (.cvt (fld 1 2 0 0 5)) [(2, 0x4903D600)]).map (· % 256) = some 0x7E
    ∧ (after (.cvt (fld 1 2 0 0 5)) [(2, 0x49064700)]).map (· % 256) = some 0x7F ∧ flagsAfter (.cvt (fld 1 2 0 0 5)) [(2, 0x49064700)] = some (16 + 4) := by decide +kernel
/-- 1.0 + 1.0 and 1.0 × 2.0 in both elements of binary32. -/
theorem test_binary32 : after (.fadd (fld 1 2 3 0)) [(2, 0x3F8000003F800000), (3, 0x3F8000003F800000)] = some 0x4000000040000000
    ∧ after (.fmul (fld 1 2 3 0)) [(2, 0x3F8000003F800000), (3, 0x4000000040000000)] = some 0x4000000040000000 := by decide +kernel
/-- R206: sin x lies just below a tiny x > 0: to nearest it is x, towards zero the code below, with UF and IX. -/
theorem test_small_sine : after (.fsin (fld 1 0 3 0 6 1)) [(3, 1)] = some 1 ∧ after (.fsin (fld 1 0 3 0 6 2)) [(3, 1)] = some 0
    ∧ flagsAfter (.fsin (fld 1 0 3 0 6 1)) [(3, 1)] = some 24 := by decide +kernel
/-- R58: a format of 3 bits whose one finite magnitude is 2^-1074, which binary64 holds, and one of 2^-1075. -/
theorem test_smallest_format : let word (bias : Nat) := 3 * 2 ^ 4 + 2 ^ 10 + 1 * 2 ^ 11 + 1 * 2 ^ 16 + bias * 2 ^ 22 + 2 * 2 ^ 41
    fdrValid (word 1075) = true ∧ fdrValid (word 1076) = false := by decide +kernel
/-- The first four rounds from an all-zero counter and key. -/
theorem test_sow_rounds : sowRounds 4 0 0 0 0 0 0 = (0x802A445E, 0xFDECC683, 0x6C2FAF1C, 0x9DAB4178) := by decide +kernel
/-- The check value of CRC-32C. -/
theorem test_crc : crc32c ((List.range 9).map (fun i => BitVec.ofNat 8 (0x31 + i))) = 0xE3069283 := by decide +kernel
/-- The encoding worked under R190: `call.w 24` at 0x0400 with its target at 0x0A00. -/
theorem test_call_word : (decode (leBytes 4 0x30060031)).isOk = true
    ∧ decodeTableWord 32 0x30060031 = some (.callW { fld 24 0 12 0 with form := .w32 }) := by decide +kernel
/-- Stores and loads meet in the core: the byte order is little-endian. -/
theorem test_store_bytes : (match exec (.st (fld 3 2 0 0)) (st [0] (tm (vmem [(2, 0x20000), (3, 0x0102030405060708)]))) with
    | .next s => some ((List.range 8).map (fun i => (seen s 0 0 0 (0x20000 + i)).toNat))
    | _ => none) = some [8, 7, 6, 5, 4, 3, 2, 1] := by decide +kernel
/-- A step fetches what is placed: IADD v9 := v10 + v11, and a word that stands for nothing. -/
theorem test_step_places : (match step (State.reset.withFetchWord 64 (3 + 0x22 * 2 ^ 3 + 9 * 2 ^ 19 + 10 * 2 ^ 27 + 11 * 2 ^ 35)) with
    | .next s => s.cur.isNone | _ => false) = true := by decide +kernel
/-- FIPS 180-4: SHA-256 of "abc". -/
theorem test_sha256 : sha256 [0x61, 0x62, 0x63] = 0xBA7816BF8F01CFEA414140DE5DAE2223B00361A396177A9CB410FF61F20015AD := by decide +kernel
/-- RFC 6979, A.2.5: the P-256 signature of "sample" under SHA-256; another message does not verify. -/
def rfcKey : Nat × Nat :=
  (0x60FED4BA255A9D31C961EB74C6356D68C049B8923B61FA6CE669622E60F29FB6, 0x7903FE1008B8BC99A41AE9E95628BC64F2F1B20C2D7E9F5177A3C294D4462299)
def rfcSignature : List Byte := beBytes 32 0xEFD48B2AACB6A8FD1140DD9CD45E81D69D2C877B56AAF991C34D0EA84EAF3716 ++ beBytes 32 0xF7CB1C942D657C41D436C7A1B6E29F65F3E900DBB9AFF4064DC4AB2F843ACDA8
theorem test_ecdsa : ecdsaOk rfcKey [0x73, 0x61, 0x6D, 0x70, 0x6C, 0x65] rfcSignature = true := by decide +kernel
/-- R195: TRAP 255 enters the handler at 0x10 of code object 1, with the return handle and the number. -/
theorem test_trap : (match exec (.trap (fld 0 0 0 255)) (jumpState trapCtx) with
    | .next s => (thread? s w0 0).map (fun th => (th.pc.toNat, th.tpc.toNat, th.tcause.toNat, th.intrap))
    | _ => none) = some (0x100010, 2 ^ 40 + 8, 255, true) := by decide +kernel
/-- R365: a breakpoint's record has its number in word 3 and lane 0 in its mask; the group stops. -/
theorem test_breakpoint : (match exec (.brk (fld 0 0 0 7)) memState with
    | .next s => (group? s w0).map (fun g => (g.stopped, (g.frec.getD 0 0).toNat / 2 ^ 32, (g.frec.getD 1 0).toNat, (g.frec.getD 3 0).toNat))
    | _ => none) = some (true, 1, 0x100000, 7) := by decide +kernel

end Sys2Proof.Tests
end

section
/-! SUPPORT. Numbers by their bits: what `fromBits` names, and the logic and rotations of R177 in its terms. -/
namespace Sys2Proof.Machine

theorem bit_eq_testBit (x k : Nat) : bit x k = x.testBit k := by
  rw [bit, Nat.testBit_eq_decide_div_mod_eq]
  exact beq_eq_decide _ _

theorem fromBits_lt (w : Nat) (p : Nat → Bool) : fromBits w p < 2 ^ w := by
  induction w with
  | zero => simp [fromBits]
  | succ w ih =>
    rw [fromBits, Nat.pow_succ]
    cases p w <;> simp [b2n] <;> omega

theorem testBit_fromBits (w : Nat) (p : Nat → Bool) (k : Nat) : (fromBits w p).testBit k = (decide (k < w) && p k) := by
  induction w with
  | zero => simp [fromBits]
  | succ w ih =>
    rw [fromBits, Nat.add_comm, Nat.mul_comm, Nat.testBit_two_pow_mul_add _ (fromBits_lt w p), ih]
    rcases Nat.lt_trichotomy k w with lt | rfl | gt
    · simp [lt, Nat.lt_succ_of_lt lt]
    · cases p k <;> simp [b2n]
    · have high : b2n (p w) < 2 ^ (k - w) :=
        lt_of_le_of_lt (by cases p w <;> simp [b2n]) (Nat.one_lt_two_pow (Nat.sub_ne_zero_of_lt gt))
      simp [Nat.testBit_lt_two_pow high, show ¬ k < w by omega, show ¬ k < w + 1 by omega]

/-- A number below 2^w is the one that its w bits name. -/
theorem eq_fromBits {w y : Nat} {p : Nat → Bool} (lt : y < 2 ^ w) (h : ∀ k < w, y.testBit k = p k) : y = fromBits w p := by
  refine Nat.eq_of_testBit_eq fun k => ?_
  rw [testBit_fromBits]
  by_cases hk : k < w
  · simp [hk, h k hk]
  · simp [hk, Nat.testBit_lt_two_pow (lt.trans_le (Nat.pow_le_pow_right (by omega) (Nat.le_of_not_lt hk)))]

theorem fromBits_congr {w : Nat} {p q : Nat → Bool} (h : ∀ k < w, p k = q k) : fromBits w p = fromBits w q :=
  eq_fromBits (fromBits_lt w p) fun k hk => by simp [testBit_fromBits, hk, h k hk]

variable {w a b : Nat}

/-! ## Logic -/

theorem land_eq_fromBits (hb : b < 2 ^ w) : Nat.land a b = fromBits w (fun k => bit a k && bit b k) :=
  eq_fromBits (Nat.and_lt_two_pow a hb) fun k _ => by simp only [bit_eq_testBit]; exact Nat.testBit_and a b k

theorem lor_eq_fromBits (ha : a < 2 ^ w) (hb : b < 2 ^ w) : Nat.lor a b = fromBits w (fun k => bit a k || bit b k) :=
  eq_fromBits (Nat.or_lt_two_pow ha hb) fun k _ => by simp only [bit_eq_testBit]; exact Nat.testBit_or a b k

theorem xor_eq_fromBits (ha : a < 2 ^ w) (hb : b < 2 ^ w) : Nat.xor a b = fromBits w (fun k => bit a k != bit b k) :=
  eq_fromBits (Nat.xor_lt_two_pow ha hb) fun k _ => by simp only [bit_eq_testBit]; exact Nat.testBit_xor a b k

theorem ones_sub_lt (w b : Nat) : ones w - b < 2 ^ w := by
  have := Nat.two_pow_pos w
  unfold ones; omega

theorem testBit_ones_sub (hb : b < 2 ^ w) (k : Nat) : (ones w - b).testBit k = (decide (k < w) && !bit b k) := by
  rw [ones, show 2 ^ w - 1 - b = 2 ^ w - (b + 1) by omega, Nat.testBit_two_pow_sub_succ hb, bit_eq_testBit]

theorem not_eq_fromBits (hb : b < 2 ^ w) : ones w - b = fromBits w (fun k => !bit b k) :=
  eq_fromBits (ones_sub_lt w b) fun k hk => by simp [testBit_ones_sub hb, hk]

theorem andn_eq_fromBits (hb : b < 2 ^ w) : Nat.land a (ones w - b) = fromBits w (fun k => bit a k && !bit b k) := by
  rw [land_eq_fromBits (ones_sub_lt w b)]
  exact fromBits_congr fun k hk => by simp [bit_eq_testBit (ones w - b), testBit_ones_sub hb, hk]

/-- A number summed from its bits. -/
theorem foldl_bits_eq_fromBits (w : Nat) (p : Nat → Bool) :
    (List.range w).foldl (fun r k => if p k then r + 2 ^ k else r) 0 = fromBits w p := by
  induction w with
  | zero => rfl
  | succ w ih =>
    rw [List.range_succ, List.foldl_append, ih, fromBits]
    cases h : p w <;> simp [b2n, h]

theorem bit_mod_two_pow {k : Nat} (x : Nat) (hk : k < w) : bit (x % 2 ^ w) k = bit x k := by
  simp [bit_eq_testBit, Nat.testBit_mod_two_pow, hk]

/-! ## Rotations -/

/-- Rotated left by n < w: bit k comes from n places below, around the end. -/
theorem rotl_eq_fromBits {n : Nat} (ha : a < 2 ^ w) (hn : n < w) :
    rotl w a n = fromBits w (fun k => bit a ((k + (w - n)) % w)) := by
  refine eq_fromBits (Nat.mod_lt _ (Nat.two_pow_pos w)) fun k hk => ?_
  have low : a / 2 ^ (w - n) < 2 ^ n := by
    rw [Nat.div_lt_iff_lt_mul (Nat.two_pow_pos _), ← Nat.pow_add, show n + (w - n) = w by omega]
    exact ha
  rw [rotl, Nat.testBit_mod_two_pow, Nat.mul_comm, Nat.testBit_two_pow_mul_add _ low, bit_eq_testBit]
  by_cases h : k < n
  · simp [hk, h, Nat.testBit_div_two_pow, Nat.mod_eq_of_lt (show k + (w - n) < w by omega)]
  · simp [hk, h, show k + (w - n) = k - n + w by omega, Nat.mod_eq_of_lt (show k - n < w by omega)]

/-- Rotated right by n: bit k comes from n places above, around the end. -/
theorem rotr_eq_fromBits (ha : a < 2 ^ w) (hw : 0 < w) (n : Nat) :
    rotl w a ((w - n % w) % w) = fromBits w (fun k => bit a ((k + n) % w)) := by
  rw [rotl_eq_fromBits ha (Nat.mod_lt _ hw)]
  refine fromBits_congr fun k _ => ?_
  have lt := Nat.mod_lt n hw
  rw [← Nat.add_mod_mod k n]
  rcases Nat.eq_zero_or_pos (n % w) with z | pos
  · simp [z]
  · rw [Nat.mod_eq_of_lt (show w - n % w < w by omega), show w - (w - n % w) = n % w by omega]

end Sys2Proof.Machine
end

section
/-! SUPPORT. What the integer class does with its types (R174), and what the encoding lets fields a and c of an
instruction hold (R164). -/
namespace Sys2Proof.Machine

/-! ## Values under a type -/

theorem natCast_b2n (p : Bool) : ((b2n p : Nat) : Int) = if p then 1 else 0 := by cases p <;> rfl

theorem ofInt_eq (n : Nat) (y : Int) : ofInt n y = (y % 2 ^ n).toNat := by simp [ofInt]

theorem tyWidth_pos (t : Nat) : 0 < tyWidth t := by
  have : t % 4 < 4 := Nat.mod_lt _ (by omega)
  unfold tyWidth
  interval_cases t % 4 <;> decide

/-- Only the low bits count (R174). -/
@[simp] theorem sext_mod (x w : Nat) : sext (x % 2 ^ w) w = sext x w := by simp [sext]

theorem sext_bounds (x w : Nat) : -(2 ^ w : Int) ≤ sext x w ∧ sext x w < 2 ^ w := by
  have := Nat.mod_lt x (Nat.two_pow_pos w)
  simp only [sext]
  split <;> push_cast <;> omega

/-- The clamp of R174. -/
theorem saturate_eq (t : Nat) (y : Int) : saturate t y = if tySigned t
    then max (-(2 ^ (tyWidth t - 1))) (min (2 ^ (tyWidth t - 1) - 1) y) else max 0 (min (2 ^ tyWidth t - 1) y) := by
  unfold saturate
  split <;> simp

theorem idivVal_eq (t : Nat) (a b : Int) :
    idivVal t a b = if b = 0 then (if tySigned t then -1 else 2 ^ tyWidth t - 1) else a.tdiv b := by
  simp [idivVal]

theorem iremVal_eq (a b : Int) : iremVal a b = if b = 0 then a else a - b * a.tdiv b := by
  rw [iremVal, Int.tmod_def]

/-- A shift by the whole width or more leaves the sign (R177 SAR). -/
theorem sext_shift (x w n : Nat) : sext x w / ((2 ^ min n w : Nat) : Int) =
    if w ≤ n then (if sext x w < 0 then -1 else 0) else sext x w / 2 ^ n := by
  obtain ⟨lo, hi⟩ := sext_bounds x w
  by_cases le : w ≤ n
  · rw [Nat.min_eq_right le, if_pos le]
    push_cast
    split
    · rw [Int.ediv_eq_iff_of_pos (by positivity)]
      omega
    · exact Int.ediv_eq_zero_of_lt (by omega) hi
  · rw [Nat.min_eq_left (by omega), if_neg le]
    push_cast
    rfl

/-! ## The fields of an instruction -/

/-- The values below which a field with a role stays, whatever the modifier bits. -/
def FieldRole.bound : FieldRole → Nat
  | .zero => 1
  | .below n => n
  | _ => 256

theorem lt_bound_of_roleOk {r : FieldRole} {f : Fld} {y : BitVec 8} (h : roleOk r f y.toNat = true) : y.toNat < r.bound := by
  cases r with
  | zero => simpa [roleOk, FieldRole.bound] using h
  | below n => simpa [roleOk, FieldRole.bound] using h
  | _ => exact y.isLt

section
variable {i : Instr} {op : Nat} {f : Fld} {g : Sig}

/-- Fields a and c of an instruction keep to their roles (R164). -/
theorem roleOk_of_wf (h : i.wf = true) (hi : opFld i = some (op, f)) (hs : sigOf op = some g) :
    roleOk g.a f f.a.toNat = true ∧ roleOk g.c f f.c.toNat = true := by
  have ok := fieldsOk_of_wf h hi
  simp only [fieldsOk, hs, Bool.and_eq_true] at ok
  obtain ⟨⟨⟨⟨⟨⟨⟨_, ha⟩, hc⟩, _⟩, _⟩, _⟩, _⟩, _⟩ := ok
  exact ⟨ha, hc⟩

theorem a_eq_zero_of_wf (h : i.wf = true) (hi : opFld i = some (op, f)) (hs : sigOf op = some g) (hz : g.a = .zero) :
    f.a = 0 :=
  BitVec.eq_of_toNat_eq (by simpa [hz, roleOk] using (roleOk_of_wf h hi hs).1)

theorem c_eq_zero_of_wf (h : i.wf = true) (hi : opFld i = some (op, f)) (hs : sigOf op = some g) (hz : g.c = .zero) :
    f.c = 0 :=
  BitVec.eq_of_toNat_eq (by simpa [hz, roleOk] using (roleOk_of_wf h hi hs).2)

theorem c_lt_bound_of_wf (h : i.wf = true) (hi : opFld i = some (op, f)) (hs : sigOf op = some g) :
    f.c.toNat < g.c.bound :=
  lt_bound_of_roleOk (roleOk_of_wf h hi hs).2

end

end Sys2Proof.Machine
end

section
/-! SUPPORT. From an instruction whose one result is register d, v or g (R173, R175), to what `Computes` says of it. -/
namespace Sys2Proof.Machine

variable {s : State} {c : Cur} {T : Team} {G : Group} {x : Ctx} {f : Fld} {op : Nat} {i : Instr}

/-- The table gives the opcode v(d) or g(d) as its destination; PMOV and the small matrices have rules of their own. -/
def writesD (op : Nat) : Bool := (sigOf op).any (fun g => g.d == .vg 4) && decide (op < 0xC0) && op != 0x48

theorem Ready.held (h : Ready i s c T G x) (hi : opFld i = some (op, f)) (hd : writesD op = true) (y : Nat) :
    (dstEff f y).held T.kern.f := by
  simp only [writesD, Bool.and_eq_true, decide_eq_true_eq, bne_iff_ne, Option.any_eq_true, beq_iff_eq] at hd
  obtain ⟨⟨role, lt⟩, ne⟩ := hd
  exact dstEff_held role ⟨lt, ne⟩ (fieldsOk_of_wf h.wf hi) (h.range op f (by simp [asLong, hi])) y

/-- An instruction whose result is register d, with effects on its own thread. -/
theorem Ready.writesWith (h : Ready i s c T G x) {body : Env → Except FaultInfo (List Eff)}
    (he : exec i s = Machine.runPure op f s body) (es : Env → List Eff) {val : Env → Nat} {k : Env → Thread → Thread}
    (hb : ∀ l, body (laneEnv c T G x l) = .ok (dstEff f (val (laneEnv c T G x l)) :: es (laneEnv c T G x l)))
    (own : ∀ e, (es e).all Eff.own = true) (hk : ∀ e th, effsThread (es e) th = k e th)
    (hi : opFld i = some (op, f) := by rfl) (hd : writesD op = true := by rfl) : Computes i f s c T G x val k :=
  h.computes (by simp [asLong, hi]) he es (fun l _ => hb l) own (h.held hi hd) hk

/-- An instruction whose only result is register d. -/
theorem Ready.writes (h : Ready i s c T G x) {val : Env → Nat} {r : Env → Nat}
    (he : exec i s = Machine.runPure op f s (fun e => .ok [dstEff f (r e)]))
    (hr : ∀ l, r (laneEnv c T G x l) = val (laneEnv c T G x l))
    (hi : opFld i = some (op, f) := by rfl) (hd : writesD op = true := by rfl) : Computes i f s c T G x val noMore :=
  h.writesWith he (fun _ => []) (fun l => by rw [hr]) (fun _ => rfl) (fun _ _ => rfl) hi hd

/-- An instruction whose only result is register d, written under the type of R174. -/
theorem Ready.writesTyped (h : Ready i s c T G x) {r y : Env → Int}
    (he : exec i s = Machine.runPure op f s (fun e => .ok [dstEff f (tyWrite f.slot.toNat (r e))])) (hr : ∀ e, r e = y e)
    (hi : opFld i = some (op, f) := by rfl) (hd : writesD op = true := by rfl) :
    Computes i f s c T G x (fun e => tyWrite f.slot.toNat (y e)) noMore :=
  h.writes he (fun _ => by rw [hr]) hi hd

end Sys2Proof.Machine
end

section
/-! The statements of R176 and R177. -/
namespace Sys2Proof.Machine

/-- Settles O1: each instruction writes the value of its row, by `Ready.writesTyped`. -/
theorem integerArithmetic : Obligations.IntegerArithmetic := by
  intro f s c T G x t a b k w clamp pc
  have hpc : ∀ e : Env, predOf e.th (bits f.c.toNat 2 0) = pc e := fun e => by simp [pc, bits]
  refine ⟨?rows, ?iadc, ?lea, ?lear, ?fields⟩
  case rows =>
    simp only [List.forall_mem_cons]
    exact ⟨fun h => h.writesTyped rfl fun _ => rfl, -- mov
      fun h => h.writesTyped rfl fun e => by rw [hpc], -- sel
      fun h => h.writesTyped rfl fun _ => rfl, -- iadd
      fun h => h.writesTyped rfl fun _ => rfl, -- isub
      fun h => h.writesTyped rfl fun _ => rfl, -- imul
      fun h => h.writesTyped rfl fun _ => by push_cast; rfl, -- imulh
      fun h => h.writesTyped rfl fun _ => rfl, -- imad
      fun h => h.writesTyped rfl fun _ => idivVal_eq _ _ _, -- idiv
      fun h => h.writesTyped rfl fun _ => iremVal_eq _ _, -- irem
      fun h => h.writesTyped rfl fun _ => rfl, -- ineg
      fun h => h.writesTyped rfl fun _ => rfl, -- iabs
      fun h => h.writesTyped rfl fun _ => ((min_comm _ _).trans (min_def_lt _ _)).symm, -- imin
      fun h => h.writesTyped rfl fun _ => (max_def_lt _ _).symm, -- imax
      fun h => h.writesTyped rfl fun _ => saturate_eq _ _, -- iadds
      fun h => h.writesTyped rfl fun _ => saturate_eq _ _, -- isubs
      List.forall_mem_nil _⟩
  case iadc =>
    refine fun h => h.writesWith rfl (fun e => [.p (bits f.c.toNat 5 3) (carryOut w (srcA e f) (srcB e f) (pc e))])
      (fun l => ?_) (fun _ => rfl) (fun _ _ => rfl)
    simp only [hpc, natCast_b2n]
    rfl
  case lea => exact fun h => h.writes rfl fun _ => by rw [ofInt_eq]; push_cast; rfl
  case lear => exact fun h => h.writes rfl fun _ => ofInt_eq _ _
  case fields =>
    intro row hrow
    fin_cases hrow
    all_goals exact fun h => ⟨fun z => a_eq_zero_of_wf h rfl rfl (by revert z; decide), c_lt_bound_of_wf h rfl rfl⟩

/-- Settles O2: each instruction writes the value of its row, by the bits of the operands. -/
theorem logicAndShifts : Obligations.LogicAndShifts := by
  intro f s c T G x t w a b n
  have ha : ∀ e, a e < 2 ^ w := fun e => Nat.mod_lt _ (Nat.two_pow_pos w)
  have hb : ∀ e, b e < 2 ^ w := fun e => Nat.mod_lt _ (Nat.two_pow_pos w)
  have hw : 0 < w := tyWidth_pos t
  refine ⟨?rows, ?fields, ?notFields⟩
  case rows =>
    simp only [List.forall_mem_cons]
    exact ⟨fun h => h.writesTyped rfl fun e => congrArg Nat.cast (land_eq_fromBits (hb e)), -- and
      fun h => h.writesTyped rfl fun e => congrArg Nat.cast (lor_eq_fromBits (ha e) (hb e)), -- or
      fun h => h.writesTyped rfl fun e => congrArg Nat.cast (xor_eq_fromBits (ha e) (hb e)), -- xor
      fun h => h.writesTyped rfl fun e => congrArg Nat.cast (not_eq_fromBits (hb e)), -- not
      fun h => h.writesTyped rfl fun e => congrArg Nat.cast (andn_eq_fromBits (hb e)), -- andn
      fun h => h.writesTyped rfl fun e => congrArg Nat.cast ((foldl_bits_eq_fromBits _ _).trans
        (fromBits_congr fun k hk => by simp only [truth3, a, b, bit_mod_two_pow (w := w) _ hk])), -- logic3
      fun h => h.writesTyped rfl fun e => by push_cast; rfl, -- shl
      fun h => h.writesTyped rfl fun e => by push_cast; rfl, -- shr
      fun h => h.writesTyped rfl fun e => by simp only [a, sext_mod]; exact sext_shift _ _ _, -- sar
      fun h => h.writesTyped rfl fun e => congrArg Nat.cast (rotl_eq_fromBits (ha e) (Nat.mod_lt _ hw)), -- rol
      fun h => h.writesTyped rfl fun e => congrArg Nat.cast (rotr_eq_fromBits (ha e) hw (n e)), -- ror
      fun h => h.writesTyped rfl fun e => by push_cast; rfl, -- dshr
      List.forall_mem_nil _⟩
  case fields =>
    intro i hi
    fin_cases hi
    all_goals exact fun h => c_eq_zero_of_wf h rfl rfl rfl
  case notFields => exact fun h => a_eq_zero_of_wf h rfl rfl rfl

end Sys2Proof.Machine
end

section
/-! SUPPORT. A cross-lane instruction when the last of its named threads arrives (R33, R219): it executes once, and every
participant has its effects. -/
namespace Sys2Proof.Machine

variable {s s' : State} {c : Cur} {T : Team} {G : Group} {x : Ctx} {f : Fld} {op : Nat} {i : Instr} {named : List Nat}
  {v : Nat → Nat → Option Nat} {g : Nat → Option Nat} {th : Nat → Thread → Thread}

/-! ## States in which only threads have moved -/

/-- Canonical memories that read alike are the same. -/
theorem Mem.eq_of_get {lo : Nat} {m m' : Mem} (h : Mem.above lo m = true) (h' : Mem.above lo m' = true)
    (same : ∀ a, m.get a = m'.get a) : m = m' := by
  induction m generalizing lo m' with
  | nil =>
    cases m' with
    | nil => rfl
    | cons p m' =>
      obtain ⟨a, b⟩ := p
      exact absurd (by simpa [get_cons] using (same a).symm) (above_cons.1 h').2.1
  | cons p m ih =>
    obtain ⟨a, b⟩ := p
    obtain ⟨_, hb, hm⟩ := above_cons.1 h
    cases m' with
    | nil => exact absurd (by simpa [get_cons] using same a) hb
    | cons q m' =>
      obtain ⟨a', b'⟩ := q
      obtain ⟨_, hb', hm'⟩ := above_cons.1 h'
      have heads := same a
      have heads' := same a'
      simp only [get_cons] at heads heads'
      obtain rfl : a = a' := by
        rcases Nat.lt_trichotomy a a' with lt | rfl | gt
        · simp [lt, lt.ne', hb] at heads
        · rfl
        · simp [gt, gt.ne', hb'.symm] at heads'
      obtain rfl : b = b' := by simpa using heads
      rw [ih hm hm' fun y => ?_]
      by_cases le : y < a + 1
      · rw [get_of_above hm le, get_of_above hm' le]
      · simpa [get_cons, show a ≠ y by omega, show ¬ y < a by omega] using same y

/-- Where no register was written, the group's team differs in its groups and the group in its threads. -/
theorem Wrote.moved (h : Wrote s s' c T G (fun _ _ => none) (fun _ => none) th) (clean : T.lpoison = [])
    (canon : T.lmem.wf = true) : ∃ gs ths, team? s' c.w.uid = some { T with groups := gs } ∧
      grp? { T with groups := gs } c.w.group = some { G with threads := ths } ∧
      { s' with teams := s.teams } = s ∧ ∀ l, ths[l]? = (G.threads[l]?).map (th l) := by
  obtain ⟨T', G', same, hth, clean', canon', -, -, bytes⟩ := h
  have hmem : T'.lmem = T.lmem := Mem.eq_of_get canon' canon fun a => bytes a (by simp) (by simp)
  have hT : T' = { T with lmem := T'.lmem, lpoison := T'.lpoison, groups := T'.groups } :=
    congrArg (fun t : Team => { t with lmem := T'.lmem, lpoison := T'.lpoison, groups := T'.groups }) same.teamRest
  rw [hmem, clean'.trans clean.symm] at hT
  have hG : G' = { G with threads := G'.threads } :=
    congrArg (fun g : Group => { g with threads := G'.threads }) same.groupRest
  exact ⟨T'.groups, G'.threads, same.team.trans (congrArg some hT), by rw [← hT, ← hG]; exact same.group,
    same.rest, hth⟩

/-! ## The last arrival -/

theorem LastArrival.lt (h : LastArrival f c T G named) {l : Nat} (m : l ∈ named) : l < 32 := by
  rw [h.mask] at m
  exact List.mem_range.1 (List.mem_filter.1 m).1

theorem LastArrival.rising (h : LastArrival f c T G named) : named.Pairwise (· < ·) := by
  rw [h.mask]
  exact List.pairwise_lt_range.filter _

theorem LastArrival.nodup (h : LastArrival f c T G named) : named.Nodup := h.rising.imp Nat.ne_of_lt

/-- The mask that the arriving threads read, at the lanes that it can name. -/
theorem LastArrival.bit_mask (h : LastArrival f c T G named) {l : Nat} (lt : l < 32) :
    bit (readG T G f.c.toNat % 2 ^ 32) l = true ↔ l ∈ named := by
  rw [bit_mod_two_pow _ lt, h.mask]
  simp [lt]

theorem LastArrival.filter_mask (h : LastArrival f c T G named) :
    (List.range 32).filter (fun l => bit (readG T G f.c.toNat % 2 ^ 32) l) = named := by
  rw [h.mask]
  exact List.filter_congr fun l m => bit_mod_two_pow _ (List.mem_range.1 m)

theorem mem_heldAt {pc l m : Nat} : (l, m) ∈ heldAt G pc ↔
    ∃ th g n d, G.threads[l]? = some th ∧ th.status = .heldLane m g n d ∧ th.pc.toNat = pc := by
  simp only [heldAt, List.mem_filterMap, List.mem_range]
  constructor
  · rintro ⟨l', -, hl⟩
    split at hl
    · rename_i th ht
      split at hl
      · rename_i m' g n d hs
        split at hl
        · rename_i hp
          cases hl
          exact ⟨th, g, n, d, ht, hs, by simpa using hp⟩
        · cases hl
      · cases hl
    · cases hl
  · rintro ⟨th, g, n, d, ht, hs, hp⟩
    exact ⟨l, (List.getElem?_eq_some_iff.1 ht).1, by simp [ht, hs, hp]⟩

/-- The threads held at the instruction read the mask that the arriving ones read. -/
theorem LastArrival.held_agree (h : LastArrival f c T G named) :
    (heldAt G c.pc).any (fun p => p.2 != readG T G f.c.toNat % 2 ^ 32) = false := by
  rw [List.any_eq_false]
  rintro ⟨l, m⟩ mem
  obtain ⟨th, g, n, d, ht, hs, hp⟩ := mem_heldAt.1 mem
  simp [h.agree l th m g n d ht hs hp]

/-- Every named thread arrives or is held at the instruction. -/
theorem LastArrival.all_here (h : LastArrival f c T G named) :
    named.all (fun l => c.lanes.contains l || (heldAt G c.pc).any (fun p => p.1 == l)) = true := by
  rw [List.all_eq_true]
  intro l m
  rcases h.held l m with arriving | ⟨th, g, n, d, ht, hs, hp⟩
  · simp [arriving]
  · simp only [Bool.or_eq_true, List.any_eq_true]
    exact .inr ⟨_, mem_heldAt.2 ⟨th, g, n, d, ht, hs, hp⟩, by simp⟩

@[simp] theorem takeFault_nil (s : State) (c : Cur) (i : FaultInfo) : takeFault s c [] i = s := rfl

/-- With the last named thread the instruction executes for all of them. -/
theorem Ready.laneRun_eq (h : Ready i s c T G x) (hl : LastArrival f c T G named)
    (body : List Env → Except FaultInfo (List (List Eff))) : laneRun op f s body = .next (laneExec op f
      (modThreads s c.w c.lanes (fun th => { th with status := .heldLane (readG T G f.c.toNat % 2 ^ 32) f c.next c.dword }))
      { c with lanes := named } body) := by
  have inMask : ∀ l ∈ c.lanes, bit (readG T G f.c.toNat % 2 ^ 32) l = true := fun l m =>
    (hl.bit_mask (h.lanes l m).1).2 (hl.inMask l m)
  obtain ⟨l₀, ls, hls⟩ := List.exists_cons_of_ne_nil hl.arriving
  have env : Machine.env? s c l₀ = some (laneEnv c T G x l₀) := by
    have := (h.lanes l₀ (by simp [hls])).2
    simp [Machine.env?, laneEnv, h.team, h.group, h.ctx, this]
  have out : c.lanes.filter (fun l => !bit (readG T G f.c.toNat % 2 ^ 32) l) = [] := by
    simpa [List.filter_eq_nil_iff] using inMask
  have inn : c.lanes.filter (fun l => bit (readG T G f.c.toNat % 2 ^ 32) l) = c.lanes := List.filter_eq_self.2 inMask
  have started : c.lanes.isEmpty = false := by simp [hls]
  have clean : ∀ spans, regPoison T G l₀ spans = none := fun _ => by simp [regPoison, h.clean]
  simp only [Machine.laneRun, withCur, h.cur, hls, List.isEmpty_cons, List.headD_cons, Bool.false_eq_true, if_false, env]
  simp only [← hls, laneEnv, clean, hl.held_agree, Bool.false_or, out, inn, hl.filter_mask, takeFault_nil, started,
    hl.all_here, Bool.not_false, Bool.and_self, if_true]
  refine congrArg Host.Outcome.next (if_neg ?live)
  rw [Bool.not_eq_true, List.any_eq_false]
  intro l m on
  rw [Bool.and_eq_true, hl.bit_mask (List.mem_range.1 m)] at on
  obtain ⟨th, ht, hs⟩ := hl.live l on.1
  simp [ht, alive, hs] at on

/-! ## Execution -/

/-- Execution where no participant's registers are out of range or poisoned. -/
theorem laneExec_eq {s₁ s₂ : State} {es : List Env} {body : List Env → Except FaultInfo (List (List Eff))}
    {effs : List (List Eff)} (h₁ : modThreads s c.w c.lanes (fun th => { th with last := s.tick }) = s₁)
    (h₂ : goto s₁ c.w c.lanes c.pc = s₂)
    (sound : ((active s₁ c f).filterMap (env? s₁ c)).filterMap
      (fun e => (registerFault e op f).map (fun i => (e.lane, i))) = [])
    (read : (active s₁ c f).filterMap (env? s₂ c) = es) (answer : body es = .ok effs) :
    laneExec op f s c body =
      (es.zip effs).foldl (fun s p => applyEffs c.w p.1.lane false s p.2) (goto s₂ c.w c.lanes c.next) := by
  subst h₁ h₂ read
  simp [laneExec, sound, freePoison, takeFaults, answer]

/-- What a participant reads once the threads have issued: its group's threads have moved, its registers have not. -/
def Env.issued (gs : List Group) (ths : List Thread) (named : List Nat) (tick : Nat) (e : Env) : Env :=
  { e with
    t := { e.t with groups := gs }
    g := { e.g with threads := ths }
    c := { e.c with lanes := named }
    th := stepped e.c.pc { e.th with last := tick } }

section
variable (gs : List Group) (ths : List Thread) (tick : Nat) (e : Env)

@[simp] theorem Env.issued_lane : (e.issued gs ths named tick).lane = e.lane := rfl
@[simp] theorem srcV_issued (n : Nat) : srcV (e.issued gs ths named tick) n = srcV e n := rfl
@[simp] theorem srcBz_issued (f : Fld) : srcBz (e.issued gs ths named tick) f = srcBz e f := rfl
@[simp] theorem srcBs_issued (f : Fld) : srcBs (e.issued gs ths named tick) f = srcBs e f := rfl
@[simp] theorem predOf_issued (n : Nat) : predOf (e.issued gs ths named tick).th n = predOf e.th n := rfl

end

/-- The named threads, taken together, stand at the instruction as one issue group does. -/
theorem Ready.together (h : Ready i s c T G x) (hl : LastArrival f c T G named)
    (hw : Wrote s s' c T G (fun _ _ => none) (fun _ => none) th) : ∃ gs ths,
      Ready i { s' with cur := some { c with lanes := named } } { c with lanes := named } { T with groups := gs }
        { G with threads := ths } x ∧ ∀ l, ths[l]? = (G.threads[l]?).map (th l) := by
  obtain ⟨gs, ths, team, group, rest, moved⟩ := hw.moved h.clean h.canon
  refine ⟨gs, ths, ⟨⟨rfl, team, group, ?ctx, fun l m => ⟨hl.lt m, ?thread⟩, hl.rising, h.whole⟩, h.wf, h.range,
    h.clean, h.canon⟩, moved⟩
  case ctx =>
    have same : ctxOf { s' with teams := s.teams } T = ctxOf s T := by rw [rest]
    exact same.trans h.ctx
  case thread =>
    obtain ⟨t, ht, -⟩ := hl.live l m
    exact (List.getElem?_eq_some_iff.1 ((moved l).trans (by rw [ht]; rfl))).1

/-- Threads keep their guards when their predicates stay. -/
theorem acting_moved {ths : List Thread} (moved : ∀ l, ths[l]? = (G.threads[l]?).map (th l))
    (p : ∀ l t, (th l t).p = t.p) : acting c { G with threads := ths } f = acting c G f :=
  List.filter_congr fun l _ => by
    simp only [moved]
    cases G.threads[l]? <;> simp [guardTrue, predOf, p]

/-- What the acting threads among the named ones read, where only threads have moved and kept their predicates. -/
theorem Ready.reads (h : Ready i s c T G x) (hl : LastArrival f c T G named) (hi : asLong i = some (op, f))
    (hw : Wrote s s' c T G (fun _ _ => none) (fun _ => none) th) (p : ∀ l t, (th l t).p = t.p) : ∃ gs ths,
      (∀ l, ths[l]? = (G.threads[l]?).map (th l)) ∧
      active s' { c with lanes := named } f = acting { c with lanes := named } G f ∧
      (acting { c with lanes := named } G f).filterMap (env? s' { c with lanes := named }) =
        (acting { c with lanes := named } G f).map
          (laneEnv { c with lanes := named } { T with groups := gs } { G with threads := ths } x) ∧
      ∀ l, Machine.registerFault
        (laneEnv { c with lanes := named } { T with groups := gs } { G with threads := ths } x l) op f = none := by
  obtain ⟨gs, ths, r, moved⟩ := h.together hl hw
  have act := acting_moved (c := { c with lanes := named }) (f := f) moved p
  refine ⟨gs, ths, moved, (r.toStands.active f).trans act, ?_, r.registerFault hi⟩
  rw [← act, ← List.filterMap_eq_map]
  exact List.filterMap_congr fun l m => r.toStands.env? m

/-- A thread that has issued at the instruction reads as it did before. -/
theorem laneEnv_issued {gs : List Group} {ths : List Thread} {tick l : Nat} {t : Thread} (ht : G.threads[l]? = some t)
    (moved : ths[l]? = some (stepped c.pc { t with last := tick })) :
    laneEnv { c with lanes := named } { T with groups := gs } { G with threads := ths } x l =
      (laneEnv c T G x l).issued gs ths named tick := by
  simp [laneEnv, Env.issued, ht, moved]

/-- Effects of several threads, none of which writes g. -/
theorem Wrote.effsEach (ls : List Nat) (lt : ∀ l ∈ ls, l < 32) (nd : ls.Nodup) (es : Nat → List Eff)
    (ok : ∀ l ∈ ls, ∀ e ∈ es l, e.held T.kern.f) (h : Wrote s s' c T G v g th) :
    Wrote s (ls.foldl (fun r l => applyEffs c.w l false r (es l)) s') c T G
      (fun m n => if m ∈ ls then effsV (es m) n (v m n) else v m n) g
      (fun m t => if m ∈ ls then effsThread (es m) (th m t) else th m t) := by
  induction ls generalizing s' v th with
  | nil => exact h.congr (by simp) (by simp) (by simp)
  | cons l ls ih =>
    obtain ⟨new, nd⟩ := List.nodup_cons.1 nd
    have first := h.effs (lt l List.mem_cons_self) false (es l) (ok l List.mem_cons_self)
    refine (ih (fun a m => lt a (List.mem_cons_of_mem _ m)) nd (fun a m => ok a (List.mem_cons_of_mem _ m)) first).congr
      (fun m n _ _ => ?_) (by simp) (fun m t _ => ?_)
    · by_cases e : m = l
      · subst e; simp [new]
      · simp [e]
    · by_cases e : m = l
      · subst e; simp [new]
      · simp [e]

@[simp] theorem modThreads_tick (s : State) (w : Where) (ls : List Nat) (k : Thread → Thread) :
    (modThreads s w ls k).tick = s.tick := by
  induction ls generalizing s with
  | nil => rfl
  | cons l ls ih => exact ih _

/-- The state after a cross-lane instruction with the effects `es` of each participant. -/
def LanesWrote (s s' : State) (c : Cur) (T : Team) (G : Group) (f : Fld) (named : List Nat) (es : Nat → List Eff) : Prop :=
  let act := acting { c with lanes := named } G f
  Wrote s s' c T G (fun l n => if l ∈ act then effsV (es l) n none else none) (fun _ => none)
    (fun l th => advance { c with lanes := named } act (fun l => effsThread (es l)) l
      (if l ∈ named then { th with last := s.tick } else th))

section
variable {body : List Env → Except FaultInfo (List (List Eff))} {es : Env → List Eff}

/-- Execution once the arriving threads are held: each participant has its effects, and every named thread
issues and advances. -/
theorem Ready.laneExec {s₀ : State} {st : Status} (h : Ready i s c T G x) (hl : LastArrival f c T G named)
    (hi : asLong i = some (op, f)) (tick : s₀.tick = s.tick)
    (w₀ : Wrote s s₀ c T G (fun _ _ => none) (fun _ => none)
      (fun l t => if l ∈ c.lanes then { t with status := st } else t))
    (hb : ∀ gs ths, body ((participants f c T G x named).map (Env.issued gs ths named s.tick)) =
      .ok ((participants f c T G x named).map es))
    (ok : ∀ e ∈ participants f c T G x named, ∀ y ∈ es e, y.held T.kern.f) :
    LanesWrote s (laneExec op f s₀ { c with lanes := named } body) c T G f named (fun l => es (laneEnv c T G x l)) := by
  let act := acting { c with lanes := named } G f
  have sub : ∀ l ∈ act, l ∈ named := fun l m => acting_lanes m
  have w₁ := w₀.threads (fun th => { th with last := s₀.tick }) named hl.nodup
  have w₂ := w₁.goto c.pc named hl.nodup
  have w₃ := (w₂.goto c.next named hl.nodup).effsEach act (fun l m => hl.lt (sub l m)) (hl.nodup.filter _)
    (fun l => es (laneEnv c T G x l)) (fun l m => ok _ (List.mem_map_of_mem m))
  obtain ⟨gs₁, ths₁, -, active₁, env₁, sound₁⟩ := h.reads hl hi w₁ fun l t => by split_ifs <;> rfl
  obtain ⟨gs₂, ths₂, moved₂, -, env₂, -⟩ := h.reads hl hi w₂ fun l t => by split_ifs <;> rfl
  have read : act.map (laneEnv { c with lanes := named } { T with groups := gs₂ } { G with threads := ths₂ } x) =
      (participants f c T G x named).map (Env.issued gs₂ ths₂ named s.tick) := by
    rw [participants, List.map_map]
    refine List.map_congr_left fun l m => ?_
    obtain ⟨t, ht, -⟩ := hl.live l (sub l m)
    refine laneEnv_issued ht ?_
    rw [moved₂, ht, Option.map_some, if_pos (sub l m), if_pos (sub l m), tick]
    split <;> rfl
  have run := laneExec_eq (op := op) (c := { c with lanes := named }) (f := f) (body := body) rfl rfl ?sound
    ((congrArg _ active₁).trans (env₂.trans read)) (hb gs₂ ths₂)
  case sound =>
    refine List.filterMap_eq_nil_iff.2 fun e m => ?_
    obtain ⟨l, -, rfl⟩ := List.mem_map.1 (((congrArg _ active₁).trans env₁) ▸ m)
    rw [sound₁ l, Option.map_none]
  unfold LanesWrote
  rw [run, List.zip_map', List.foldl_map, participants, List.foldl_map]
  refine w₃.congr (fun _ _ _ _ => rfl) (fun _ _ => rfl) fun l t _ => ?_
  by_cases m : l ∈ named
  · simp only [advance, m, if_true, tick]
    split_ifs <;> rfl
  · simp [advance, m, mt (sub l) m, mt (hl.inMask l) m]

/-- A cross-lane instruction at its last arrival, when no participant faults. -/
theorem Ready.laneRun (h : Ready i s c T G x) (hl : LastArrival f c T G named) (hi : asLong i = some (op, f))
    (hb : ∀ gs ths, body ((participants f c T G x named).map (Env.issued gs ths named s.tick)) =
      .ok ((participants f c T G x named).map es))
    (ok : ∀ e ∈ participants f c T G x named, ∀ y ∈ es e, y.held T.kern.f) :
    ∃ s', laneRun op f s body = .next s' ∧ LanesWrote s s' c T G f named (fun l => es (laneEnv c T G x l)) := by
  have w₀ := (Wrote.refl h.team h.group h.clean h.canon).threads
    (fun th => { th with status := .heldLane (readG T G f.c.toNat % 2 ^ 32) f c.next c.dword }) c.lanes
    (h.rising.imp Nat.ne_of_lt)
  exact ⟨_, h.laneRun_eq hl body, h.laneExec hl hi (modThreads_tick _ _ _ _) w₀ hb ok⟩

end

end Sys2Proof.Machine
end

section
/-! SUPPORT. Cross-lane instructions whose result is v(d) or a predicate (R220, R221), in the terms of `ComputesLanes`. -/
namespace Sys2Proof.Machine

variable {s : State} {c : Cur} {T : Team} {G : Group} {x : Ctx} {f : Fld} {op : Nat} {i : Instr} {named : List Nat}
  {body : List Env → Except FaultInfo (List (List Eff))}

/-! ## Fields b, slot and m -/

section
variable {g : Sig}

/-- Field b, the slot field and the modifier bits of an instruction keep to their uses (R157, R158, R160). -/
theorem usesOk_of_wf (h : i.wf = true) (hi : opFld i = some (op, f)) (hs : sigOf op = some g) :
    (if f.form == .w96 then litOk g f else roleOk g.b f f.b.toNat) = true ∧ slotOk g.slot f.slot.toNat = true ∧
      (f.m.toNat &&& 0x1F8) &&& g.mods = f.m.toNat &&& 0x1F8 := by
  have ok := fieldsOk_of_wf h hi
  simp only [fieldsOk, hs, Bool.and_eq_true] at ok
  obtain ⟨⟨⟨⟨⟨-, hb⟩, hslot⟩, -⟩, hm⟩, -⟩ := ok
  exact ⟨hb, hslot, beq_iff_eq.1 hm⟩

/-- An instruction without a literal form has its field b in its role. -/
theorem roleOk_b_of_wf (h : i.wf = true) (hi : opFld i = some (op, f)) (hs : sigOf op = some g) (noLit : g.lit = false) :
    roleOk g.b f f.b.toNat = true := by
  obtain ⟨hb, -⟩ := usesOk_of_wf h hi hs
  split at hb
  · simp [litOk, noLit] at hb
  · exact hb

theorem b_eq_zero_of_wf (h : i.wf = true) (hi : opFld i = some (op, f)) (hs : sigOf op = some g) (noLit : g.lit = false)
    (hz : g.b = .zero) : f.b = 0 :=
  BitVec.eq_of_toNat_eq (by simpa [hz, roleOk] using roleOk_b_of_wf h hi hs noLit)

theorem slot_eq_zero_of_wf (h : i.wf = true) (hi : opFld i = some (op, f)) (hs : sigOf op = some g) (hz : g.slot = .zero) :
    f.slot = 0 :=
  BitVec.eq_of_toNat_eq (by simpa [hz, slotOk] using (usesOk_of_wf h hi hs).2.1)

/-- A modifier bit above the low three that the instruction does not use is 0. -/
theorem fldBit_eq_false_of_wf (h : i.wf = true) (hi : opFld i = some (op, f)) (hs : sigOf op = some g) {k : Nat}
    (high : Nat.testBit 0x1F8 k = true) (unused : g.mods.testBit k = false) : fldBit f k = false := by
  obtain ⟨-, -, hm⟩ := usesOk_of_wf h hi hs
  have := congrArg (Nat.testBit · k) hm
  simpa [fldBit, bit_eq_testBit, high, unused] using this.symm

end

/-! ## Results -/

theorem participants_lane_lt (hl : LastArrival f c T G named) : ∀ e ∈ participants f c T G x named, e.lane < 32 := by
  intro e m
  obtain ⟨l, on, rfl⟩ := List.mem_map.1 m
  exact hl.lt (acting_lanes on)

theorem asLong_of_opFld (hi : opFld i = some (op, f)) : asLong i = some (op, f) := by rw [asLong, hi]

/-- The destination v(d) of a cross-lane instruction is a register of the kernel (R94). -/
theorem Ready.lane_d_lt (h : Ready i s c T G x) (hi : opFld i = some (op, f)) (lane : isLaneOp op = true)
    (hd : (sigOf op).any (fun g => g.d == .v) = true) : f.d.toNat < T.kern.f := by
  obtain ⟨g, hs, hd⟩ := Option.any_eq_true _ _ |>.1 hd
  have bounds : 0x77 ≤ op ∧ op ≤ 0x8B := by simpa [isLaneOp] using lane
  have mem : (f.d.toNat, 1) ∈ vSpans op f := by
    unfold vSpans
    rw [if_neg (by simp; omega)]
    simp [hs, beq_iff_eq.1 hd,
      show op ≠ 0x48 ∧ op ≠ 0x75 ∧ op ≠ 0x9C ∧ op ≠ 0x9D ∧ op ≠ 0xCE ∧ op ≠ 0xD8 ∧ op ≠ 0xD9 by omega]
  have := vNeed_mem mem
  have := h.range op f (asLong_of_opFld hi)
  omega

/-- A cross-lane instruction that writes v(d) of each participant. -/
theorem Ready.writesLanes (h : Ready i s c T G x) (hl : LastArrival f c T G named)
    (he : exec i s = Machine.laneRun op f s body) {val : List Env → Env → Nat}
    (hb : ∀ gs ths, body ((participants f c T G x named).map (Env.issued gs ths named s.tick)) =
      .ok ((participants f c T G x named).map fun e => [.v f.d.toNat (val (participants f c T G x named) e)]))
    (hi : opFld i = some (op, f) := by rfl) (lane : isLaneOp op = true := by rfl)
    (hd : (sigOf op).any (fun g => g.d == .v) = true := by rfl) :
    ComputesLanes i f s c T G x named (fun ps e => some (f.d.toNat, val ps e)) (fun _ _ th => th) := by
  obtain ⟨s', run, wrote⟩ := h.laneRun hl (asLong_of_opFld hi) hb fun e _ y hy => by
    rw [List.mem_singleton.1 hy]
    exact h.lane_d_lt hi lane hd
  unfold LanesWrote at wrote
  refine ⟨s', he.trans run, wrote.congr (fun l n _ _ => ?_) (fun _ _ => rfl) (fun _ _ _ => rfl)⟩
  simp [effsV, Eff.onV, ite_and]

/-- A cross-lane instruction that writes predicate d of each participant. -/
theorem Ready.votesLanes (h : Ready i s c T G x) (hl : LastArrival f c T G named)
    (he : exec i s = Machine.laneRun op f s body) {val : List Env → Bool}
    (hb : ∀ gs ths, body ((participants f c T G x named).map (Env.issued gs ths named s.tick)) =
      .ok ((participants f c T G x named).map fun _ => [.p f.d.toNat (val (participants f c T G x named))]))
    (hi : opFld i = some (op, f) := by rfl) :
    ComputesLanes i f s c T G x named (fun _ _ => none) (fun ps _ => setPred f.d.toNat (val ps)) := by
  obtain ⟨s', run, wrote⟩ := h.laneRun hl (asLong_of_opFld hi) hb fun e _ y hy => by
    rw [List.mem_singleton.1 hy]
    trivial
  unfold LanesWrote at wrote
  refine ⟨s', he.trans run, wrote.congr (fun l n _ _ => ?_) (fun _ _ => rfl) (fun _ _ _ => rfl)⟩
  simp [effsV, Eff.onV]

/-- Effects answered one by one, each from what a participant reads once it has issued. -/
theorem answers_issued {gs : List Group} {ths : List Thread} {tick : Nat} {ps : List Env} {es es' : Env → List Eff}
    (same : ∀ e ∈ ps, es (Env.issued gs ths named tick e) = es' e) :
    (Except.ok ((ps.map (Env.issued gs ths named tick)).map es) : Except FaultInfo _) = .ok (ps.map es') := by
  rw [List.map_map]
  exact congrArg Except.ok (List.map_congr_left same)

/-! ## Moves -/

theorem exec_lget (f : Fld) (s : State) : exec (.lget f) s = execLget f s := rfl
theorem exec_lslide (f : Fld) (s : State) : exec (.lslide f) s = execLslide f s := rfl
theorem exec_lslideW (f : Fld) (s : State) : exec (.lslideW f) s = execLslideW f s := rfl
theorem exec_lpair (f : Fld) (s : State) : exec (.lpair f) s = execLpair f s := rfl
theorem exec_lcycle (f : Fld) (s : State) : exec (.lcycle f) s = execLcycle f s := rfl
theorem exec_lcast (f : Fld) (s : State) : exec (.lcast f) s = execLcast f s := rfl

theorem find?_lane_issued (gs : List Group) (ths : List Thread) (tick l : Nat) (ps : List Env) :
    (ps.map (Env.issued gs ths named tick)).find? (fun u => u.lane == l) =
      (ps.find? (fun u => u.lane == l)).map (Env.issued gs ths named tick) :=
  List.find?_map ..

/-- What R220 moves: the a of the source lane; own a, or 0 under .z, where the source is none or no participant. -/
def movedTo (f : Fld) (ps : List Env) (e : Env) (source : Option Nat) : Nat :=
  match source.bind (fun l => ps.find? (fun u => u.lane == l)) with
  | some u => srcV u f.a.toNat
  | none => if fldBit f 6 then 0 else srcV e f.a.toNat

/-- A lane move whose source lane depends on what the threads read, not on their having issued. -/
theorem Ready.movesLanes (h : Ready i s c T G x) (hl : LastArrival f c T G named) {src : Env → List Nat → Option Nat}
    (he : exec i s = laneMove op f s src) {source : List Env → Env → Option Nat}
    (hs : ∀ ps e, src e (ps.map (·.lane)) = source ps e)
    (steady : ∀ gs ths tick e ls, src (Env.issued gs ths named tick e) ls = src e ls := by intros; rfl)
    (hi : opFld i = some (op, f) := by rfl) (lane : isLaneOp op = true := by rfl)
    (hd : (sigOf op).any (fun g => g.d == .v) = true := by rfl) :
    ComputesLanes i f s c T G x named (fun ps e => some (f.d.toNat, movedTo f ps e (source ps e))) (fun _ _ th => th) := by
  refine h.writesLanes hl he (val := fun ps e => movedTo f ps e (source ps e)) (fun gs ths => ?_) hi lane hd
  refine answers_issued fun e _ => ?_
  have lanes : ((participants f c T G x named).map (Env.issued gs ths named s.tick)).map (·.lane) =
      (participants f c T G x named).map (·.lane) := List.map_map
  simp only [lanes, steady, movedTo, ← hs]
  simp only [hs, find?_lane_issued, srcV_issued]
  cases source (participants f c T G x named) e with
  | none => rfl
  | some l => cases hu : (participants f c T G x named).find? (fun u => u.lane == l) <;> simp [hu]

/-- The source lane of LSLIDE: none where it leaves the lanes. -/
theorem slide_source (y : Int) :
    (if y < 0 || 31 < y then none else some y.toNat) = if 0 ≤ y ∧ y ≤ 31 then some y.toNat else none := by
  by_cases h : 0 ≤ y ∧ y ≤ 31
  · rw [if_pos h, if_neg (by simp; omega)]
  · rw [if_neg h, if_pos (by simp; omega)]

/-- The source lane of LCYCLE, from the participants or from their lanes. -/
theorem cycle_source (ps : List Env) (l b : Nat) :
    (ps.map (·.lane))[((ps.map (·.lane)).idxOf l + b) % (ps.map (·.lane)).length]? =
    (ps[(ps.findIdx (fun u => u.lane == l) + b) % ps.length]?).map (·.lane) := by
  rw [List.getElem?_map, List.length_map, List.idxOf, List.findIdx_map]
  rfl

/-! ## Votes -/

theorem testBit_laneMask (ls : List Nat) (k : Nat) : (laneMask ls).testBit k = ls.contains k := by
  have gen : ∀ m, (ls.foldl (fun m l => m ||| 2 ^ l) m).testBit k = (m.testBit k || ls.contains k) := by
    induction ls with
    | nil => simp
    | cons l ls ih =>
      intro m
      rw [List.foldl_cons, ih, Nat.testBit_or, Nat.testBit_two_pow, List.contains_cons, Bool.or_assoc, beq_eq_decide]
      simp only [eq_comm]
  rw [laneMask, gen, Nat.zero_testBit, Bool.false_or]

/-- The mask of some lanes, by its bits. -/
theorem laneMask_eq_fromBits {ps : List Env} (lt : ∀ e ∈ ps, e.lane < 32) :
    laneMask (ps.map (·.lane)) = fromBits 32 (fun l => ps.any (fun u => u.lane == l)) := by
  have bits : ∀ k, (laneMask (ps.map (·.lane))).testBit k = ps.any (fun u => u.lane == k) := fun k => by
    rw [testBit_laneMask, List.contains_eq_any_beq, List.any_map]
    exact congrArg ps.any (funext fun u => Bool.beq_comm ..)
  refine eq_fromBits (Nat.lt_pow_two_of_testBit _ fun k hk => ?_) fun k _ => bits k
  rw [bits, List.any_eq_false]
  intro e m
  have := lt e m
  simp; omega

/-- The mask of the participants that a test picks, found after they have issued. -/
theorem laneMask_issued {gs : List Group} {ths : List Thread} {tick : Nat} {ps : List Env} {q q' : Env → Bool}
    (lt : ∀ e ∈ ps, e.lane < 32) (same : ∀ e, q (Env.issued gs ths named tick e) = q' e) :
    laneMask (((ps.map (Env.issued gs ths named tick)).filter q).map (·.lane)) =
      fromBits 32 (fun l => (ps.filter q').any (fun u => u.lane == l)) := by
  rw [← laneMask_eq_fromBits fun e m => lt e (List.mem_filter.1 m).1, List.filter_map, List.map_map]
  exact congrArg (fun r => laneMask ((ps.filter r).map (·.lane))) (funext same)

end Sys2Proof.Machine
end

section
/-! The statement of R220 and R221. -/
namespace Sys2Proof.Machine

/-- Settles O11: each instruction executes once when its last named thread arrives (`Ready.laneRun`), with the value of its
row. -/
theorem laneMovesAndVotes : Obligations.LaneMovesAndVotes := by
  refine ⟨?moves, ?fields, ?votes⟩
  case moves =>
    intro f s c T G x named b
    simp only [List.forall_mem_cons]
    exact ⟨fun h hl => h.movesLanes hl (exec_lget f s) fun _ _ => rfl,
      fun h hl => h.movesLanes hl (exec_lslide f s) fun _ e => slide_source _,
      fun h hl => h.movesLanes hl (exec_lslideW f s) fun _ _ => rfl,
      fun h hl => h.movesLanes hl (exec_lpair f s) fun _ _ => rfl,
      fun h hl => h.movesLanes hl (exec_lcycle f s) fun ps e => cycle_source ps _ _,
      fun h hl => h.movesLanes hl (exec_lcast f s) fun _ _ => rfl,
      List.forall_mem_nil _⟩
  case fields =>
    intro f
    refine ⟨?slots, ?lcast, ?others⟩
    case slots =>
      intro i hi
      fin_cases hi
      all_goals exact fun h => slot_eq_zero_of_wf h rfl rfl rfl
    case lcast =>
      exact fun h => ⟨by simpa [roleOk] using roleOk_b_of_wf h rfl rfl rfl, fldBit_eq_false_of_wf h rfl rfl rfl rfl⟩
    case others =>
      intro i hi
      fin_cases hi
      all_goals exact fun h => ⟨b_eq_zero_of_wf h rfl rfl rfl rfl, fldBit_eq_false_of_wf h rfl rfl rfl rfl,
        fldBit_eq_false_of_wf h rfl rfl rfl rfl⟩
  case votes =>
    intro f s c T G x named p mask
    refine ⟨?predicates, ?numbers⟩
    case predicates =>
      simp only [List.forall_mem_cons]
      exact ⟨fun h hl => h.votesLanes hl rfl fun _ _ => answers_issued fun _ _ => by simp [p, Function.comp_def], -- lall
        fun h hl => h.votesLanes hl rfl fun _ _ => answers_issued fun _ _ => by simp [p, Function.comp_def], -- lany
        fun h hl => h.votesLanes hl rfl fun _ _ => answers_issued fun _ _ => by
          simp [p, Function.comp_def, List.not_any_eq_all_not], -- lsame
        List.forall_mem_nil _⟩
    case numbers =>
      simp only [List.forall_mem_cons]
      exact ⟨fun h hl => h.writesLanes hl rfl fun _ _ => answers_issued fun _ _ =>
          congrArg (fun y => [Eff.v _ y]) (laneMask_issued (participants_lane_lt hl) fun _ => rfl), -- lbits
        fun h hl => h.writesLanes hl rfl fun _ _ => answers_issued fun _ _ => by
          simp [p, List.filter_map, Function.comp_def], -- lcount
        fun h hl => h.writesLanes hl rfl fun _ _ => answers_issued fun _ _ =>
          congrArg (fun y => [Eff.v _ y]) (laneMask_issued (participants_lane_lt hl) fun _ => rfl), -- lpeers
        List.forall_mem_nil _⟩

end Sys2Proof.Machine
end
